-- ==== Sys2Proof/Word.lean ====
section
/-!
DEFINITION. The word types of the register banks (Table 4-4).
-/
namespace Sys2Proof

abbrev Byte := BitVec 8
abbrev Word := BitVec 64
abbrev Index := BitVec 32
abbrev Vec := BitVec 1024
abbrev Acc := BitVec 2048
abbrev Pred := BitVec 128

end Sys2Proof
end

