-- ==== Sys2Proof/Machine/Bits.lean ====
section
/-!
DEFINITION. The bit-field helpers of Table 1-6 that every file uses.
-/
namespace Sys2Proof

/-- bits(x, hi, lo) of R20, on numbers. -/
def bits (x hi lo : Nat) : Nat := x / 2 ^ lo % 2 ^ (hi + 1 - lo)

/-- sext(x, n) of R20. -/
def sext (x n : Nat) : Int :=
  let y := x % 2 ^ n
  if 2 * y < 2 ^ n then y else (y : Int) - 2 ^ n

/-- popcount of the low n bits (R20). -/
def popcount (n x : Nat) : Nat :=
  match n with
  | 0 => 0
  | n + 1 => x % 2 + popcount n (x / 2)

end Sys2Proof
end

