-- ==== Sys2Proof/Machine/Numbers.lean ====
section
/-!
DEFINITION. Numeric behaviour version 1 ("Numbers", R24 to R47): element formats, exact values, the one rounding of an
elementary operation, conversions, special functions, RNG128, the hash and CRC-32C.
-/
namespace Sys2Proof.Machine

/-! ### Rounding modes and formats -/

/-! ### Codes of types -/

/-- The element width of a type code T (R53, Table 3-5), in bits. -/
def elemBits : Nat → Nat
  | 0 => 8 | 1 => 16 | 2 => 32 | 3 => 64 | 4 => 16 | 5 => 16 | 6 => 32 | _ => 8

/-- The element bytes of an operand-type code OT that TCVT admits (Table 7-1, R192); 0 where it does not. -/
def otBytes : Nat → Nat
  | 0 => 2 | 1 => 1 | 2 => 1 | 3 => 1 | 4 => 1 | 5 => 2 | 6 => 2 | 8 => 4 | 9 => 4 | 10 => 2 | _ => 0

/-- The integer operand types of Table 7-1. -/
def otInt (o : Nat) : Bool := decide (o = 3 ∨ o = 4 ∨ o = 5 ∨ o = 6 ∨ o = 9)

/-- Table 2-2. -/
inductive Rounding where
  | rne | rtz | rdn | rup
  deriving DecidableEq, Repr

def Rounding.ofCode : Nat → Rounding
  | 0 => .rne | 1 => .rtz | 2 => .rdn | _ => .rup

/-- The floating formats of Table 2-1. -/
inductive Fmt where
  | fp32 | bf16 | fp16 | e5m2 | e4m3 | e2m1
  deriving DecidableEq, Repr

def Fmt.ebits : Fmt → Nat
  | .fp32 => 8 | .bf16 => 8 | .fp16 => 5 | .e5m2 => 5 | .e4m3 => 4 | .e2m1 => 2

def Fmt.fbits : Fmt → Nat
  | .fp32 => 23 | .bf16 => 7 | .fp16 => 10 | .e5m2 => 2 | .e4m3 => 3 | .e2m1 => 1

def Fmt.bias (f : Fmt) : Nat := 2 ^ (f.ebits - 1) - 1

def Fmt.width (f : Fmt) : Nat := 1 + f.ebits + f.fbits

/-- The code of the largest finite magnitude (Table 2-1). -/
def Fmt.maxCode : Fmt → Nat
  | .fp32 => 0x7F7FFFFF | .bf16 => 0x7F7F | .fp16 => 0x7BFF | .e5m2 => 0x7B | .e4m3 => 0x7E | .e2m1 => 0x7

/-- The canonical NaN (R29); E2M1 has none, and a NaN converts to +0 there (R34). -/
def Fmt.nanCode : Fmt → Nat
  | .fp32 => 0x7FC00000 | .bf16 => 0x7FC0 | .fp16 => 0x7E00 | .e5m2 => 0x7E | .e4m3 => 0x7F | .e2m1 => 0

/-- The code that stands for an infinite magnitude: E4M3 has NaN in its place (Table 2-3), E2M1 clamps to 6 (R34). -/
def Fmt.infCode : Fmt → Nat
  | .fp32 => 0x7F800000 | .bf16 => 0x7F80 | .fp16 => 0x7C00 | .e5m2 => 0x7C | .e4m3 => 0x7F | .e2m1 => 0x7

/-! ### Exact values -/

/-- An extended real held exactly: (−1)^neg · m · 2^e when finite, with the sign of a zero kept. -/
inductive FVal where
  | nan
  | inf (neg : Bool)
  | fin (neg : Bool) (m : Nat) (e : Int)
  deriving DecidableEq, Repr

def FVal.zero : FVal := .fin false 0 0
def FVal.one : FVal := .fin false 1 0

def FVal.isNan : FVal → Bool
  | .nan => true
  | _ => false

def FVal.isZero : FVal → Bool
  | .fin _ 0 _ => true
  | _ => false

/-- The value of a code (R26, R27). -/
def decodeF (f : Fmt) (x : Nat) : FVal :=
  let neg := x / 2 ^ (f.ebits + f.fbits) % 2 == 1
  let ex := x / 2 ^ f.fbits % 2 ^ f.ebits
  let fr := x % 2 ^ f.fbits
  let top := ex == 2 ^ f.ebits - 1
  if top && f == .e4m3 && fr == 7 then .nan
  else if top && f != .e4m3 && f != .e2m1 then (if fr == 0 then .inf neg else .nan)
  else if ex == 0 then .fin neg fr (1 - (f.bias : Int) - f.fbits)
  else .fin neg (2 ^ f.fbits + fr) ((ex : Int) - f.bias - f.fbits)

/-- m · 2^e as an integer multiple of 2^q, for q ≤ e. -/
def scaled (m : Nat) (e q : Int) : Nat := m * 2 ^ (e - q).toNat

/-- Rounds m / 2^k to an integer in a mode, for a value of sign neg. -/
def roundShift (mode : Rounding) (neg : Bool) (m k : Nat) : Nat :=
  let q := m / 2 ^ k
  let r := m % 2 ^ k
  match mode with
  | .rtz => q
  | .rdn => if neg && r != 0 then q + 1 else q
  | .rup => if !neg && r != 0 then q + 1 else q
  | .rne => if 2 * r > 2 ^ k then q + 1 else if 2 * r == 2 ^ k && q % 2 == 1 && k != 0 then q + 1 else q

/-- The magnitude code that a finite nonzero value takes before overflow is judged (R33, first step). -/
def roundCode (f : Fmt) (mode : Rounding) (neg : Bool) (m : Nat) (e : Int) : Nat :=
  let top : Int := (Nat.log2 m : Int) + e
  let emin : Int := 1 - (f.bias : Int)
  let q : Int := (if top < emin then emin else top) - f.fbits
  let m' := if q ≤ e then scaled m e q else roundShift mode neg m (q - e).toNat
  ((q + f.fbits + f.bias).toNat - 1) * 2 ^ f.fbits + m'

/-- The code of an overflow (Table 2-3, R34). -/
def overflowCode (f : Fmt) (mode : Rounding) (neg sat : Bool) : Nat :=
  if sat || f == .e2m1 then f.maxCode
  else match mode with
    | .rne => f.infCode
    | .rtz => f.maxCode
    | .rdn => if neg then f.infCode else f.maxCode
    | .rup => if neg then f.maxCode else f.infCode

/-- A magnitude code with its sign; a NaN code is canonical and takes none. -/
def signed (f : Fmt) (neg : Bool) (code : Nat) : Nat :=
  if code == f.nanCode && f != .e2m1 then f.nanCode
  else if neg then 2 ^ (f.ebits + f.fbits) + code else code

/-- Rounds an exact value once to a format (R30, R33, R34). -/
def roundF (f : Fmt) (mode : Rounding) (v : FVal) (sat : Bool := false) : Nat :=
  match v with
  | .nan => f.nanCode
  | .inf neg => signed f neg (if sat then f.maxCode else f.infCode)
  | .fin neg 0 _ => signed f neg 0
  | .fin neg m e =>
    let c := roundCode f mode neg m e
    signed f neg (if c > f.maxCode then overflowCode f mode neg sat else c)

/-- The integer |v| · (−1)^neg rounded to an integer by a mode. -/
def roundInt (mode : Rounding) (neg : Bool) (m : Nat) (e : Int) : Int :=
  let a : Nat := if 0 ≤ e then m * 2 ^ e.toNat else roundShift mode neg m (-e).toNat
  if neg then -(a : Int) else a

/-- sat to a signed or unsigned integer of n bits (Table 1-6). -/
def satInt (n : Nat) (uns : Bool) (x : Int) : Int :=
  let lo : Int := if uns then 0 else -(2 ^ (n - 1) : Nat)
  let hi : Int := if uns then (2 ^ n : Nat) - 1 else (2 ^ (n - 1) : Nat) - 1
  if x < lo then lo else if x > hi then hi else x

/-- Floating point to integer: rounded, saturated, NaN gives 0 (R34). -/
def toInt (n : Nat) (uns : Bool) (mode : Rounding) : FVal → Int
  | .nan => 0
  | .inf neg => satInt n uns (if neg then -(2 ^ 80 : Nat) else (2 ^ 80 : Nat))
  | .fin neg m e => satInt n uns (roundInt mode neg m e)

/-- An integer as an exact value; zero is +0. -/
def ofInt (x : Int) : FVal := .fin (decide (x < 0)) x.natAbs 0

/-- The n low bits of an integer. -/
def wrap (n : Nat) (x : Int) : Nat := (x % (2 ^ n : Nat)).toNat

/-! ### Exact arithmetic -/

/-- The sum of two finite values, with the sign of an exact zero by R31 in a mode. -/
def addFin (mode : Rounding) (n1 : Bool) (m1 : Nat) (e1 : Int) (n2 : Bool) (m2 : Nat) (e2 : Int) : FVal :=
  let q := if e1 ≤ e2 then e1 else e2
  let a : Int := scaled m1 e1 q
  let b : Int := scaled m2 e2 q
  let x : Int := (if n1 then -a else a) + (if n2 then -b else b)
  if x == 0 then (if n1 == n2 then .fin n1 0 0 else .fin (mode == .rdn) 0 0)
  else .fin (decide (x < 0)) x.natAbs q

def FVal.add (mode : Rounding) : FVal → FVal → FVal
  | .nan, _ => .nan
  | _, .nan => .nan
  | .inf a, .inf b => if a == b then .inf a else .nan
  | .inf a, _ => .inf a
  | _, .inf b => .inf b
  | .fin n1 m1 e1, .fin n2 m2 e2 => addFin mode n1 m1 e1 n2 m2 e2

def FVal.neg : FVal → FVal
  | .nan => .nan
  | .inf a => .inf (!a)
  | .fin n m e => .fin (!n) m e

def FVal.mul : FVal → FVal → FVal
  | .nan, _ => .nan
  | _, .nan => .nan
  | .inf a, .inf b => .inf (a != b)
  | .inf a, .fin n m _ => if m == 0 then .nan else .inf (a != n)
  | .fin n m _, .inf b => if m == 0 then .nan else .inf (n != b)
  | .fin n1 m1 e1, .fin n2 m2 e2 => .fin (n1 != n2) (m1 * m2) (e1 + e2)

/-- The quotient, exact up to a sticky lowest bit far below every rounding point. -/
def FVal.div : FVal → FVal → FVal
  | .nan, _ => .nan
  | _, .nan => .nan
  | .inf _, .inf _ => .nan
  | .inf a, .fin n _ _ => .inf (a != n)
  | .fin n _ _, .inf b => .fin (n != b) 0 0
  | .fin n1 m1 e1, .fin n2 m2 e2 =>
    if m2 == 0 then (if m1 == 0 then .nan else .inf (n1 != n2))
    else if m1 == 0 then .fin (n1 != n2) 0 0
    else
      let k := 80 + Nat.log2 m2
      let q := m1 * 2 ^ k / m2
      let r := m1 * 2 ^ k % m2
      .fin (n1 != n2) (2 * q + (if r == 0 then 0 else 1)) (e1 - e2 - k - 1)

/-- The integer square root by one bit at a time, from bit b − 1 down. -/
def isqrtFrom (n : Nat) : Nat → Nat → Nat
  | 0, r => r
  | b + 1, r => isqrtFrom n b (if (r + 2 ^ b) * (r + 2 ^ b) ≤ n then r + 2 ^ b else r)

def isqrt (n : Nat) : Nat := isqrtFrom n (Nat.log2 n / 2 + 1) 0

def FVal.sqrt : FVal → FVal
  | .nan => .nan
  | .inf neg => if neg then .nan else .inf false
  | .fin neg m e =>
    if m == 0 then .fin neg 0 0
    else if neg then .nan
    else
      let odd := e % 2 != 0
      let m' := (if odd then 2 * m else m) * 2 ^ 120
      let e' := (if odd then e - 1 else e) - 120
      let r := isqrt m'
      .fin false (2 * r + (if r * r == m' then 0 else 1)) (e' / 2 - 1)

/-- 1/√x (R44). -/
def FVal.rsqrt : FVal → FVal
  | .nan => .nan
  | .inf neg => if neg then .nan else .fin false 0 0
  | .fin neg m e =>
    if m == 0 then .inf neg
    else if neg then .nan
    else
      let odd := e % 2 != 0
      let m' := if odd then 2 * m else m
      let e' := if odd then e - 1 else e
      let r := isqrt (2 ^ 240 / m')
      .fin false (2 * r + (if r * r * m' == 2 ^ 240 then 0 else 1)) (-(e' / 2) - 121)

/-- Signed order of finite and infinite values, with −0 below +0 when `zeros` is set (R31); false with a NaN. -/
def FVal.lt (zeros : Bool) : FVal → FVal → Bool
  | .nan, _ => false
  | _, .nan => false
  | .inf a, .inf b => a && !b
  | .inf a, _ => a
  | _, .inf b => !b
  | .fin n1 m1 e1, .fin n2 m2 e2 =>
    let q := if e1 ≤ e2 then e1 else e2
    let a : Int := if n1 then -(scaled m1 e1 q : Int) else scaled m1 e1 q
    let b : Int := if n2 then -(scaled m2 e2 q : Int) else scaled m2 e2 q
    if a == 0 && b == 0 then zeros && n1 && !n2 else decide (a < b)

def FVal.eq (a b : FVal) : Bool := !a.isNan && !b.isNan && !(a.lt false b) && !(b.lt false a)

/-! ### Elementary operations on codes -/

def fpAdd (f : Fmt) (mode : Rounding) (a b : Nat) : Nat := roundF f mode ((decodeF f a).add mode (decodeF f b))
/-- a − b as a + (−b), whose exact zeros take their sign from R31 (assumption 36). -/
def fpSub (f : Fmt) (mode : Rounding) (a b : Nat) : Nat := roundF f mode ((decodeF f a).add mode (decodeF f b).neg)
def fpMul (f : Fmt) (mode : Rounding) (a b : Nat) : Nat := roundF f mode ((decodeF f a).mul (decodeF f b))
def fpFma (f : Fmt) (mode : Rounding) (a b c : Nat) : Nat :=
  roundF f mode (((decodeF f a).mul (decodeF f b)).add mode (decodeF f c))

/-- Minimum by R31: the operand itself, or the other where one is NaN. -/
def fpMin (f : Fmt) (a b : Nat) : Nat :=
  match (decodeF f a).isNan, (decodeF f b).isNan with
  | true, true => f.nanCode
  | true, false => b
  | false, true => a
  | false, false => if (decodeF f b).lt true (decodeF f a) then b else a

def fpMax (f : Fmt) (a b : Nat) : Nat :=
  match (decodeF f a).isNan, (decodeF f b).isNan with
  | true, true => f.nanCode
  | true, false => b
  | false, true => a
  | false, false => if (decodeF f a).lt true (decodeF f b) then b else a

/-- The conditions of Table 5-3. -/
def fpCmp (f : Fmt) (c a b : Nat) : Bool :=
  let x := decodeF f a
  let y := decodeF f b
  match c with
  | 0 => x.eq y
  | 1 => x.lt false y
  | 2 => x.lt false y || x.eq y
  | 3 => x.isNan || y.isNan
  | _ => !(x.eq y)

/-- A code of one format in another, rounded once (R30); the same format copies bits (R29). -/
def fpConvert (src dst : Fmt) (mode : Rounding) (sat : Bool) (x : Nat) : Nat :=
  if src == dst then x else roundF dst mode (decodeF src x) sat

/-! ### Special functions (R44, Table 2-7) -/

/-- ⌊ln 2 · 2^192⌋. -/
def ln2Fixed : Nat := 0xb17217f7d1cf79abc9e3b39803f2f6af40f343267298b62d

/-- The terms y^k / k! of the exponential from k on, in units of 2^−192, with `fuel` terms left. -/
def expTerms (y : Nat) : Nat → Nat → Nat → Nat
  | 0, _, _ => 0
  | fuel + 1, k, term => term + expTerms y fuel (k + 1) (term * y / 2 ^ 192 / k)

/-- 2^f in units of 2^−192, for f = F / 2^192 in [0, 1). -/
def exp2Frac (F : Nat) : Nat := expTerms (F * ln2Fixed / 2 ^ 192) 64 1 (2 ^ 192)

/-- 2^x for a finite x: the exact power for an integer, else 192 fraction bits of the power with a sticky bit, which is
far below every rounding point because 2^x is irrational there (assumption 5). -/
def exp2Fin (neg : Bool) (m : Nat) (e : Int) : FVal :=
  let x : Int := (if neg then -(scaled m e (-192) : Int) else scaled m e (-192))
  let n : Int := x / ((2 ^ 192 : Nat) : Int)
  let F : Nat := (x % ((2 ^ 192 : Nat) : Int)).toNat
  if n ≥ 128 then .inf false
  else if n < -151 then .fin false 0 0
  else if F == 0 then .fin false 1 n
  else .fin false (2 * exp2Frac F + 1) (n - 193)

def FVal.exp2 : FVal → FVal
  | .nan => .nan
  | .inf neg => if neg then .fin false 0 0 else .inf false
  | .fin neg m e => exp2Fin neg m e

/-- The terms z^(2k+1) / (2k+1) of the inverse hyperbolic tangent, in units of 2^−192. -/
def atanhTerms (z2 : Nat) : Nat → Nat → Nat → Nat
  | 0, _, _ => 0
  | fuel + 1, k, pow => pow / k + atanhTerms z2 fuel (k + 2) (pow * z2 / 2 ^ 192)

/-- log2 x for a finite x: exact for a power of two, else 192 fraction bits with a sticky bit (assumption 5). -/
def FVal.log2 : FVal → FVal
  | .nan => .nan
  | .inf neg => if neg then .nan else .inf false
  | .fin neg m e =>
    if m == 0 then .inf true
    else if neg then .nan
    else
      let k := Nat.log2 m
      let top : Int := (k : Int) + e
      if m == 2 ^ k then ofInt top
      else
        let z := (m - 2 ^ k) * 2 ^ 192 / (m + 2 ^ k)
        let ln := 2 * atanhTerms (z * z / 2 ^ 192) 70 1 z
        let frac : Nat := ln * 2 ^ 192 / ln2Fixed
        let x : Int := top * ((2 ^ 192 : Nat) : Int) + (frac : Int)
        .fin (decide (x < 0)) (2 * x.natAbs + 1) (-193)

/-- The five unary functions of the SFU on an FP32 code: SEXP2, SLOG2, SRCP, SRSQ, SSQRT. -/
def sfuExp2 (x : Nat) : Nat := roundF .fp32 .rne (decodeF .fp32 x).exp2
def sfuLog2 (x : Nat) : Nat := roundF .fp32 .rne (decodeF .fp32 x).log2
def sfuRcp (x : Nat) : Nat := roundF .fp32 .rne (FVal.one.div (decodeF .fp32 x))
def sfuRsq (x : Nat) : Nat := roundF .fp32 .rne (decodeF .fp32 x).rsqrt
def sfuSqrt (x : Nat) : Nat := roundF .fp32 .rne (decodeF .fp32 x).sqrt
def sfuDiv (a b : Nat) : Nat := roundF .fp32 .rne ((decodeF .fp32 a).div (decodeF .fp32 b))

/-! ### RNG128, the hash and CRC-32C -/

def rotl32 (x k : Nat) : Nat := (x * 2 ^ k + x / 2 ^ (32 - k)) % 2 ^ 32

/-- One round of R45. -/
def rngRound (k0 k1 : Nat) (x : Nat × Nat × Nat × Nat) (r ra rb : Nat) : Nat × Nat × Nat × Nat :=
  let x0 := (x.1 + x.2.1) % 2 ^ 32
  let x1 := Nat.xor (rotl32 x.2.1 ra) x0
  let x2 := (x.2.2.1 + x.2.2.2) % 2 ^ 32
  let x3 := Nat.xor (rotl32 x.2.2.2 rb) x2
  ((x0 + Nat.xor k0 (r * 0x9E3779B9 % 2 ^ 32)) % 2 ^ 32, x3,
    (x2 + Nat.xor k1 (r * 0xBB67AE85 % 2 ^ 32)) % 2 ^ 32, x1)

def rngRounds (k0 k1 : Nat) : List (Nat × Nat × Nat) → Nat × Nat × Nat × Nat → Nat × Nat × Nat × Nat
  | [], x => x
  | (r, ra, rb) :: rest, x => rngRounds k0 k1 rest (rngRound k0 k1 x r ra rb)

/-- RNG128 (R45) of a 128-bit counter and a 64-bit key. -/
def rng128 (counter key : Nat) : Nat :=
  let x := rngRounds (bits key 31 0) (bits key 63 32)
    [(0, 13, 17), (1, 21, 7), (2, 9, 25), (3, 30, 3), (4, 16, 11),
     (5, 13, 17), (6, 21, 7), (7, 9, 25), (8, 30, 3), (9, 16, 11)]
    (bits counter 31 0, bits counter 63 32, bits counter 95 64, bits counter 127 96)
  x.1 + x.2.1 * 2 ^ 32 + x.2.2.1 * 2 ^ 64 + x.2.2.2 * 2 ^ 96

/-- h(x, seed) of R46. -/
def hash32 (x seed : Nat) : Nat :=
  let h := Nat.xor (x % 2 ^ 32) (seed % 2 ^ 32)
  let h := Nat.xor h (h / 2 ^ 16)
  let h := h * 0x9A3D4C27 % 2 ^ 32
  let h := Nat.xor h (h / 2 ^ 15)
  let h := h * 0xD16B58E5 % 2 ^ 32
  Nat.xor h (h / 2 ^ 16)

/-- n steps of the reflected CRC-32C (R172), consuming the lowest bit of x first. -/
def crcBits : Nat → Nat → Nat → Nat
  | 0, c, _ => c
  | n + 1, c, x =>
    let t := (c + x) % 2
    crcBits n (if t == 1 then Nat.xor (c / 2) 0x82F63B78 else c / 2) (x / 2)

/-- The CRC over bytes, without initial or final inversion. -/
def crcBytes : Nat → List Byte → Nat
  | c, [] => c
  | c, b :: rest => crcBytes (crcBits 8 c b.toNat) rest

/-- The KV checksum of R264. -/
def kvChecksum (page : List Byte) : Nat := Nat.xor (crcBytes 0xFFFFFFFF page) 0xFFFFFFFF

/-! ### Pairwise trees (R42, R43) -/

/-- The sum of two FP32 nodes, one rounding with RNE; an absent node passes the other unchanged. -/
def nodeAdd : Option Nat → Option Nat → Option Nat
  | some a, some b => some (fpAdd .fp32 .rne a b)
  | some a, none => some a
  | none, b => b

/-- One level of the tree. -/
def treeLevel : List (Option Nat) → List (Option Nat)
  | a :: b :: rest => nodeAdd a b :: treeLevel rest
  | [a] => [nodeAdd a none]
  | [] => []

/-- The root of the tree over at most 2^levels leaves. -/
def treeRoot : Nat → List (Option Nat) → Option Nat
  | 0, xs => xs.headD none
  | k + 1, xs => treeRoot k (treeLevel xs)

/-- The value of the block of 2^k leaves that starts at leaf `start`. -/
def treeBlock (leaves : List (Option Nat)) (start k : Nat) : Option Nat :=
  treeRoot k ((leaves.drop start).take (2 ^ k))

/-- The blocks of the inclusive scan over the first `count` leaves (R43), from bit k − 1 of the count down, added from
the lowest lane upward. -/
def scanBlocks (leaves : List (Option Nat)) (count : Nat) : Nat → Nat → Option Nat → Option Nat
  | 0, _, acc => acc
  | k + 1, start, acc =>
    if count / 2 ^ k % 2 == 1
    then scanBlocks leaves count k (start + 2 ^ k) (nodeAdd acc (treeBlock leaves start k))
    else scanBlocks leaves count k start acc

/-- A tree sum in its element format: +0 where absent, NaN canonical (R42). -/
def treeResult (f : Fmt) (mode : Rounding) : Option Nat → Nat
  | none => 0
  | some x => roundF f mode (decodeF .fp32 x)

end Sys2Proof.Machine
end

