-- ==== Sys2Proof/Syntax.lean ====
section
/-!
DEFINITION. The instruction set of the Firath F7 as syntax: one constructor of `Instr` for each row of
spec/opcode_table.json. A slot word carries its fields at the widths of its format (R52, Tables 3-3 and 3-4);
a step of the device that has no encoding (a commit, a sub-operation, a register write) carries the identity of the
object it acts on, or the value written.
-/
namespace Sys2Proof

/-- The seven opcode spaces of R52 and R56; VEC0 and VEC1 share one. -/
inductive Space where
  | scl | adr | idx | vec | mtx | sfu | eng
  deriving DecidableEq, Repr

/-- A flit as the receiving port sees it (R405): its sequence number, header, 64 payload bytes and CRC-32C, and the bits
that error correction has changed. -/
structure Flit where
  seq : Nat
  header : List (BitVec 8)
  payload : List (BitVec 8)
  crc : Nat
  corrected : Nat
  deriving DecidableEq, Repr

/-- What a peer asks of the exported region, at offset `off` (R413). -/
inductive PeerOp where
  | read (n : Nat)
  | write (bytes : List (BitVec 8))
  | amo (op : Nat) (wide : Bool) (operand : BitVec 64)
  | cas (wide : Bool) (expected new : BitVec 64)
  deriving DecidableEq, Repr

/-- A request of a peer, and the link by which it arrives. -/
structure PeerRequest where
  link : Nat
  source : Nat
  off : Nat
  op : PeerOp
  deriving DecidableEq, Repr

/-- A host memory request at a physical address, by a host link (R409). -/
inductive HostRequest where
  | read (link pa n : Nat)
  | write (link pa : Nat) (bytes : List (BitVec 8))
  deriving DecidableEq, Repr

/-- One sample of the sensors of Table 21-1 with the averages that R423 judges: temperatures in quarter degrees,
the input voltage in units of 10 mV, currents in the units of the table, `average` in watts. -/
structure Sample where
  dies : List Nat
  inlet : Nat
  outlet : Nat
  volts : Nat
  amps : Nat
  rails : List Nat
  average : Nat
  deriving DecidableEq, Repr

/-- A firmware image offered over the management port (R420): its bytes, the key that it names, the signature over the
SHA-384 digest of its bytes, and its security version. -/
structure FirmwareImage where
  bytes : List (BitVec 8)
  key : List (BitVec 8)
  signature : Nat
  security : Nat
  deriving DecidableEq, Repr

/-- A refusal that comes back to the issuer of an access (R413): its cause, and which of the pages that the access touches, in
the order of its bytes, has refused it. -/
structure PeerRefusal where
  cause : Nat
  page : Nat
  deriving DecidableEq, Repr

/-- A request to load an encryption key slot (R421): the slot's number and the key. -/
structure KeyLoad where
  slot : Nat
  key : Nat
  deriving DecidableEq, Repr

/-- One constructor per row of spec/opcode_table.json: the slot words first, then the steps without an encoding. -/
inductive Instr where
  /-- ADD (R101) Adds two 64-bit scalar registers with wrap-around. -/
  | add (d : BitVec 6) (a : BitVec 6) (b : BitVec 6)
  /-- SUB (R101) Subtracts two 64-bit scalar registers with wrap-around. -/
  | sub (d : BitVec 6) (a : BitVec 6) (b : BitVec 6)
  /-- AND (R101) Forms the bitwise AND of two scalar registers. -/
  | and (d : BitVec 6) (a : BitVec 6) (b : BitVec 6)
  /-- OR (R101) Forms the bitwise OR of two scalar registers. -/
  | or (d : BitVec 6) (a : BitVec 6) (b : BitVec 6)
  /-- XOR (R101) Forms the bitwise XOR of two scalar registers. -/
  | xor (d : BitVec 6) (a : BitVec 6) (b : BitVec 6)
  /-- ANDN (R101) Forms sA AND NOT sB. -/
  | andn (d : BitVec 6) (a : BitVec 6) (b : BitVec 6)
  /-- SLL (R102) Shifts sA left by the low six bits of sB. -/
  | sll (d : BitVec 6) (a : BitVec 6) (b : BitVec 6)
  /-- SRL (R102) Shifts sA right logically by the low six bits of sB. -/
  | srl (d : BitVec 6) (a : BitVec 6) (b : BitVec 6)
  /-- SRA (R102) Shifts sA right arithmetically by the low six bits of sB. -/
  | sra (d : BitVec 6) (a : BitVec 6) (b : BitVec 6)
  /-- ROTL (R102) Rotates sA left by the low six bits of sB. -/
  | rotl (d : BitVec 6) (a : BitVec 6) (b : BitVec 6)
  /-- MUL (R103) Returns the low 64 bits of the 128-bit product. -/
  | mul (d : BitVec 6) (a : BitVec 6) (b : BitVec 6) (u : BitVec 1)
  /-- MULH (R103) Returns the high 64 bits of the signed or unsigned 128-bit product. -/
  | mulh (d : BitVec 6) (a : BitVec 6) (b : BitVec 6) (u : BitVec 1)
  /-- DIV (R104) Divides with truncation toward zero; a zero divisor gives all ones. -/
  | div (d : BitVec 6) (a : BitVec 6) (b : BitVec 6) (u : BitVec 1)
  /-- REM (R104) Returns the remainder of a truncating division; a zero divisor returns the dividend. -/
  | rem (d : BitVec 6) (a : BitVec 6) (b : BitVec 6) (u : BitVec 1)
  /-- MIN (R105) Returns the lesser of two scalars, read as signed or unsigned. -/
  | min (d : BitVec 6) (a : BitVec 6) (b : BitVec 6) (u : BitVec 1)
  /-- MAX (R105) Returns the greater of two scalars, read as signed or unsigned. -/
  | max (d : BitVec 6) (a : BitVec 6) (b : BitVec 6) (u : BitVec 1)
  /-- SLT (R105) Sets 1 when sA is less than sB. -/
  | slt (d : BitVec 6) (a : BitVec 6) (b : BitVec 6) (u : BitVec 1)
  /-- SEQ (R105) Sets 1 when the two bit patterns are equal. -/
  | seq (d : BitVec 6) (a : BitVec 6) (b : BitVec 6)
  /-- SEL (R106) Selects sA or sB by bit 0 of a predicate. -/
  | sel (d : BitVec 6) (a : BitVec 6) (b : BitVec 6) (p : BitVec 3)
  /-- CLZ (R107) Counts the leading zeros of sA. -/
  | clz (d : BitVec 6) (a : BitVec 6)
  /-- CTZ (R107) Counts the trailing zeros of sA. -/
  | ctz (d : BitVec 6) (a : BitVec 6)
  /-- POPC (R107) Counts the one bits of sA. -/
  | popc (d : BitVec 6) (a : BitVec 6)
  /-- ADDI (R108) Adds a sign-extended 14-bit immediate. -/
  | addi (d : BitVec 6) (a : BitVec 6) (i : BitVec 14)
  /-- ANDI (R108) ANDs with a sign-extended 14-bit immediate. -/
  | andi (d : BitVec 6) (a : BitVec 6) (i : BitVec 14)
  /-- ORI (R108) ORs with a zero-extended 14-bit immediate. -/
  | ori (d : BitVec 6) (a : BitVec 6) (i : BitVec 14)
  /-- XORI (R108) XORs with a zero-extended 14-bit immediate. -/
  | xori (d : BitVec 6) (a : BitVec 6) (i : BitVec 14)
  /-- SHI (R109) Shifts or rotates sA by a constant amount of the selected kind. -/
  | shi (d : BitVec 6) (a : BitVec 6) (k : BitVec 2) (n : BitVec 6)
  /-- SLTI (R108) Sets 1 when sA is less than a signed immediate. -/
  | slti (d : BitVec 6) (a : BitVec 6) (i : BitVec 14)
  /-- LI (R110) Loads a sign-extended 20-bit immediate. -/
  | li (d : BitVec 6) (i : BitVec 20)
  /-- LIQ (R110) Replaces one 16-bit quarter of sD with an immediate. -/
  | liq (d : BitVec 6) (q : BitVec 2) (v : BitVec 16)
  /-- FADD (R112) Adds two FP32 values, with one rounding by the given mode. -/
  | fadd (d : BitVec 6) (a : BitVec 6) (b : BitVec 6) (m : BitVec 2)
  /-- FSUB (R112) Subtracts two FP32 values, with one rounding by the given mode. -/
  | fsub (d : BitVec 6) (a : BitVec 6) (b : BitVec 6) (m : BitVec 2)
  /-- FMUL (R112) Multiplies two FP32 values, with one rounding by the given mode. -/
  | fmul (d : BitVec 6) (a : BitVec 6) (b : BitVec 6) (m : BitVec 2)
  /-- FMA (R112) Computes sA times sB plus sD with one rounding. -/
  | fma (d : BitVec 6) (a : BitVec 6) (b : BitVec 6) (m : BitVec 2)
  /-- FMIN (R113) Returns the lesser FP32 operand by R31. -/
  | fmin (d : BitVec 6) (a : BitVec 6) (b : BitVec 6)
  /-- FMAX (R113) Returns the greater FP32 operand by R31. -/
  | fmax (d : BitVec 6) (a : BitVec 6) (b : BitVec 6)
  /-- FCMP (R114) Compares two FP32 values and writes 0 or 1. -/
  | fcmp (d : BitVec 6) (a : BitVec 6) (b : BitVec 6) (c : BitVec 3)
  /-- FCVT (R115) Converts a scalar by the selected kind and rounding mode. -/
  | fcvt (d : BitVec 6) (a : BitVec 6) (k : BitVec 3) (m : BitVec 2)
  /-- BC (R117) Branches when the compare condition holds. -/
  | bc (c : BitVec 3) (a : BitVec 6) (b : BitVec 6) (o : BitVec 11)
  /-- JMP (R118) Jumps unconditionally by a 26-bit word offset. -/
  | jmp (o : BitVec 26)
  /-- JAL (R118) Jumps and writes the address of the following bundle to sD. -/
  | jal (d : BitVec 6) (o : BitVec 20)
  /-- JR (R119) Jumps to the address in sA and writes the link address. -/
  | jr (d : BitVec 6) (a : BitVec 6)
  /-- DBNZ (R120) Decrements the counter and branches when the result is nonzero. -/
  | dbnz (a : BitVec 6) (o : BitVec 11)
  /-- SLACK (R121) Writes the region slack to SLACKR. -/
  | slack (i : BitVec 14)
  /-- CSRR (R122) Reads a context CSR into sD. -/
  | csrr (d : BitVec 6) (c : BitVec 12)
  /-- CSRW (R122) Writes sA to a context CSR. -/
  | csrw (a : BitVec 6) (c : BitVec 12)
  /-- FENCE (R123) Orders the context's engine commands, REDs or system-scope accesses by its kind. -/
  | fence (k : BitVec 3)
  /-- TRAP (R125) Commits its bundle and then raises PROGRAM_TRAP with a code. -/
  | trap (i : BitVec 20)
  /-- DONE (R127) Ends the instance; the context drains after commit. -/
  | done
  /-- BRK (R126) Raises BREAKPOINT before any slot of its bundle executes. -/
  | brk (i : BitVec 20)
  /-- LD (R201) Loads 1 to 8 bytes into a scalar register. -/
  | ld (d : BitVec 6) (a : BitVec 6) (z : BitVec 3) (o : BitVec 11)
  /-- ST (R201) Stores 1 to 8 bytes of a scalar; the store is sent at commit. -/
  | st (d : BitVec 6) (a : BitVec 6) (z : BitVec 3) (o : BitVec 11)
  /-- LDX (R201) Loads from a base plus an index, optionally scaled. -/
  | ldx (d : BitVec 6) (a : BitVec 6) (b : BitVec 6) (c : BitVec 1) (z : BitVec 3)
  /-- STX (R201) Stores to a base plus an index, optionally scaled. -/
  | stx (d : BitVec 6) (a : BitVec 6) (b : BitVec 6) (c : BitVec 1) (z : BitVec 3)
  /-- LDV (R202) Loads 128 bytes into a vector register. -/
  | ldv (d : BitVec 6) (a : BitVec 6) (o : BitVec 11)
  /-- STV (R202) Stores 128 bytes from a vector register or a popped load-queue entry. -/
  | stv (d : BitVec 6) (a : BitVec 6) (o : BitVec 11)
  /-- QLD (R208) Loads a predicated vector of bytes into a new load-queue entry. -/
  | qld (q : BitVec 2) (a : BitVec 6) (b : BitVec 6) (z : BitVec 3) (p : BitVec 3) (w : BitVec 2)
  /-- QGTH (R209) Gathers elements at vector offsets into a load-queue entry as one access. -/
  | qgth (q : BitVec 2) (a : BitVec 6) (b : BitVec 6) (z : BitVec 3) (p : BitVec 3) (w : BitVec 2)
  /-- QST (R208) Pops a store-data entry and stores its active elements. -/
  | qst (q : BitVec 2) (a : BitVec 6) (b : BitVec 6) (z : BitVec 3) (p : BitVec 3) (w : BitVec 2)
  /-- QSCT (R209) Pops a store-data entry and scatters its active elements at vector offsets. -/
  | qsct (q : BitVec 2) (a : BitVec 6) (b : BitVec 6) (z : BitVec 3) (p : BitVec 3) (w : BitVec 2)
  /-- AMO (R211) Performs an indivisible read-modify-write and returns the old value. -/
  | amo (d : BitVec 6) (a : BitVec 6) (b : BitVec 6) (r : BitVec 2) (e : BitVec 1) (f : BitVec 4)
  /-- CAS (R212) Compares and swaps a word indivisibly and returns the old value. -/
  | cas (d : BitVec 6) (a : BitVec 6) (b : BitVec 6) (r : BitVec 2) (e : BitVec 1)
  /-- RED (R213) Sends a reduction that is applied later at the home, possibly merged in the routers. -/
  | red (a : BitVec 6) (b : BitVec 6) (e : BitVec 1) (f : BitVec 4)
  /-- LEA (R203) Adds an immediate to a base without any access. -/
  | lea (d : BitVec 6) (a : BitVec 6) (i : BitVec 14)
  /-- PREF (R204) Hints that a line should be brought into the L1 or the LLC. -/
  | pref (l : BitVec 1) (a : BitVec 6) (z : BitVec 3) (o : BitVec 11)
  /-- IADD (R129) Adds two 32-bit index registers. -/
  | iadd (d : BitVec 6) (a : BitVec 6) (b : BitVec 6)
  /-- ISUB (R129) Subtracts two 32-bit index registers. -/
  | isub (d : BitVec 6) (a : BitVec 6) (b : BitVec 6)
  /-- IADDI (R129) Adds a signed immediate to an index register. -/
  | iaddi (d : BitVec 6) (a : BitVec 6) (i : BitVec 14)
  /-- ISHI (R130) Shifts or rotates a 32-bit index value by a constant. -/
  | ishi (d : BitVec 6) (a : BitVec 6) (k : BitVec 2) (n : BitVec 5)
  /-- IAND (R129) ANDs two index registers. -/
  | iand (d : BitVec 6) (a : BitVec 6) (b : BitVec 6)
  /-- IOR (R129) ORs two index registers. -/
  | ior (d : BitVec 6) (a : BitVec 6) (b : BitVec 6)
  /-- IMIN (R129) Returns the lesser of two index values. -/
  | imin (d : BitVec 6) (a : BitVec 6) (b : BitVec 6) (u : BitVec 1)
  /-- IMAX (R129) Returns the greater of two index values. -/
  | imax (d : BitVec 6) (a : BitVec 6) (b : BitVec 6) (u : BitVec 1)
  /-- IMOV (R131) Moves a value between the scalar and index banks. -/
  | imov (d : BitVec 6) (a : BitVec 6) (x : BitVec 1) (y : BitVec 1)
  /-- ICAD (R132) Compares two keys, advances a cursor pair and writes a match predicate. -/
  | icad (d : BitVec 6) (a : BitVec 6) (b : BitVec 6) (p : BitVec 3)
  /-- IPOPC (R133) Counts the set bits of an index or a predicate register. -/
  | ipopc (d : BitVec 6) (a : BitVec 6) (s : BitVec 1)
  /-- ISURV (R134) Maps a token position to its packed slot through a survivor bitmap. -/
  | isurv (d : BitVec 6) (a : BitVec 6) (b : BitVec 6)
  /-- IHASH (R135) Computes the R46 hash of an index with a seed. -/
  | ihash (d : BitVec 6) (a : BitVec 6) (b : BitVec 6)
  /-- ICMP (R136) Compares two index registers into a predicate. -/
  | icmp (d : BitVec 6) (a : BitVec 6) (b : BitVec 6) (u : BitVec 1) (c : BitVec 2)
  /-- PLOG (R137) Forms a predicate by logic on predicates, or from an index by .first. -/
  | plog (d : BitVec 6) (a : BitVec 6) (b : BitVec 6) (o : BitVec 3)
  /-- VADD (R145) Adds vector elements with wrap-around. -/
  | vadd (d : BitVec 6) (a : BitVec 6) (b : BitVec 6) (p : BitVec 3) (w : BitVec 2) (t : BitVec 3)
  /-- VSUB (R145) Subtracts vector elements with wrap-around. -/
  | vsub (d : BitVec 6) (a : BitVec 6) (b : BitVec 6) (p : BitVec 3) (w : BitVec 2) (t : BitVec 3)
  /-- VADDS (R145) Adds signed elements with saturation. -/
  | vadds (d : BitVec 6) (a : BitVec 6) (b : BitVec 6) (p : BitVec 3) (w : BitVec 2) (t : BitVec 3)
  /-- VADDSN (R145) Adds unsigned elements with saturation. -/
  | vaddsn (d : BitVec 6) (a : BitVec 6) (b : BitVec 6) (p : BitVec 3) (w : BitVec 2) (t : BitVec 3)
  /-- VSUBS (R145) Subtracts signed elements with saturation. -/
  | vsubs (d : BitVec 6) (a : BitVec 6) (b : BitVec 6) (p : BitVec 3) (w : BitVec 2) (t : BitVec 3)
  /-- VSUBSN (R145) Subtracts unsigned elements with saturation. -/
  | vsubsn (d : BitVec 6) (a : BitVec 6) (b : BitVec 6) (p : BitVec 3) (w : BitVec 2) (t : BitVec 3)
  /-- VMUL (R145) Multiplies elements and keeps the low half. -/
  | vmul (d : BitVec 6) (a : BitVec 6) (b : BitVec 6) (p : BitVec 3) (w : BitVec 2) (t : BitVec 3)
  /-- VMULH (R145) Multiplies signed elements and keeps the high half. -/
  | vmulh (d : BitVec 6) (a : BitVec 6) (b : BitVec 6) (p : BitVec 3) (w : BitVec 2) (t : BitVec 3)
  /-- VMIN (R145) Takes the signed minimum of the elements. -/
  | vmin (d : BitVec 6) (a : BitVec 6) (b : BitVec 6) (p : BitVec 3) (w : BitVec 2) (t : BitVec 3)
  /-- VMAX (R145) Takes the signed maximum of the elements. -/
  | vmax (d : BitVec 6) (a : BitVec 6) (b : BitVec 6) (p : BitVec 3) (w : BitVec 2) (t : BitVec 3)
  /-- VMINN (R145) Takes the unsigned minimum of the elements. -/
  | vminn (d : BitVec 6) (a : BitVec 6) (b : BitVec 6) (p : BitVec 3) (w : BitVec 2) (t : BitVec 3)
  /-- VMAXN (R145) Takes the unsigned maximum of the elements. -/
  | vmaxn (d : BitVec 6) (a : BitVec 6) (b : BitVec 6) (p : BitVec 3) (w : BitVec 2) (t : BitVec 3)
  /-- VAND (R145) ANDs vector elements. -/
  | vand (d : BitVec 6) (a : BitVec 6) (b : BitVec 6) (p : BitVec 3) (w : BitVec 2) (t : BitVec 3)
  /-- VOR (R145) ORs vector elements. -/
  | vor (d : BitVec 6) (a : BitVec 6) (b : BitVec 6) (p : BitVec 3) (w : BitVec 2) (t : BitVec 3)
  /-- VXOR (R145) XORs vector elements. -/
  | vxor (d : BitVec 6) (a : BitVec 6) (b : BitVec 6) (p : BitVec 3) (w : BitVec 2) (t : BitVec 3)
  /-- VSHL (R145) Shifts elements left by per-element amounts. -/
  | vshl (d : BitVec 6) (a : BitVec 6) (b : BitVec 6) (p : BitVec 3) (w : BitVec 2) (t : BitVec 3)
  /-- VSHR (R145) Shifts elements right logically by per-element amounts. -/
  | vshr (d : BitVec 6) (a : BitVec 6) (b : BitVec 6) (p : BitVec 3) (w : BitVec 2) (t : BitVec 3)
  /-- VSRA (R145) Shifts elements right arithmetically by per-element amounts. -/
  | vsra (d : BitVec 6) (a : BitVec 6) (b : BitVec 6) (p : BitVec 3) (w : BitVec 2) (t : BitVec 3)
  /-- VSHI (R146) Shifts or rotates every element by a constant. -/
  | vshi (d : BitVec 6) (a : BitVec 6) (i : BitVec 6) (k : BitVec 3) (w : BitVec 2) (t : BitVec 3)
  /-- VCMP (R147) Compares integer elements into a predicate. -/
  | vcmp (c : BitVec 3) (d : BitVec 3) (a : BitVec 6) (b : BitVec 6) (p : BitVec 3) (w : BitVec 2) (t : BitVec 3)
  /-- VSEL (R148) Selects elements of A or B by a predicate. -/
  | vsel (d : BitVec 6) (a : BitVec 6) (b : BitVec 6) (p : BitVec 3) (w : BitVec 2) (t : BitVec 3)
  /-- VFADD (R149) Adds floating elements with RNE. -/
  | vfadd (d : BitVec 6) (a : BitVec 6) (b : BitVec 6) (p : BitVec 3) (w : BitVec 2) (t : BitVec 3)
  /-- VFSUB (R149) Subtracts floating elements with RNE. -/
  | vfsub (d : BitVec 6) (a : BitVec 6) (b : BitVec 6) (p : BitVec 3) (w : BitVec 2) (t : BitVec 3)
  /-- VFMUL (R149) Multiplies floating elements with RNE. -/
  | vfmul (d : BitVec 6) (a : BitVec 6) (b : BitVec 6) (p : BitVec 3) (w : BitVec 2) (t : BitVec 3)
  /-- VFMA (R149) Computes a times b plus d per element with one rounding. -/
  | vfma (d : BitVec 6) (a : BitVec 6) (b : BitVec 6) (p : BitVec 3) (w : BitVec 2) (t : BitVec 3)
  /-- VFMIN (R149) Takes the floating minimum of the elements. -/
  | vfmin (d : BitVec 6) (a : BitVec 6) (b : BitVec 6) (p : BitVec 3) (w : BitVec 2) (t : BitVec 3)
  /-- VFMAX (R149) Takes the floating maximum of the elements. -/
  | vfmax (d : BitVec 6) (a : BitVec 6) (b : BitVec 6) (p : BitVec 3) (w : BitVec 2) (t : BitVec 3)
  /-- VFCMP (R150) Compares floating elements into a predicate. -/
  | vfcmp (c : BitVec 3) (d : BitVec 3) (a : BitVec 6) (b : BitVec 6) (p : BitVec 3) (w : BitVec 2) (t : BitVec 3)
  /-- VCVT (R151) Converts elements between integer and floating types. -/
  | vcvt (d : BitVec 6) (a : BitVec 6) (s : BitVec 3) (e : BitVec 1) (m : BitVec 2) (x : BitVec 1) (y : BitVec 1) (w : BitVec 2) (t : BitVec 3)
  /-- VMAC (R153) Multiplies signed elements and accumulates into accumulator lanes. -/
  | vmac (d : BitVec 6) (a : BitVec 6) (b : BitVec 6) (p : BitVec 3) (w : BitVec 2) (t : BitVec 3)
  /-- VFMAC (R153) Multiplies floating elements and accumulates into FP32 accumulator lanes. -/
  | vfmac (d : BitVec 6) (a : BitVec 6) (b : BitVec 6) (p : BitVec 3) (w : BitVec 2) (t : BitVec 3)
  /-- VNARROW (R154) Moves one half of an accumulator into narrower vector elements. -/
  | vnarrow (d : BitVec 6) (a : BitVec 6) (h : BitVec 1) (s : BitVec 5) (p : BitVec 3) (w : BitVec 2) (t : BitVec 3)
  /-- VACLR (R155) Clears an accumulator. -/
  | vaclr (d : BitVec 6)
  /-- VPERM (R156) Permutes elements of A by the indices in B. -/
  | vperm (d : BitVec 6) (a : BitVec 6) (b : BitVec 6) (p : BitVec 3) (w : BitVec 2) (t : BitVec 3)
  /-- VSHUF (R157) Zips, unzips or reverses elements. -/
  | vshuf (d : BitVec 6) (a : BitVec 6) (b : BitVec 6) (k : BitVec 3) (w : BitVec 2) (t : BitVec 3)
  /-- VBCAST (R158) Broadcasts the low bits of a scalar to every element. -/
  | vbcast (d : BitVec 6) (a : BitVec 6) (z : BitVec 1) (p : BitVec 3) (w : BitVec 2) (t : BitVec 3)
  /-- VSLIDE (R159) Slides elements by a signed immediate. -/
  | vslide (d : BitVec 6) (a : BitVec 6) (i : BitVec 6) (p : BitVec 3) (w : BitVec 2) (t : BitVec 3)
  /-- VINS (R160) Inserts a scalar into one element. -/
  | vins (d : BitVec 6) (a : BitVec 6) (b : BitVec 6) (p : BitVec 3) (w : BitVec 2) (t : BitVec 3)
  /-- VEXT (R160) Extracts one element into a scalar. -/
  | vext (d : BitVec 6) (a : BitVec 6) (b : BitVec 6) (w : BitVec 2) (t : BitVec 3)
  /-- VRED (R161) Reduces the active elements into element 0. -/
  | vred (d : BitVec 6) (a : BitVec 6) (o : BitVec 3) (m : BitVec 2) (p : BitVec 3) (w : BitVec 2) (t : BitVec 3)
  /-- VSCAN (R161) Forms the inclusive or exclusive scan of the active elements. -/
  | vscan (d : BitVec 6) (a : BitVec 6) (o : BitVec 3) (x : BitVec 1) (m : BitVec 2) (p : BitVec 3) (w : BitVec 2) (t : BitVec 3)
  /-- VPACK4 (R162) Packs 8-bit elements into four-bit codes. -/
  | vpack4 (d : BitVec 6) (a : BitVec 6) (b : BitVec 6) (w : BitVec 2) (t : BitVec 3)
  /-- VUNPK4 (R163) Unpacks one half of the four-bit codes into 8-bit elements. -/
  | vunpk4 (d : BitVec 6) (a : BitVec 6) (h : BitVec 1) (w : BitVec 2) (t : BitVec 3)
  /-- VPAIR4 (R164) Forms code-pair bytes from two vectors of four-bit codes. -/
  | vpair4 (d : BitVec 6) (a : BitVec 6) (b : BitVec 6) (h : BitVec 1) (w : BitVec 2) (t : BitVec 3)
  /-- VSGNPK (R165) Packs the element sign bits into one slot of the destination. -/
  | vsgnpk (d : BitVec 6) (a : BitVec 6) (k : BitVec 3) (w : BitVec 2) (t : BitVec 3)
  /-- VHASH (R167) Hashes each 32-bit element with a seed. -/
  | vhash (d : BitVec 6) (a : BitVec 6) (b : BitVec 6) (p : BitVec 3) (w : BitVec 2) (t : BitVec 3)
  /-- VBCMP (R166) Compares elements as byte strings, giving -1, 0 or +1. -/
  | vbcmp (d : BitVec 6) (a : BitVec 6) (b : BitVec 6) (p : BitVec 3) (w : BitVec 2) (t : BitVec 3)
  /-- VBFIND (R166) Finds the first position of a byte in each element. -/
  | vbfind (d : BitVec 6) (a : BitVec 6) (b : BitVec 6) (p : BitVec 3) (w : BitVec 2) (t : BitVec 3)
  /-- VPOPC (R168) Counts the one bits of each element. -/
  | vpopc (d : BitVec 6) (a : BitVec 6) (z : BitVec 1) (p : BitVec 3) (w : BitVec 2) (t : BitVec 3)
  /-- VCLZ (R168) Counts the leading zeros of each element. -/
  | vclz (d : BitVec 6) (a : BitVec 6) (z : BitVec 1) (p : BitVec 3) (w : BitVec 2) (t : BitVec 3)
  /-- SEXP2 (R170) Computes 2^x per FP32 element. -/
  | sexp2 (d : BitVec 6) (a : BitVec 6) (p : BitVec 3) (w : BitVec 2) (t : BitVec 3)
  /-- SLOG2 (R170) Computes log2 x per FP32 element. -/
  | slog2 (d : BitVec 6) (a : BitVec 6) (p : BitVec 3) (w : BitVec 2) (t : BitVec 3)
  /-- SRCP (R170) Computes 1/x per FP32 element. -/
  | srcp (d : BitVec 6) (a : BitVec 6) (p : BitVec 3) (w : BitVec 2) (t : BitVec 3)
  /-- SRSQ (R170) Computes the reciprocal square root per FP32 element. -/
  | srsq (d : BitVec 6) (a : BitVec 6) (p : BitVec 3) (w : BitVec 2) (t : BitVec 3)
  /-- SSQRT (R170) Computes the square root per FP32 element. -/
  | ssqrt (d : BitVec 6) (a : BitVec 6) (p : BitVec 3) (w : BitVec 2) (t : BitVec 3)
  /-- RNG128 (R171) Computes the counter-based random function per 128-bit lane. -/
  | rng128 (d : BitVec 6) (a : BitVec 6) (b : BitVec 6) (p : BitVec 3) (w : BitVec 2) (t : BitVec 3)
  /-- SCRC (R172) Advances a CRC-32C per 32-bit element. -/
  | scrc (d : BitVec 6) (a : BitVec 6) (b : BitVec 6) (p : BitVec 3) (w : BitVec 2) (t : BitVec 3)
  /-- SDIV (R170) Divides FP32 elements with correct rounding. -/
  | sdiv (d : BitVec 6) (a : BitVec 6) (b : BitVec 6) (p : BitVec 3) (w : BitVec 2) (t : BitVec 3)
  /-- TLD (R182) Loads a tile from memory, optionally transposed, as one access. -/
  | tld (t : BitVec 4) (r : BitVec 1) (a : BitVec 6) (b : BitVec 6) (e : BitVec 2)
  /-- TST (R182) Stores a tile to memory, optionally transposed, as one access. -/
  | tst (t : BitVec 4) (r : BitVec 1) (a : BitVec 6) (b : BitVec 6) (e : BitVec 2)
  /-- TZERO (R184) Zeroes a tile. -/
  | tzero (d : BitVec 4)
  /-- TGETR (R185) Copies 128 tile bytes into a vector register or a store-data queue. -/
  | tgetr (a : BitVec 4) (s : BitVec 6) (i : BitVec 4)
  /-- TSETR (R185) Writes a vector or popped entry to 128 tile bytes. -/
  | tsetr (d : BitVec 4) (s : BitVec 6) (i : BitVec 4)
  /-- MLDS (R186) Copies a tile into the shadow plane and sets its attributes. -/
  | mlds (a : BitVec 4) (s : BitVec 6) (o : BitVec 4) (p : BitVec 3) (b : BitVec 1)
  /-- MSWAP (R187) Exchanges the active and shadow planes. -/
  | mswap
  /-- MMA (R188) Multiplies 64 streamed rows by the active plane into a result tile. -/
  | mma (d : BitVec 4) (a : BitVec 4) (s : BitVec 6) (o : BitVec 4) (w : BitVec 3) (b : BitVec 1) (c : BitVec 1) (q : BitVec 2)
  /-- SLD (R191) Loads scale-memory windows from memory. -/
  | sld (s : BitVec 6) (w : BitVec 3) (n : BitVec 2)
  /-- TCVT (R192) Converts tile elements between types, with optional scale. -/
  | tcvt (d : BitVec 4) (a : BitVec 4) (s : BitVec 6) (o : BitVec 4) (x : BitVec 4) (p : BitVec 2) (y : BitVec 1)
  /-- TADD (R193) Adds the 4-byte elements of one tile into another. -/
  | tadd (d : BitVec 4) (a : BitVec 4) (o : BitVec 4)
  /-- CPY (R218) Issues a tagged copy of L bytes, checked at issue and sent at commit. -/
  | cpy (t : BitVec 6) (a : BitVec 6) (b : BitVec 6) (c : BitVec 6)
  /-- TWANY (R216) Dispatches when any selected tag is SET. -/
  | twany (a : BitVec 6)
  /-- TWALL (R216) Dispatches when every selected tag is SET. -/
  | twall (a : BitVec 6)
  /-- TFFR (R216) Returns the lowest SET selected tag and its TERR bit, and optionally clears it. -/
  | tffr (d : BitVec 6) (a : BitVec 6) (c : BitVec 1)
  /-- TCLR (R216) Clears the selected TAGS and TERR bits at commit. -/
  | tclr (a : BitVec 6)
  /-- TQ (R297) Sends a bank-table query of 128 or 64 indices and reserves result entries. -/
  | tq (t : BitVec 6) (a : BitVec 6) (b : BitVec 6) (e : BitVec 1) (n : BitVec 1)
  /-- TQP (R299) Pops a table result entry and its status. -/
  | tqp (d : BitVec 6) (a : BitVec 6)
  /-- TBLDEF (R295) Checks a table descriptor and defines the table in the registry. -/
  | tbldef (t : BitVec 6) (a : BitVec 6)
  /-- TBLDEF_DROP (R295) Removes a table's registry entry. -/
  | tbldefDrop (t : BitVec 6) (a : BitVec 6)
  /-- TREPL (R296) Replicates a table into its instances and spread rows. -/
  | trepl (t : BitVec 6) (a : BitVec 6)
  /-- PLAY (R282) Checks and sends a play on a line, reserving a play result entry. -/
  | play (p : BitVec 6) (a : BitVec 6) (b : BitVec 6)
  /-- PLAYP (R284) Pops a play result and its status. -/
  | playp (d : BitVec 6) (a : BitVec 6)
  /-- PBSET (R268) Sets PBK and flushes the cached plays of the playbook. -/
  | pbset (t : BitVec 6) (a : BitVec 6)
  /-- RSET (R310) Checks a set descriptor and creates a Roster set. -/
  | rset (t : BitVec 6) (a : BitVec 6)
  /-- RSET_DROP (R310) Drops a Roster set. -/
  | rsetDrop (t : BitVec 6) (a : BitVec 6)
  /-- RINS (R311) Sends the insertion of a row into a set. -/
  | rins (t : BitVec 6) (a : BitVec 6) (b : BitVec 6)
  /-- RDEL (R313) Sends the deletion of the row with a logical index. -/
  | rdel (t : BitVec 6) (a : BitVec 6) (b : BitVec 6)
  /-- RAGE (R314) Sends an age adjustment for every row of a set. -/
  | rage (t : BitVec 6) (a : BitVec 6) (b : BitVec 6)
  /-- RSEL (R316) Sends a select against a set and reserves n result entries. -/
  | rsel (n : BitVec 3) (a : BitVec 6) (b : BitVec 6) (f : BitVec 1) (k : BitVec 7)
  /-- RSEL_INFO (R319) Requests a set's counts and latest failure. -/
  | rselInfo (a : BitVec 6)
  /-- RSELP (R320) Pops a select result entry and its status. -/
  | rselp (d : BitVec 6) (a : BitVec 6)
  /-- PALLOC (R260) Allocates a KV pool slot indivisibly and returns its page address. -/
  | palloc (d : BitVec 6) (a : BitVec 6) (b : BitVec 6)
  /-- PFREE (R261) Checks RREF, marks a KV slot freeing and sends its release. -/
  | pfree (t : BitVec 6) (a : BitVec 6) (b : BitVec 6)
  /-- PSEAL (R262) Checks a KV slot and sends a checksum seal of its page. -/
  | pseal (t : BitVec 6) (a : BitVec 6) (b : BitVec 6)
  /-- PATTR (R263) Checks a page and sends a change of its BANK attribute. -/
  | pattr (t : BitVec 6) (a : BitVec 6) (k : BitVec 1)
  /-- BINIT (R372) Checks COUNT and sends the arming of a device barrier. -/
  | binit (t : BitVec 6) (a : BitVec 6) (c : BitVec 8)
  /-- BINIT_FREE (R372) Sends the freeing of a device barrier. -/
  | binitFree (t : BitVec 6) (c : BitVec 8)
  /-- BARR (R373) Sends one arrival at a device or group barrier and later lands the result word. -/
  | barr (d : BitVec 6) (g : BitVec 1) (c : BitVec 8)
  /-- BWAIT (R374) Dispatches only when the barrier phase differs from the given phase. -/
  | bwait (a : BitVec 6) (g : BitVec 1) (c : BitVec 8)
  /-- WWATCH (R379) Arms or disarms a wake comparator on a scratchpad range at commit. -/
  | wwatch (k : BitVec 3) (a : BitVec 6) (b : BitVec 6)
  /-- WWAIT (R380) Pops the oldest wake token of the selected comparators, blocking if none. -/
  | wwait (d : BitVec 6) (a : BitVec 6)
  /-- TSPAWN (R358) Reads and checks a task record and sends it to a queue. -/
  | tspawn (t : BitVec 6) (a : BitVec 6) (b : BitVec 6) (q : BitVec 6)
  /-- COLL (R365) Checks a buffer and sends a collective contribution of the given scope. -/
  | coll (t : BitVec 6) (a : BitVec 6) (b : BitVec 6) (c : BitVec 2) (e : BitVec 1) (z : BitVec 2) (o : BitVec 3)
  /-- BUNDLE_DISPATCH (R84) A fetched and checked bundle dispatches once its landing, slack, SYNC, queue and tile conditions
  hold. -/
  | bundleDispatch (t : Nat)
  /-- LOAD_DATA_RETURN (R87) The data of an outstanding load return and its word has executed. -/
  | loadDataReturn (t pos slot : Nat)
  /-- BUNDLE_COMMIT (R87) A bundle whose words have all executed commits in order, and its stores and engine commands are sent.
  -/
  | bundleCommit (t : Nat)
  /-- CONTEXT_SWITCH (R92) The core selects the next READY context after the running one leaves RUNNING. -/
  | contextSwitch (k : Nat)
  /-- FAULT_RECORD_WRITE (R382) The device writes the fault record at FLTP once its page is available. -/
  | faultRecordWrite (t : Nat)
  /-- NOTICE (R387) After the fault record, the device spawns the handler or writes a host notice. -/
  | notice (t : Nat)
  /-- ASYNCHRONOUS_TRAP (R381) A pending asynchronous trap is taken at the next bundle boundary of its context. -/
  | asynchronousTrap (t : Nat)
  /-- DRAIN_END (R96) A context draining after DONE becomes EMPTY once its committed work and side-log entries complete. -/
  | drainEnd (t : Nat)
  /-- PRE_EMPTION (R91) The device stops a launch's contexts, discards uncommitted work and saves their state to a save area. -/
  | preEmption (q l : Nat)
  /-- LAUNCH_RESUME (R394) A saved launch is restored at a fitting aligned position and its contexts become READY. -/
  | launchResume (l : Nat)
  /-- MTX_ACCEPTANCE (R177) An MTX word is accepted by the matrix unit once its conditions hold. -/
  | mtxAcceptance (t : Nat)
  /-- MTX_WORK_END (R178) An accepted MTX word finishes its tile work and clears its busy marks. -/
  | mtxWorkEnd (id : Nat)
  /-- SERVICE_COMPLETION (R445) A page-fault service answer arrives, the page is walked again and takes the success or failure
  row. -/
  | serviceCompletion (id : Nat) (ok : Bool)
  /-- DIE_ACKNOWLEDGE (R256) A die acknowledges a collapse; after the last, the leaf is rewritten and the log replayed. -/
  | dieAcknowledge (asid page die : Nat)
  /-- KV_POOL_REFILL (R259) The refill function populates pool slots until FREE reaches LOW. -/
  | kvPoolRefill (asid pool frame : Nat)
  /-- SCRUB (R264) The scrubber rechecks a sealed KV page and sets CKERR on a mismatch. -/
  | scrub (asid pool p : Nat)
  /-- CPY_ACCEPTANCE (R220) The copy engine accepts a committed CPY and sets A and D in its pages. -/
  | cpyAcceptance (id : Nat)
  /-- CPY_PIECE (R220) One 256-byte piece of a copy is performed, or the copy suspends or fails there. -/
  | cpyPiece (id j : Nat)
  /-- RED_APPLICATION (R238) A reduction is applied at its home. -/
  | redApplication (id : Nat) (merged : List Nat)
  /-- PBSET_FLUSH (R268) Every slice drops the cached plays of a playbook. -/
  | pbsetFlush (id : Nat)
  /-- PLAY_ARRIVAL (R286) A PLAY reaches its home slice and is found cached or fetched with its directory entry. -/
  | playArrival (id : Nat)
  /-- PLAY_VALIDATION (R272) A fetched play is validated, by the slice or by the host. -/
  | playValidation (id : Nat)
  /-- PLAY_PERFORM (R273) A ready play reads its line, runs its words and writes or leaves the line. -/
  | playPerform (id : Nat) (parity : Option Nat)
  /-- TABLE_QUERY (R297) A query reaches the registry slice and is answered by one or more activations. -/
  | tableQuery (id : Nat)
  /-- TBLDEF_SUBOPERATION (R295) The registry slice defines or fails to define the table. -/
  | tbldefSuboperation (id : Nat)
  /-- TREPL_SUBOPERATION (R296) The table's home rows are copied to every instance and spread row. -/
  | treplSuboperation (id : Nat)
  /-- RSET_SUBOPERATION (R310) The home block creates the set or fails. -/
  | rsetSuboperation (id : Nat)
  /-- RSET_DROP_SUBOPERATION (R307) The home block drops the set and releases its rows and pages. -/
  | rsetDropSuboperation (id : Nat)
  /-- RINS_SUBOPERATION (R311) The home block inserts or rewrites a row, evicting a victim if needed. -/
  | rinsSuboperation (id : Nat)
  /-- SPILL_WRITE (R322) A spilled row is written to the spill region and registered with the Bench. -/
  | spillWrite (asid set lidx : Nat)
  /-- RDEL_SUBOPERATION (R313) The home block deletes the row with the index. -/
  | rdelSuboperation (id : Nat)
  /-- RAGE_SUBOPERATION (R314) The home block adjusts the age of every row of the set. -/
  | rageSuboperation (id : Nat)
  /-- RSEL_SUBOPERATION (R316) The home block forms the selection list and fills the select entries. -/
  | rselSuboperation (id : Nat)
  /-- RSEL_INFO_SUBOPERATION (R319) The home block fills an entry with the set's counts. -/
  | rselInfoSuboperation (id : Nat)
  /-- PFREE_SUBOPERATION (R261) The KV page is written back, unmapped to FREE and counted free. -/
  | pfreeSuboperation (id : Nat)
  /-- PSEAL_SUBOPERATION (R262) The page is read at one point and its checksum and SEALED are written. -/
  | psealSuboperation (id : Nat)
  /-- PATTR_SUBOPERATION (R263) The page's sectors are recalled, its lines written back and its leaf rewritten. -/
  | pattrSuboperation (id : Nat)
  /-- BINIT_SUBOPERATION (R372) The device barrier is armed, rearmed or freed by its state table. -/
  | binitSuboperation (id : Nat)
  /-- BARRIER_ARRIVAL (R370) An arrival is counted at a barrier, or lost. -/
  | barrierArrival (id : Nat)
  /-- COLLECTIVE (R366) Once all participants have arrived, the collective reads the buffers and writes the result. -/
  | collective (id : Nat)
  /-- TASK_ENTRY (R359) A spawned task enters its queue's task list, or fails with TERR. -/
  | taskEntry (id : Nat)
  /-- LAUNCH (R332) A LAUNCH record is taken as a task for placement. -/
  | launch (q : Nat)
  /-- LOAD (R328) A LOAD record starts loading a kernel image into a kernel handle. -/
  | load (q : Nat)
  /-- LOADING_CHECK (R329) The loading checks finish after any page waits, and the kernel becomes RESIDENT or ABSENT. -/
  | loadingCheck (h : Nat)
  /-- UNLOAD (R328) An UNLOAD record removes a kernel, or marks it UNLOADING. -/
  | unload (q : Nat)
  /-- GRAPH (R340) A GRAPH record uploads a task graph into the graph store. -/
  | graph (q : Nat)
  /-- GRAPH_DROP (R340) A GRAPH_DROP record frees a graph handle. -/
  | graphDrop (q : Nat)
  /-- RECORD_TAKE (R345) A queue takes the ring record at HEAD and advances HEAD. -/
  | recordTake (q : Nat)
  /-- TASK_DISPATCH (R349) The scheduler dispatches a ready head task from the highest-priority queue. -/
  | taskDispatch
  /-- LAUNCH_COMPLETION (R335) A launch completes when every instance is EMPTY. -/
  | launchCompletion (l : Nat)
  /-- TASK_RECORD_ENQUEUE (R335) An ACT 3 task record is read after any page wait and enqueued on its queue. -/
  | taskRecordEnqueue (id : Nat)
  /-- GRAPH_NODE_COMPLETION (R341) A COPY, TABLE or SIGNAL node completes on the engines. -/
  | graphNodeCompletion (g n : Nat)
  /-- EPRIO_AGING (R350) A queue's effective priority rises after 65,536 cycles without a dispatch. -/
  | eprioAging (q : Nat)
  /-- KICK (R342) A write to KICK arms a graph and applies its parameter patches. -/
  | kick (v : BitVec 64)
  /-- UNMAP (R338) A write to UNMAP starts the unmapping of a leaf. -/
  | unmap (v : BitVec 64)
  /-- UNMAP_DONE (R338) The unmap finishes and BUSY clears. -/
  | unmapDone
  /-- QUEUE_ENABLE (R347) A QCTL write with EN = 1 takes a DISABLED queue to IDLE. -/
  | queueEnable (q : Nat) (v : BitVec 64)
  /-- QUEUE_DISABLE (R347) A QCTL write with EN = 0 disables an IDLE or DRAINED queue. -/
  | queueDisable (q : Nat) (v : BitVec 64)
  /-- DRAIN_SET (R347) A QCTL write that sets DRAIN stops taking and dispatching. -/
  | drainSet (q : Nat) (v : BitVec 64)
  /-- DRAIN_CLEAR (R347) A QCTL write that clears DRAIN resumes a DRAINED queue. -/
  | drainClear (q : Nat) (v : BitVec 64)
  /-- PRIO_CHANGE (R350) A QCTL write that changes PRIO resets EPRIO. -/
  | prioChange (q : Nat) (v : BitVec 64)
  /-- QTAIL (R345) A QTAIL write makes ring records available, or puts the queue into ERROR. -/
  | qtail (q : Nat) (v : BitVec 64)
  /-- LSCR (R226) A write to LSCR changes the LLC scratch partition when every context is EMPTY. -/
  | lscr (v : BitVec 64)
  /-- ASTB (R244) A write to ASTB sets the address-space table when every context is EMPTY. -/
  | astb (v : BitVec 64)
  /-- MODESEL (R424) A write to MODESEL selects hardware or host-assisted mode per function. -/
  | modesel (v : BitVec 64)
  /-- SVCDONE (R425) The host answers an outstanding service request. -/
  | svcdone (v : BitVec 64)
  /-- RESUME (R389) An FCMD RESUME makes a FAULTED context READY at its RPC. -/
  | resume (v : BitVec 64)
  /-- RESUME_AT (R389) An FCMD RESUME_AT resumes a FAULTED context at the RPC read from its record. -/
  | resumeAt (v : BitVec 64)
  /-- TERMINATE (R389) An FCMD TERMINATE makes a FAULTED context EMPTY. -/
  | terminate (v : BitVec 64)
  /-- PCAP (R423) A write to PCAP sets LIMIT and lets a cleared TRIP return to OPEN. -/
  | pcap (v : BitVec 64)
  /-- REGISTER_WRITE (R337) A write to a device register without behaviour of its own updates its writable fields. -/
  | registerWrite (off : Nat) (v : BitVec 64)
  /-- LINK_ENABLE (R406) An LCTL write with EN = 1 starts training a DOWN link. -/
  | linkEnable (l : Nat) (v : BitVec 64)
  /-- LINK_DISABLE (R406) An LCTL write with EN = 0 takes a link DOWN and resolves its traffic. -/
  | linkDisable (l : Nat) (v : BitVec 64)
  /-- RETRAIN (R407) An LCTL write of RETRAIN = 1 retrains a FENCED link. -/
  | retrain (l : Nat) (v : BitVec 64)
  /-- TRAINING_COMPLETE (R406) A training link finishes training and becomes UP or DEGRADED. -/
  | trainingComplete (l lanes : Nat)
  /-- TRAINING_TIMEOUT (R406) After 1 ms of training without enough lanes, the link fences. -/
  | trainingTimeout (l lanes : Nat)
  /-- LANE_FAILURE (R406) A lane fails and the link degrades or fences. -/
  | laneFailure (l lanes : Nat)
  /-- LANE_RETRAINING (R406) Lane retraining succeeds and a DEGRADED link returns to UP. -/
  | laneRetraining (l : Nat)
  /-- FLIT_RECEIVE (R405) A flit arrives; one with a failed CRC or out of sequence triggers a replay. -/
  | flitReceive (l : Nat) (f : Flit)
  /-- RETRY_EXHAUSTED (R405) A flit fails 16 successive replays and the link fences. -/
  | retryExhausted (l : Nat)
  /-- PARTNER_TIMEOUT (R406) The partner acknowledges nothing for 1 ms and the link fences. -/
  | partnerTimeout (l : Nat)
  /-- LINK_RETRAINING (R407) In hardware mode the device takes a FENCED link back to TRAINING. -/
  | linkRetraining (l : Nat)
  /-- PEER_ACCESS (R413) An access from a peer arrives, is translated and is performed or refused. -/
  | peerAccess (r : PeerRequest)
  /-- REFUSAL (R413) A refusal from a peer or the host reaches the issuer. -/
  | refusal (id : Nat) (r : PeerRefusal)
  /-- ACKNOWLEDGEMENT (R414) A peer or host acknowledges a system-scope write. -/
  | acknowledgement (id : Nat)
  /-- HOST_MEMORY_REQUEST (R409) The host reads or writes device physical memory. -/
  | hostMemoryRequest (r : HostRequest)
  /-- SENSOR_SAMPLE (R418) Lemant samples the sensors every millisecond. -/
  | sensorSample (x : Sample)
  /-- CAP_RELEASE (R423) After 100 ms below 95 % of LIMIT, the throttle is removed. -/
  | capRelease
  /-- EVENT_LOG_READ (R419) The event log is read over the management port. -/
  | eventLogRead (n : Nat)
  /-- FIRMWARE_UPDATE (R420) A firmware image is written to the inactive slot and checked. -/
  | firmwareUpdate (image : FirmwareImage)
  /-- LEMANT_RESET (R420) Lemant resets and the boot ROM starts the pending or other slot. -/
  | lemantReset
  /-- FIRMWARE_CONFIRMATION_TIMEOUT (R420) Firmware that does not confirm itself within 60 s is abandoned. -/
  | firmwareConfirmationTimeout
  /-- KEY_SLOT_LOAD (R421) An authenticated management request loads an encryption key slot. -/
  | keySlotLoad (load : KeyLoad) (authenticated : Bool)
  /-- DEVICE_RESET (R328) Device reset returns the device state to its reset values. -/
  | deviceReset
  /-- FIRMWARE_CONFIRMATION (R420) Newly started Lemant firmware confirms itself, so that the slot it runs from stays the one
  the boot ROM starts. -/
  | firmwareConfirmation
  /-- FIXED_COMPARATOR_TRIP (R420) While Lemant restarts, fixed comparators see a die reach 115 °C or the input leave 48–54 V
  and take the power state to TRIP. -/
  | fixedComparatorTrip (die volt : Nat)
  deriving DecidableEq, Repr

/-- The opcode space of a slot word; `none` for a step without an encoding. -/
def Instr.space? : Instr → Option Space
  | .add _ _ _ => some .scl
  | .sub _ _ _ => some .scl
  | .and _ _ _ => some .scl
  | .or _ _ _ => some .scl
  | .xor _ _ _ => some .scl
  | .andn _ _ _ => some .scl
  | .sll _ _ _ => some .scl
  | .srl _ _ _ => some .scl
  | .sra _ _ _ => some .scl
  | .rotl _ _ _ => some .scl
  | .mul _ _ _ _ => some .scl
  | .mulh _ _ _ _ => some .scl
  | .div _ _ _ _ => some .scl
  | .rem _ _ _ _ => some .scl
  | .min _ _ _ _ => some .scl
  | .max _ _ _ _ => some .scl
  | .slt _ _ _ _ => some .scl
  | .seq _ _ _ => some .scl
  | .sel _ _ _ _ => some .scl
  | .clz _ _ => some .scl
  | .ctz _ _ => some .scl
  | .popc _ _ => some .scl
  | .addi _ _ _ => some .scl
  | .andi _ _ _ => some .scl
  | .ori _ _ _ => some .scl
  | .xori _ _ _ => some .scl
  | .shi _ _ _ _ => some .scl
  | .slti _ _ _ => some .scl
  | .li _ _ => some .scl
  | .liq _ _ _ => some .scl
  | .fadd _ _ _ _ => some .scl
  | .fsub _ _ _ _ => some .scl
  | .fmul _ _ _ _ => some .scl
  | .fma _ _ _ _ => some .scl
  | .fmin _ _ _ => some .scl
  | .fmax _ _ _ => some .scl
  | .fcmp _ _ _ _ => some .scl
  | .fcvt _ _ _ _ => some .scl
  | .bc _ _ _ _ => some .scl
  | .jmp _ => some .scl
  | .jal _ _ => some .scl
  | .jr _ _ => some .scl
  | .dbnz _ _ => some .scl
  | .slack _ => some .scl
  | .csrr _ _ => some .scl
  | .csrw _ _ => some .scl
  | .fence _ => some .scl
  | .trap _ => some .scl
  | .done => some .scl
  | .brk _ => some .scl
  | .ld _ _ _ _ => some .adr
  | .st _ _ _ _ => some .adr
  | .ldx _ _ _ _ _ => some .adr
  | .stx _ _ _ _ _ => some .adr
  | .ldv _ _ _ => some .adr
  | .stv _ _ _ => some .adr
  | .qld _ _ _ _ _ _ => some .adr
  | .qgth _ _ _ _ _ _ => some .adr
  | .qst _ _ _ _ _ _ => some .adr
  | .qsct _ _ _ _ _ _ => some .adr
  | .amo _ _ _ _ _ _ => some .adr
  | .cas _ _ _ _ _ => some .adr
  | .red _ _ _ _ => some .adr
  | .lea _ _ _ => some .adr
  | .pref _ _ _ _ => some .adr
  | .iadd _ _ _ => some .idx
  | .isub _ _ _ => some .idx
  | .iaddi _ _ _ => some .idx
  | .ishi _ _ _ _ => some .idx
  | .iand _ _ _ => some .idx
  | .ior _ _ _ => some .idx
  | .imin _ _ _ _ => some .idx
  | .imax _ _ _ _ => some .idx
  | .imov _ _ _ _ => some .idx
  | .icad _ _ _ _ => some .idx
  | .ipopc _ _ _ => some .idx
  | .isurv _ _ _ => some .idx
  | .ihash _ _ _ => some .idx
  | .icmp _ _ _ _ _ => some .idx
  | .plog _ _ _ _ => some .idx
  | .vadd _ _ _ _ _ _ => some .vec
  | .vsub _ _ _ _ _ _ => some .vec
  | .vadds _ _ _ _ _ _ => some .vec
  | .vaddsn _ _ _ _ _ _ => some .vec
  | .vsubs _ _ _ _ _ _ => some .vec
  | .vsubsn _ _ _ _ _ _ => some .vec
  | .vmul _ _ _ _ _ _ => some .vec
  | .vmulh _ _ _ _ _ _ => some .vec
  | .vmin _ _ _ _ _ _ => some .vec
  | .vmax _ _ _ _ _ _ => some .vec
  | .vminn _ _ _ _ _ _ => some .vec
  | .vmaxn _ _ _ _ _ _ => some .vec
  | .vand _ _ _ _ _ _ => some .vec
  | .vor _ _ _ _ _ _ => some .vec
  | .vxor _ _ _ _ _ _ => some .vec
  | .vshl _ _ _ _ _ _ => some .vec
  | .vshr _ _ _ _ _ _ => some .vec
  | .vsra _ _ _ _ _ _ => some .vec
  | .vshi _ _ _ _ _ _ => some .vec
  | .vcmp _ _ _ _ _ _ _ => some .vec
  | .vsel _ _ _ _ _ _ => some .vec
  | .vfadd _ _ _ _ _ _ => some .vec
  | .vfsub _ _ _ _ _ _ => some .vec
  | .vfmul _ _ _ _ _ _ => some .vec
  | .vfma _ _ _ _ _ _ => some .vec
  | .vfmin _ _ _ _ _ _ => some .vec
  | .vfmax _ _ _ _ _ _ => some .vec
  | .vfcmp _ _ _ _ _ _ _ => some .vec
  | .vcvt _ _ _ _ _ _ _ _ _ => some .vec
  | .vmac _ _ _ _ _ _ => some .vec
  | .vfmac _ _ _ _ _ _ => some .vec
  | .vnarrow _ _ _ _ _ _ _ => some .vec
  | .vaclr _ => some .vec
  | .vperm _ _ _ _ _ _ => some .vec
  | .vshuf _ _ _ _ _ _ => some .vec
  | .vbcast _ _ _ _ _ _ => some .vec
  | .vslide _ _ _ _ _ _ => some .vec
  | .vins _ _ _ _ _ _ => some .vec
  | .vext _ _ _ _ _ => some .vec
  | .vred _ _ _ _ _ _ _ => some .vec
  | .vscan _ _ _ _ _ _ _ _ => some .vec
  | .vpack4 _ _ _ _ _ => some .vec
  | .vunpk4 _ _ _ _ _ => some .vec
  | .vpair4 _ _ _ _ _ _ => some .vec
  | .vsgnpk _ _ _ _ _ => some .vec
  | .vhash _ _ _ _ _ _ => some .vec
  | .vbcmp _ _ _ _ _ _ => some .vec
  | .vbfind _ _ _ _ _ _ => some .vec
  | .vpopc _ _ _ _ _ _ => some .vec
  | .vclz _ _ _ _ _ _ => some .vec
  | .tld _ _ _ _ _ => some .mtx
  | .tst _ _ _ _ _ => some .mtx
  | .tzero _ => some .mtx
  | .tgetr _ _ _ => some .mtx
  | .tsetr _ _ _ => some .mtx
  | .mlds _ _ _ _ _ => some .mtx
  | .mswap => some .mtx
  | .mma _ _ _ _ _ _ _ _ => some .mtx
  | .sld _ _ _ => some .mtx
  | .tcvt _ _ _ _ _ _ _ => some .mtx
  | .tadd _ _ _ => some .mtx
  | .sexp2 _ _ _ _ _ => some .sfu
  | .slog2 _ _ _ _ _ => some .sfu
  | .srcp _ _ _ _ _ => some .sfu
  | .srsq _ _ _ _ _ => some .sfu
  | .ssqrt _ _ _ _ _ => some .sfu
  | .rng128 _ _ _ _ _ _ => some .sfu
  | .scrc _ _ _ _ _ _ => some .sfu
  | .sdiv _ _ _ _ _ _ => some .sfu
  | .cpy _ _ _ _ => some .eng
  | .twany _ => some .eng
  | .twall _ => some .eng
  | .tffr _ _ _ => some .eng
  | .tclr _ => some .eng
  | .tq _ _ _ _ _ => some .eng
  | .tqp _ _ => some .eng
  | .tbldef _ _ => some .eng
  | .tbldefDrop _ _ => some .eng
  | .trepl _ _ => some .eng
  | .play _ _ _ => some .eng
  | .playp _ _ => some .eng
  | .pbset _ _ => some .eng
  | .rset _ _ => some .eng
  | .rsetDrop _ _ => some .eng
  | .rins _ _ _ => some .eng
  | .rdel _ _ _ => some .eng
  | .rage _ _ _ => some .eng
  | .rsel _ _ _ _ _ => some .eng
  | .rselInfo _ => some .eng
  | .rselp _ _ => some .eng
  | .palloc _ _ _ => some .eng
  | .pfree _ _ _ => some .eng
  | .pseal _ _ _ => some .eng
  | .pattr _ _ _ => some .eng
  | .binit _ _ _ => some .eng
  | .binitFree _ _ => some .eng
  | .barr _ _ _ => some .eng
  | .bwait _ _ _ => some .eng
  | .wwatch _ _ _ => some .eng
  | .wwait _ _ => some .eng
  | .tspawn _ _ _ _ => some .eng
  | .coll _ _ _ _ _ _ _ => some .eng
  | _ => none

/-- True of the steps that have no encoding. -/
def Instr.isEvent (i : Instr) : Bool := i.space?.isNone

/-- A contribution of another device's instance to a .fab collective (R416). -/
structure FabArrival where
  taskid : Nat
  index : Nat
  key : Nat
  op : Nat
  ty : Nat
  tree : Bool
  instances : Nat
  data : List Nat
  deriving DecidableEq, Repr

/-- One entry of the schedule: which agent moves next. The device fixes no order among its agents (R236, R396), so the
order is data of the state and no choice of the model. `ev` performs a step without encoding; `word` starts the oldest
unstarted word of one slot of a context; `auto` lets a core proceed by itself; `evict` drops a line from its slice
(R233) and `release` a sector from a core's L1 (R228); the `upset` moves and `parity` are the physical upsets behind R385 and
R427; `patrol` is one row read by the scrubber (R429); `sendFlit`, `flitPasses`, `flitsTaken` and `flitsAsked` are the
sending side of a port (R405), and `lemant` the controller's own writes to its memory (R418); `fab` is a contribution of
another device that comes over a peer link (R416); `fabLost` says that a participant of another device has ended
(R367, R417). -/
inductive Move where
  | ev (i : Instr)
  | word (ticket slot : Nat)
  | auto (core : Nat)
  | evict (line : Nat)
  | upsetMem (pa : Nat)
  | upsetScratch (core off : Nat)
  | upsetReg (ticket code : Nat)
  | upsetQueue (ticket queue entry : Nat)
  | upsetLanding (ticket entry : Nat)
  | upsetMtx (core code : Nat)
  | remote (va : Nat) (bytes : List (BitVec 8))
  | fab (link : Nat) (a : FabArrival)
  | release (core sector : Nat)
  | upsetCache (pa : Nat)
  | upsetLscr (off : Nat)
  | parity (ticket pos cause : Nat)
  | parityEvent (addr : Nat)
  | patrol (pa : Nat)
  | sendFlit (link : Nat) (header payload : List (BitVec 8))
  | flitsTaken (link seq : Nat)
  | flitPasses (link : Nat)
  | flitsAsked (link seq : Nat)
  | lemant (off : Nat) (bytes : List (BitVec 8))
  | fabLost (taskid index : Nat)
  deriving DecidableEq, Repr

end Sys2Proof
end

