-- ==== Sys2Proof/Machine/Fields.lean ====
section
/-!
DEFINITION. Which slot words have an instruction: the register ranges, reserved codes and field limits that raise
ILLEGAL_OP (R53, R54 and the encoding tables of the instruction chapters), and the fields that are MBZ in some forms only.
-/
namespace Sys2Proof

open Machine

/-- The CSR addresses of Table 4-7, and FCMD (R388), which only a handler context has. -/
def isCsr (c : Nat) : Bool :=
  decide (c ≤ 4 ∨ (8 ≤ c ∧ c ≤ 11) ∨ (16 ≤ c ∧ c ≤ 22) ∨ c = 32)

/-- The limits of R192 on the types, the position and the scale of a TCVT. -/
def tcvtTypesOk (dt st p : Nat) (scaled : Bool) : Bool :=
  let ed := otBytes dt
  let es := otBytes st
  decide (ed ≠ 0) && decide (es ≠ 0) &&
    (if ed ≤ es then decide (p < es / ed) else decide (p < ed / es)) &&
    !(scaled && otInt dt && otInt st)

/-- The fields that Table 6-3 marks MBZ for a VCVT of these types. -/
def vcvtMbzOk (t s : Nat) (dE5 sE5 : Bool) (m x : Nat) : Bool :=
  if s ≤ 3 then
    if t ≤ 3 then
      if s = t then decide (m = 0 ∧ x = 0)
      else if s < t then decide (m ≤ 1 ∧ x = 0)
      else true
    else decide (x = 0)
  else if t ≤ 3 then decide (x = 0)
  else if s = t ∧ dE5 = sE5 then decide (m = 0 ∧ x = 0)
  else if elemBits s < elemBits t then decide (m = 0 ∧ x = 0)
  else decide (t = 7 ∨ x = 0)

/-- False where the field values raise ILLEGAL_OP whatever the context (Table 3-15 step 6); the checks that read the
context's tiles or its HANDLER bit (R81, R194, R388) are made at dispatch. -/
def Instr.fieldsOk : Instr → Bool
  | .add _ _ _ => true
  | .sub _ _ _ => true
  | .and _ _ _ => true
  | .or _ _ _ => true
  | .xor _ _ _ => true
  | .andn _ _ _ => true
  | .sll _ _ _ => true
  | .srl _ _ _ => true
  | .sra _ _ _ => true
  | .rotl _ _ _ => true
  | .mul _ _ _ _ => true
  | .mulh _ _ _ _ => true
  | .div _ _ _ _ => true
  | .rem _ _ _ _ => true
  | .min _ _ _ _ => true
  | .max _ _ _ _ => true
  | .slt _ _ _ _ => true
  | .seq _ _ _ => true
  | .sel _ _ _ _ => true
  | .clz _ _ => true
  | .ctz _ _ => true
  | .popc _ _ => true
  | .addi _ _ _ => true
  | .andi _ _ _ => true
  | .ori _ _ _ => true
  | .xori _ _ _ => true
  | .shi _ _ _ _ => true
  | .slti _ _ _ => true
  | .li _ _ => true
  | .liq _ _ _ => true
  | .fadd _ _ _ _ => true
  | .fsub _ _ _ _ => true
  | .fmul _ _ _ _ => true
  | .fma _ _ _ _ => true
  | .fmin _ _ _ => true
  | .fmax _ _ _ => true
  | .fcmp _ _ _ c => decide (c.toNat ≤ 4)
  | .fcvt _ _ _ _ => true
  | .bc c _ _ _ => decide (c.toNat ≠ 4 ∧ c.toNat ≠ 5)
  | .jmp _ => true
  | .jal _ _ => true
  | .jr _ _ => true
  | .dbnz _ _ => true
  | .slack _ => true
  | .csrr _ c => isCsr c.toNat
  | .csrw _ c => isCsr c.toNat
  | .fence k => decide (k.toNat = 1 ∨ k.toNat = 2 ∨ k.toNat = 4 ∨ k.toNat = 7)
  | .trap _ => true
  | .done => true
  | .brk _ => true
  | .ld _ _ z _ => decide (z.toNat ≤ 6)
  | .st _ _ z _ => decide (z.toNat ≤ 3)
  | .ldx _ _ _ _ z => decide (z.toNat ≤ 6)
  | .stx _ _ _ _ z => decide (z.toNat ≤ 3)
  | .ldv d _ _ => decide (d.toNat < 60)
  | .stv _ _ _ => true
  | .qld _ _ b z _ w => decide (z.toNat ≤ 3 ∧ w.toNat ≠ 3 ∧ b.toNat < 16)
  | .qgth _ _ _ z _ w => decide (z.toNat ≤ 3 ∧ w.toNat ≠ 3 ∧ 32 * 2 ^ w.toNat ≤ 32 * 2 ^ z.toNat)
  | .qst _ _ b z _ w => decide (z.toNat ≤ 3 ∧ w.toNat ≠ 3 ∧ b.toNat < 16)
  | .qsct _ _ _ z _ w => decide (z.toNat ≤ 3 ∧ w.toNat ≠ 3 ∧ 32 * 2 ^ w.toNat ≤ 32 * 2 ^ z.toNat)
  | .amo _ _ _ _ _ f => decide (f.toNat ≤ 8)
  | .cas _ _ _ _ _ => true
  | .red _ _ e f => decide (f.toNat ≤ 7 ∨ (f.toNat = 9 ∧ e.toNat = 0))
  | .lea _ _ _ => true
  | .pref _ _ z _ => decide (z.toNat ≤ 3)
  | .iadd d a b => decide (d.toNat < 16 ∧ a.toNat < 16 ∧ b.toNat < 16)
  | .isub d a b => decide (d.toNat < 16 ∧ a.toNat < 16 ∧ b.toNat < 16)
  | .iaddi d a _ => decide (d.toNat < 16 ∧ a.toNat < 16)
  | .ishi d a _ _ => decide (d.toNat < 16 ∧ a.toNat < 16)
  | .iand d a b => decide (d.toNat < 16 ∧ a.toNat < 16 ∧ b.toNat < 16)
  | .ior d a b => decide (d.toNat < 16 ∧ a.toNat < 16 ∧ b.toNat < 16)
  | .imin d a b _ => decide (d.toNat < 16 ∧ a.toNat < 16 ∧ b.toNat < 16)
  | .imax d a b _ => decide (d.toNat < 16 ∧ a.toNat < 16 ∧ b.toNat < 16)
  | .imov d a _ y => decide (if y.toNat = 0 then d.toNat < 16 else a.toNat < 16)
  | .icad d a b _ => decide (d.toNat < 16 ∧ a.toNat < 16 ∧ b.toNat < 16)
  | .ipopc d a s => decide (d.toNat < 16 ∧ (if s.toNat = 0 then a.toNat < 16 else a.toNat < 8))
  | .isurv d a b => decide (d.toNat < 16 ∧ a.toNat < 60 ∧ b.toNat < 16)
  | .ihash d a b => decide (d.toNat < 16 ∧ a.toNat < 16 ∧ b.toNat < 16)
  | .icmp d a b _ _ => decide (d.toNat < 8 ∧ a.toNat < 16 ∧ b.toNat < 16)
  | .plog d a b o => decide (d.toNat < 8 ∧ o.toNat ≤ 5 ∧ (if o.toNat = 5 then a.toNat < 16 else a.toNat < 8) ∧ (o.toNat ≤ 3 → b.toNat < 8))
  | .vadd _ _ _ _ w t => decide (w.toNat ≠ 3 ∧ t.toNat ≤ 3)
  | .vsub _ _ _ _ w t => decide (w.toNat ≠ 3 ∧ t.toNat ≤ 3)
  | .vadds _ _ _ _ w t => decide (w.toNat ≠ 3 ∧ t.toNat ≤ 3)
  | .vaddsn _ _ _ _ w t => decide (w.toNat ≠ 3 ∧ t.toNat ≤ 3)
  | .vsubs _ _ _ _ w t => decide (w.toNat ≠ 3 ∧ t.toNat ≤ 3)
  | .vsubsn _ _ _ _ w t => decide (w.toNat ≠ 3 ∧ t.toNat ≤ 3)
  | .vmul _ _ _ _ w t => decide (w.toNat ≠ 3 ∧ t.toNat ≤ 3)
  | .vmulh _ _ _ _ w t => decide (w.toNat ≠ 3 ∧ t.toNat ≤ 3)
  | .vmin _ _ _ _ w t => decide (w.toNat ≠ 3 ∧ t.toNat ≤ 3)
  | .vmax _ _ _ _ w t => decide (w.toNat ≠ 3 ∧ t.toNat ≤ 3)
  | .vminn _ _ _ _ w t => decide (w.toNat ≠ 3 ∧ t.toNat ≤ 3)
  | .vmaxn _ _ _ _ w t => decide (w.toNat ≠ 3 ∧ t.toNat ≤ 3)
  | .vand _ _ _ _ w _ => decide (w.toNat ≠ 3)
  | .vor _ _ _ _ w _ => decide (w.toNat ≠ 3)
  | .vxor _ _ _ _ w _ => decide (w.toNat ≠ 3)
  | .vshl _ _ _ _ w t => decide (w.toNat ≠ 3 ∧ t.toNat ≤ 3)
  | .vshr _ _ _ _ w t => decide (w.toNat ≠ 3 ∧ t.toNat ≤ 3)
  | .vsra _ _ _ _ w t => decide (w.toNat ≠ 3 ∧ t.toNat ≤ 3)
  | .vshi _ _ i k w t => decide (w.toNat ≠ 3 ∧ t.toNat ≤ 3 ∧ k.toNat ≤ 3 ∧ i.toNat < 8 * 2 ^ t.toNat)
  | .vcmp c _ _ _ _ w t => decide (w.toNat ≠ 3 ∧ t.toNat ≤ 3 ∧ c.toNat ≤ 5)
  | .vsel _ _ _ _ w _ => decide (w.toNat ≠ 3)
  | .vfadd _ _ _ _ w t => decide (w.toNat ≠ 3 ∧ 4 ≤ t.toNat ∧ t.toNat ≤ 6)
  | .vfsub _ _ _ _ w t => decide (w.toNat ≠ 3 ∧ 4 ≤ t.toNat ∧ t.toNat ≤ 6)
  | .vfmul _ _ _ _ w t => decide (w.toNat ≠ 3 ∧ 4 ≤ t.toNat ∧ t.toNat ≤ 6)
  | .vfma d _ _ _ w t => decide (w.toNat ≠ 3 ∧ 4 ≤ t.toNat ∧ t.toNat ≤ 6 ∧ d.toNat < 60)
  | .vfmin _ _ _ _ w t => decide (w.toNat ≠ 3 ∧ 4 ≤ t.toNat ∧ t.toNat ≤ 6)
  | .vfmax _ _ _ _ w t => decide (w.toNat ≠ 3 ∧ 4 ≤ t.toNat ∧ t.toNat ≤ 6)
  | .vfcmp c _ _ _ _ w t => decide (w.toNat ≠ 3 ∧ 4 ≤ t.toNat ∧ t.toNat ≤ 6 ∧ c.toNat ≤ 4)
  | .vcvt _ _ s e _ _ y w t => decide (w.toNat ≠ 3 ∧ (e.toNat = 1 → t.toNat = 7) ∧ (y.toNat = 1 → s.toNat = 7))
  | .vmac d _ _ _ w t => decide (w.toNat ≠ 3 ∧ t.toNat ≤ 2 ∧ d.toNat < 16)
  | .vfmac d _ _ _ w t => decide (w.toNat ≠ 3 ∧ 4 ≤ t.toNat ∧ d.toNat < 16)
  | .vnarrow _ a _ _ _ w _ => decide (w.toNat ≠ 3 ∧ a.toNat < 16)
  | .vaclr d => decide (d.toNat < 16)
  | .vperm _ _ _ _ w _ => decide (w.toNat ≠ 3)
  | .vshuf _ _ _ k w _ => decide (w.toNat ≠ 3 ∧ k.toNat ≤ 4)
  | .vbcast _ _ _ _ w _ => decide (w.toNat ≠ 3)
  | .vslide _ _ _ _ w _ => decide (w.toNat ≠ 3)
  | .vins d _ b _ w _ => decide (w.toNat ≠ 3 ∧ d.toNat < 60 ∧ b.toNat < 16)
  | .vext _ _ b w _ => decide (w.toNat ≠ 3 ∧ b.toNat < 16)
  | .vred _ _ o _ _ w t => decide (w.toNat ≠ 3 ∧ t.toNat ≠ 7 ∧ (4 ≤ t.toNat → o.toNat ≤ 2))
  | .vscan _ _ o _ _ _ w t => decide (w.toNat ≠ 3 ∧ t.toNat ≠ 7 ∧ (4 ≤ t.toNat → o.toNat ≤ 2))
  | .vpack4 _ _ _ w t => decide (w.toNat ≠ 3 ∧ (t.toNat = 0 ∨ t.toNat = 7))
  | .vunpk4 _ _ _ w t => decide (w.toNat ≠ 3 ∧ (t.toNat = 0 ∨ t.toNat = 7))
  | .vpair4 _ _ _ _ w t => decide (w.toNat ≠ 3 ∧ t.toNat = 0)
  | .vsgnpk d _ k w t => decide (w.toNat ≠ 3 ∧ d.toNat < 60 ∧ k.toNat + 1 ≤ elemBits t.toNat)
  | .vhash _ _ _ _ w t => decide (w.toNat ≠ 3 ∧ t.toNat = 2)
  | .vbcmp _ _ _ _ w t => decide (w.toNat ≠ 3 ∧ t.toNat ≤ 3)
  | .vbfind _ _ _ _ w t => decide (w.toNat ≠ 3 ∧ t.toNat ≤ 3)
  | .vpopc _ _ _ _ w t => decide (w.toNat ≠ 3 ∧ t.toNat ≤ 3)
  | .vclz _ _ _ _ w t => decide (w.toNat ≠ 3 ∧ t.toNat ≤ 3)
  | .sexp2 _ _ _ w t => decide (w.toNat ≤ 1 ∧ t.toNat = 6)
  | .slog2 _ _ _ w t => decide (w.toNat ≤ 1 ∧ t.toNat = 6)
  | .srcp _ _ _ w t => decide (w.toNat ≤ 1 ∧ t.toNat = 6)
  | .srsq _ _ _ w t => decide (w.toNat ≤ 1 ∧ t.toNat = 6)
  | .ssqrt _ _ _ w t => decide (w.toNat ≤ 1 ∧ t.toNat = 6)
  | .rng128 _ _ _ _ w t => decide (w.toNat ≤ 1 ∧ t.toNat = 0)
  | .scrc _ _ _ _ w t => decide (w.toNat ≤ 1 ∧ t.toNat = 2)
  | .sdiv _ _ _ _ w t => decide (w.toNat ≤ 1 ∧ t.toNat = 6)
  | .tld t _ _ _ e => decide (t.toNat < 12 ∧ e.toNat ≠ 3)
  | .tst t _ _ _ e => decide (t.toNat < 12 ∧ e.toNat ≠ 3)
  | .tzero d => decide (d.toNat < 12)
  | .tgetr a _ _ => decide (a.toNat < 12)
  | .tsetr d _ _ => decide (d.toNat < 12)
  | .mlds a _ o p _ => decide (a.toNat < 12 ∧ o.toNat ≤ 7 ∧ (o.toNat = 7 → p.toNat = 0 ∨ p.toNat = 4))
  | .mswap => true
  | .mma d a _ o _ _ _ _ => decide (d.toNat < 12 ∧ a.toNat < 12 ∧ o.toNat ≤ 7 ∧ d ≠ a)
  | .sld _ w n => decide (w.toNat + n.toNat + 1 ≤ 8)
  | .tcvt d a s o x p _ => decide (d.toNat < 12 ∧ a.toNat < 12 ∧ tcvtTypesOk o.toNat x.toNat p.toNat (s.toNat ≠ 0) ∧ d ≠ a)
  | .tadd d a o => decide (d.toNat < 12 ∧ a.toNat < 12 ∧ (o.toNat = 8 ∨ o.toNat = 9))
  | .cpy _ _ _ _ => true
  | .twany _ => true
  | .twall _ => true
  | .tffr _ _ _ => true
  | .tclr _ => true
  | .tq _ _ _ _ _ => true
  | .tqp _ _ => true
  | .tbldef _ _ => true
  | .tbldefDrop _ _ => true
  | .trepl _ _ => true
  | .play _ _ _ => true
  | .playp _ _ => true
  | .pbset _ _ => true
  | .rset _ _ => true
  | .rsetDrop _ _ => true
  | .rins _ _ _ => true
  | .rdel _ _ _ => true
  | .rage _ _ _ => true
  | .rsel _ _ _ _ k => decide (k.toNat ≤ 64)
  | .rselInfo _ => true
  | .rselp _ _ => true
  | .palloc _ _ _ => true
  | .pfree _ _ _ => true
  | .pseal _ _ _ => true
  | .pattr _ _ _ => true
  | .binit _ _ _ => true
  | .binitFree _ _ => true
  | .barr _ _ _ => true
  | .bwait _ _ _ => true
  | .wwatch _ _ _ => true
  | .wwait _ _ => true
  | .tspawn _ _ _ _ => true
  | .coll _ _ _ c _ z o => decide (c.toNat ≠ 3 ∧ z.toNat ≠ 3 ∧ (z.toNat = 2 → o.toNat ≤ 2 ∨ o.toNat = 7))
  | .bundleDispatch _ => true
  | .loadDataReturn _ _ _ => true
  | .bundleCommit _ => true
  | .contextSwitch _ => true
  | .faultRecordWrite _ => true
  | .notice _ => true
  | .asynchronousTrap _ => true
  | .drainEnd _ => true
  | .preEmption _ _ => true
  | .launchResume _ => true
  | .mtxAcceptance _ => true
  | .mtxWorkEnd _ => true
  | .serviceCompletion _ _ => true
  | .dieAcknowledge _ _ _ => true
  | .kvPoolRefill _ _ _ => true
  | .scrub _ _ _ => true
  | .cpyAcceptance _ => true
  | .cpyPiece _ _ => true
  | .redApplication _ _ => true
  | .pbsetFlush _ => true
  | .playArrival _ => true
  | .playValidation _ => true
  | .playPerform _ _ => true
  | .tableQuery _ => true
  | .tbldefSuboperation _ => true
  | .treplSuboperation _ => true
  | .rsetSuboperation _ => true
  | .rsetDropSuboperation _ => true
  | .rinsSuboperation _ => true
  | .spillWrite _ _ _ => true
  | .rdelSuboperation _ => true
  | .rageSuboperation _ => true
  | .rselSuboperation _ => true
  | .rselInfoSuboperation _ => true
  | .pfreeSuboperation _ => true
  | .psealSuboperation _ => true
  | .pattrSuboperation _ => true
  | .binitSuboperation _ => true
  | .barrierArrival _ => true
  | .collective _ => true
  | .taskEntry _ => true
  | .launch _ => true
  | .load _ => true
  | .loadingCheck _ => true
  | .unload _ => true
  | .graph _ => true
  | .graphDrop _ => true
  | .recordTake _ => true
  | .taskDispatch => true
  | .launchCompletion _ => true
  | .taskRecordEnqueue _ => true
  | .graphNodeCompletion _ _ => true
  | .eprioAging _ => true
  | .kick _ => true
  | .unmap _ => true
  | .unmapDone => true
  | .queueEnable _ _ => true
  | .queueDisable _ _ => true
  | .drainSet _ _ => true
  | .drainClear _ _ => true
  | .prioChange _ _ => true
  | .qtail _ _ => true
  | .lscr _ => true
  | .astb _ => true
  | .modesel _ => true
  | .svcdone _ => true
  | .resume _ => true
  | .resumeAt _ => true
  | .terminate _ => true
  | .pcap _ => true
  | .registerWrite _ _ => true
  | .linkEnable _ _ => true
  | .linkDisable _ _ => true
  | .retrain _ _ => true
  | .trainingComplete _ _ => true
  | .trainingTimeout _ _ => true
  | .laneFailure _ _ => true
  | .laneRetraining _ => true
  | .flitReceive _ _ => true
  | .retryExhausted _ => true
  | .partnerTimeout _ => true
  | .linkRetraining _ => true
  | .peerAccess _ => true
  | .refusal _ _ => true
  | .acknowledgement _ => true
  | .hostMemoryRequest _ => true
  | .sensorSample _ => true
  | .capRelease => true
  | .eventLogRead _ => true
  | .firmwareUpdate _ => true
  | .lemantReset => true
  | .firmwareConfirmationTimeout => true
  | .keySlotLoad _ _ => true
  | .deviceReset => true
  | .firmwareConfirmation => true
  | .fixedComparatorTrip _ _ => true

/-- False where a field that is MBZ in this form is set (R52, R186, R188 and the encoding tables); the S that an MLDS or MMA of
OT 3 to 6 requires to be 0 counts as such a field (assumption 78). -/
def Instr.mbzOk : Instr → Bool
  | .imov _ _ x y => decide (y.toNat = 0 → x.toNat = 0)
  | .plog _ _ b o => decide (4 ≤ o.toNat → b.toNat = 0)
  | .vcvt _ _ s e m x y _ t => decide (vcvtMbzOk t.toNat s.toNat (e.toNat = 1) (y.toNat = 1) m.toNat x.toNat)
  | .vnarrow _ _ _ s _ _ t => decide (4 ≤ t.toNat → s.toNat % 16 = 0)
  | .vshuf _ _ b k _ _ => decide (k.toNat = 4 → b.toNat = 0)
  | .vred _ _ o m _ _ t => decide ((o.toNat = 0 ∧ (t.toNat = 4 ∨ t.toNat = 5)) ∨ m.toNat = 0)
  | .vscan _ _ o _ m _ _ t => decide ((o.toNat = 0 ∧ (t.toNat = 4 ∨ t.toNat = 5)) ∨ m.toNat = 0)
  | .mlds _ s o p b => decide ((b.toNat = 0 ∨ o.toNat = 1 ∨ o.toNat = 2) ∧ (o.toNat = 0 ∨ (3 ≤ o.toNat ∧ o.toNat ≤ 6) → p.toNat = 0) ∧ (3 ≤ o.toNat ∧ o.toNat ≤ 6 → s.toNat = 0))
  | .mma _ _ s o w b _ _ => decide ((b.toNat = 0 ∨ o.toNat = 1 ∨ o.toNat = 2) ∧ (o.toNat = 0 ∨ (3 ≤ o.toNat ∧ o.toNat ≤ 6) → w.toNat = 0) ∧ (3 ≤ o.toNat ∧ o.toNat ≤ 6 → s.toNat = 0))
  | .tq _ _ _ e n => decide (n.toNat = 1 → e.toNat = 0)
  | .barr _ g c => decide (g.toNat = 1 → c.toNat = 0)
  | .bwait _ g c => decide (g.toNat = 1 → c.toNat = 0)
  | _ => true

end Sys2Proof
end

