-- ==== Sys2Proof/WellFormed.lean ====
section
/-!
DEFINITION. The well-formed instructions: those that raise neither ILLEGAL_OP nor MBZ whatever the context (Table 3-15
step 6).
-/
namespace Sys2Proof

/-- Every field lies in its range and names an assigned code, and no field that must be zero is set. -/
def Instr.wf (i : Instr) : Bool := i.fieldsOk && i.mbzOk

end Sys2Proof
end

