-- ==== Sys2Proof/Decode.lean ====
section
/-!
DEFINITION. The decoder of one slot word (R52 to R56), total on every word, and after it the encoder written from the
same tables.
-/
namespace Sys2Proof

/-- What a slot word reads as: no instruction (ILLEGAL_OP), or an instruction with the mark that a bit that must be
zero is set (MBZ, judged after ILLEGAL_OP by Table 3-15 step 6). -/
inductive Decoded where
  | bad
  | word (i : Instr) (mbz : Bool)
  deriving DecidableEq, Repr

/-- The field of n bits whose lowest bit is bit lo. -/
def fld (w lo n : Nat) : BitVec n := BitVec.ofNat n (w / 2 ^ lo)

/-- True when the n bits from bit lo are all clear. -/
def clear (w lo n : Nat) : Bool := w / 2 ^ lo % 2 ^ n == 0

/-- A word with its fields read: ILLEGAL_OP where the instruction admits no such field, else the instruction. -/
def checked (mbzOk : Bool) (i : Instr) : Decoded :=
  if i.fieldsOk then .word i (!(mbzOk && i.mbzOk)) else .bad

/-- The SCL opcode space (Tables 3-6 to 3-12). -/
def decodeScl (w : Nat) : Decoded :=
  match w / 2 ^ 26 % 64 with
  | 0 => checked (clear w 0 8) (.add (fld w 20 6) (fld w 14 6) (fld w 8 6))
  | 1 => checked (clear w 0 8) (.sub (fld w 20 6) (fld w 14 6) (fld w 8 6))
  | 2 => checked (clear w 0 8) (.and (fld w 20 6) (fld w 14 6) (fld w 8 6))
  | 3 => checked (clear w 0 8) (.or (fld w 20 6) (fld w 14 6) (fld w 8 6))
  | 4 => checked (clear w 0 8) (.xor (fld w 20 6) (fld w 14 6) (fld w 8 6))
  | 5 => checked (clear w 0 8) (.andn (fld w 20 6) (fld w 14 6) (fld w 8 6))
  | 6 => checked (clear w 0 8) (.sll (fld w 20 6) (fld w 14 6) (fld w 8 6))
  | 7 => checked (clear w 0 8) (.srl (fld w 20 6) (fld w 14 6) (fld w 8 6))
  | 8 => checked (clear w 0 8) (.sra (fld w 20 6) (fld w 14 6) (fld w 8 6))
  | 9 => checked (clear w 0 8) (.rotl (fld w 20 6) (fld w 14 6) (fld w 8 6))
  | 10 => checked (clear w 1 7) (.mul (fld w 20 6) (fld w 14 6) (fld w 8 6) (fld w 0 1))
  | 11 => checked (clear w 1 7) (.mulh (fld w 20 6) (fld w 14 6) (fld w 8 6) (fld w 0 1))
  | 12 => checked (clear w 1 7) (.div (fld w 20 6) (fld w 14 6) (fld w 8 6) (fld w 0 1))
  | 13 => checked (clear w 1 7) (.rem (fld w 20 6) (fld w 14 6) (fld w 8 6) (fld w 0 1))
  | 14 => checked (clear w 1 7) (.min (fld w 20 6) (fld w 14 6) (fld w 8 6) (fld w 0 1))
  | 15 => checked (clear w 1 7) (.max (fld w 20 6) (fld w 14 6) (fld w 8 6) (fld w 0 1))
  | 16 => checked (clear w 1 7) (.slt (fld w 20 6) (fld w 14 6) (fld w 8 6) (fld w 0 1))
  | 17 => checked (clear w 0 8) (.seq (fld w 20 6) (fld w 14 6) (fld w 8 6))
  | 18 => checked (clear w 0 5) (.sel (fld w 20 6) (fld w 14 6) (fld w 8 6) (fld w 5 3))
  | 19 => checked (clear w 0 14) (.clz (fld w 20 6) (fld w 14 6))
  | 20 => checked (clear w 0 14) (.ctz (fld w 20 6) (fld w 14 6))
  | 21 => checked (clear w 0 14) (.popc (fld w 20 6) (fld w 14 6))
  | 22 => checked (true) (.addi (fld w 20 6) (fld w 14 6) (fld w 0 14))
  | 23 => checked (true) (.andi (fld w 20 6) (fld w 14 6) (fld w 0 14))
  | 24 => checked (true) (.ori (fld w 20 6) (fld w 14 6) (fld w 0 14))
  | 25 => checked (true) (.xori (fld w 20 6) (fld w 14 6) (fld w 0 14))
  | 26 => checked (clear w 6 6) (.shi (fld w 20 6) (fld w 14 6) (fld w 12 2) (fld w 0 6))
  | 27 => checked (true) (.slti (fld w 20 6) (fld w 14 6) (fld w 0 14))
  | 28 => checked (true) (.li (fld w 20 6) (fld w 0 20))
  | 29 => checked (clear w 16 2) (.liq (fld w 20 6) (fld w 18 2) (fld w 0 16))
  | 30 => checked (clear w 2 6) (.fadd (fld w 20 6) (fld w 14 6) (fld w 8 6) (fld w 0 2))
  | 31 => checked (clear w 2 6) (.fsub (fld w 20 6) (fld w 14 6) (fld w 8 6) (fld w 0 2))
  | 32 => checked (clear w 2 6) (.fmul (fld w 20 6) (fld w 14 6) (fld w 8 6) (fld w 0 2))
  | 33 => checked (clear w 2 6) (.fma (fld w 20 6) (fld w 14 6) (fld w 8 6) (fld w 0 2))
  | 34 => checked (clear w 0 8) (.fmin (fld w 20 6) (fld w 14 6) (fld w 8 6))
  | 35 => checked (clear w 0 8) (.fmax (fld w 20 6) (fld w 14 6) (fld w 8 6))
  | 36 => checked (clear w 3 5) (.fcmp (fld w 20 6) (fld w 14 6) (fld w 8 6) (fld w 0 3))
  | 37 => checked (clear w 5 9) (.fcvt (fld w 20 6) (fld w 14 6) (fld w 2 3) (fld w 0 2))
  | 38 => checked (true) (.bc (fld w 23 3) (fld w 17 6) (fld w 11 6) (fld w 0 11))
  | 39 => checked (true) (.jmp (fld w 0 26))
  | 40 => checked (true) (.jal (fld w 20 6) (fld w 0 20))
  | 41 => checked (clear w 0 14) (.jr (fld w 20 6) (fld w 14 6))
  | 42 => checked (clear w 11 6 && clear w 23 3) (.dbnz (fld w 17 6) (fld w 0 11))
  | 43 => checked (clear w 14 12) (.slack (fld w 0 14))
  | 44 => checked (clear w 0 2 && clear w 14 6) (.csrr (fld w 20 6) (fld w 2 12))
  | 45 => checked (clear w 0 2 && clear w 20 6) (.csrw (fld w 14 6) (fld w 2 12))
  | 46 => checked (clear w 3 23) (.fence (fld w 0 3))
  | 47 => checked (clear w 20 6) (.trap (fld w 0 20))
  | 48 => checked (clear w 0 26) (.done)
  | 49 => checked (clear w 20 6) (.brk (fld w 0 20))
  | _ => .bad

/-- The ADR opcode space (Tables 3-6 to 3-12). -/
def decodeAdr (w : Nat) : Decoded :=
  match w / 2 ^ 26 % 64 with
  | 0 => checked (true) (.ld (fld w 20 6) (fld w 14 6) (fld w 11 3) (fld w 0 11))
  | 1 => checked (true) (.st (fld w 20 6) (fld w 14 6) (fld w 11 3) (fld w 0 11))
  | 2 => checked (clear w 4 4) (.ldx (fld w 20 6) (fld w 14 6) (fld w 8 6) (fld w 3 1) (fld w 0 3))
  | 3 => checked (clear w 4 4) (.stx (fld w 20 6) (fld w 14 6) (fld w 8 6) (fld w 3 1) (fld w 0 3))
  | 4 => if w / 2 ^ 11 % 8 = 3 then checked (true) (.ldv (fld w 20 6) (fld w 14 6) (fld w 0 11)) else .bad
  | 5 => if w / 2 ^ 11 % 8 = 3 then checked (true) (.stv (fld w 20 6) (fld w 14 6) (fld w 0 11)) else .bad
  | 6 => checked (clear w 0 4) (.qld (fld w 24 2) (fld w 18 6) (fld w 12 6) (fld w 9 3) (fld w 6 3) (fld w 4 2))
  | 7 => checked (clear w 0 4) (.qgth (fld w 24 2) (fld w 18 6) (fld w 12 6) (fld w 9 3) (fld w 6 3) (fld w 4 2))
  | 8 => checked (clear w 0 4) (.qst (fld w 24 2) (fld w 18 6) (fld w 12 6) (fld w 9 3) (fld w 6 3) (fld w 4 2))
  | 9 => checked (clear w 0 4) (.qsct (fld w 24 2) (fld w 18 6) (fld w 12 6) (fld w 9 3) (fld w 6 3) (fld w 4 2))
  | 10 => checked (clear w 4 1) (.amo (fld w 20 6) (fld w 14 6) (fld w 8 6) (fld w 6 2) (fld w 5 1) (fld w 0 4))
  | 11 => checked (clear w 0 5) (.cas (fld w 20 6) (fld w 14 6) (fld w 8 6) (fld w 6 2) (fld w 5 1))
  | 12 => checked (clear w 4 1 && clear w 6 2 && clear w 20 6) (.red (fld w 14 6) (fld w 8 6) (fld w 5 1) (fld w 0 4))
  | 13 => checked (true) (.lea (fld w 20 6) (fld w 14 6) (fld w 0 14))
  | 14 => checked (clear w 21 5) (.pref (fld w 20 1) (fld w 14 6) (fld w 11 3) (fld w 0 11))
  | _ => .bad

/-- The IDX opcode space (Tables 3-6 to 3-12). -/
def decodeIdx (w : Nat) : Decoded :=
  match w / 2 ^ 26 % 64 with
  | 0 => checked (clear w 0 8) (.iadd (fld w 20 6) (fld w 14 6) (fld w 8 6))
  | 1 => checked (clear w 0 8) (.isub (fld w 20 6) (fld w 14 6) (fld w 8 6))
  | 2 => checked (true) (.iaddi (fld w 20 6) (fld w 14 6) (fld w 0 14))
  | 3 => checked (clear w 5 7) (.ishi (fld w 20 6) (fld w 14 6) (fld w 12 2) (fld w 0 5))
  | 4 => checked (clear w 0 8) (.iand (fld w 20 6) (fld w 14 6) (fld w 8 6))
  | 5 => checked (clear w 0 8) (.ior (fld w 20 6) (fld w 14 6) (fld w 8 6))
  | 6 => checked (clear w 1 7) (.imin (fld w 20 6) (fld w 14 6) (fld w 8 6) (fld w 0 1))
  | 7 => checked (clear w 1 7) (.imax (fld w 20 6) (fld w 14 6) (fld w 8 6) (fld w 0 1))
  | 8 => checked (clear w 2 12) (.imov (fld w 20 6) (fld w 14 6) (fld w 1 1) (fld w 0 1))
  | 9 => checked (clear w 0 5) (.icad (fld w 20 6) (fld w 14 6) (fld w 8 6) (fld w 5 3))
  | 10 => checked (clear w 1 13) (.ipopc (fld w 20 6) (fld w 14 6) (fld w 0 1))
  | 11 => checked (clear w 0 8) (.isurv (fld w 20 6) (fld w 14 6) (fld w 8 6))
  | 12 => checked (clear w 0 8) (.ihash (fld w 20 6) (fld w 14 6) (fld w 8 6))
  | 13 => checked (clear w 3 5) (.icmp (fld w 20 6) (fld w 14 6) (fld w 8 6) (fld w 2 1) (fld w 0 2))
  | 14 => checked (clear w 3 5) (.plog (fld w 20 6) (fld w 14 6) (fld w 8 6) (fld w 0 3))
  | _ => .bad

/-- The VEC opcode space (Tables 3-6 to 3-12). W of a VACLR is MBZ and no width (assumption 58). -/
def decodeVec (w : Nat) : Decoded :=
  match w / 2 ^ 26 % 64 with
  | 0 => checked (true) (.vadd (fld w 20 6) (fld w 14 6) (fld w 8 6) (fld w 5 3) (fld w 3 2) (fld w 0 3))
  | 1 => checked (true) (.vsub (fld w 20 6) (fld w 14 6) (fld w 8 6) (fld w 5 3) (fld w 3 2) (fld w 0 3))
  | 2 => checked (true) (.vadds (fld w 20 6) (fld w 14 6) (fld w 8 6) (fld w 5 3) (fld w 3 2) (fld w 0 3))
  | 3 => checked (true) (.vaddsn (fld w 20 6) (fld w 14 6) (fld w 8 6) (fld w 5 3) (fld w 3 2) (fld w 0 3))
  | 4 => checked (true) (.vsubs (fld w 20 6) (fld w 14 6) (fld w 8 6) (fld w 5 3) (fld w 3 2) (fld w 0 3))
  | 5 => checked (true) (.vsubsn (fld w 20 6) (fld w 14 6) (fld w 8 6) (fld w 5 3) (fld w 3 2) (fld w 0 3))
  | 6 => checked (true) (.vmul (fld w 20 6) (fld w 14 6) (fld w 8 6) (fld w 5 3) (fld w 3 2) (fld w 0 3))
  | 7 => checked (true) (.vmulh (fld w 20 6) (fld w 14 6) (fld w 8 6) (fld w 5 3) (fld w 3 2) (fld w 0 3))
  | 8 => checked (true) (.vmin (fld w 20 6) (fld w 14 6) (fld w 8 6) (fld w 5 3) (fld w 3 2) (fld w 0 3))
  | 9 => checked (true) (.vmax (fld w 20 6) (fld w 14 6) (fld w 8 6) (fld w 5 3) (fld w 3 2) (fld w 0 3))
  | 10 => checked (true) (.vminn (fld w 20 6) (fld w 14 6) (fld w 8 6) (fld w 5 3) (fld w 3 2) (fld w 0 3))
  | 11 => checked (true) (.vmaxn (fld w 20 6) (fld w 14 6) (fld w 8 6) (fld w 5 3) (fld w 3 2) (fld w 0 3))
  | 12 => checked (true) (.vand (fld w 20 6) (fld w 14 6) (fld w 8 6) (fld w 5 3) (fld w 3 2) (fld w 0 3))
  | 13 => checked (true) (.vor (fld w 20 6) (fld w 14 6) (fld w 8 6) (fld w 5 3) (fld w 3 2) (fld w 0 3))
  | 14 => checked (true) (.vxor (fld w 20 6) (fld w 14 6) (fld w 8 6) (fld w 5 3) (fld w 3 2) (fld w 0 3))
  | 15 => checked (true) (.vshl (fld w 20 6) (fld w 14 6) (fld w 8 6) (fld w 5 3) (fld w 3 2) (fld w 0 3))
  | 16 => checked (true) (.vshr (fld w 20 6) (fld w 14 6) (fld w 8 6) (fld w 5 3) (fld w 3 2) (fld w 0 3))
  | 17 => checked (true) (.vsra (fld w 20 6) (fld w 14 6) (fld w 8 6) (fld w 5 3) (fld w 3 2) (fld w 0 3))
  | 18 => checked (true) (.vshi (fld w 20 6) (fld w 14 6) (fld w 8 6) (fld w 5 3) (fld w 3 2) (fld w 0 3))
  | 19 => checked (true) (.vcmp (fld w 23 3) (fld w 20 3) (fld w 14 6) (fld w 8 6) (fld w 5 3) (fld w 3 2) (fld w 0 3))
  | 20 => checked (true) (.vsel (fld w 20 6) (fld w 14 6) (fld w 8 6) (fld w 5 3) (fld w 3 2) (fld w 0 3))
  | 21 => checked (true) (.vfadd (fld w 20 6) (fld w 14 6) (fld w 8 6) (fld w 5 3) (fld w 3 2) (fld w 0 3))
  | 22 => checked (true) (.vfsub (fld w 20 6) (fld w 14 6) (fld w 8 6) (fld w 5 3) (fld w 3 2) (fld w 0 3))
  | 23 => checked (true) (.vfmul (fld w 20 6) (fld w 14 6) (fld w 8 6) (fld w 5 3) (fld w 3 2) (fld w 0 3))
  | 24 => checked (true) (.vfma (fld w 20 6) (fld w 14 6) (fld w 8 6) (fld w 5 3) (fld w 3 2) (fld w 0 3))
  | 25 => checked (true) (.vfmin (fld w 20 6) (fld w 14 6) (fld w 8 6) (fld w 5 3) (fld w 3 2) (fld w 0 3))
  | 26 => checked (true) (.vfmax (fld w 20 6) (fld w 14 6) (fld w 8 6) (fld w 5 3) (fld w 3 2) (fld w 0 3))
  | 27 => checked (true) (.vfcmp (fld w 23 3) (fld w 20 3) (fld w 14 6) (fld w 8 6) (fld w 5 3) (fld w 3 2) (fld w 0 3))
  | 28 => checked (clear w 5 1) (.vcvt (fld w 20 6) (fld w 14 6) (fld w 11 3) (fld w 10 1) (fld w 8 2) (fld w 7 1) (fld w 6 1) (fld w 3 2) (fld w 0 3))
  | 29 => checked (true) (.vmac (fld w 20 6) (fld w 14 6) (fld w 8 6) (fld w 5 3) (fld w 3 2) (fld w 0 3))
  | 30 => checked (true) (.vfmac (fld w 20 6) (fld w 14 6) (fld w 8 6) (fld w 5 3) (fld w 3 2) (fld w 0 3))
  | 31 => checked (true) (.vnarrow (fld w 20 6) (fld w 14 6) (fld w 13 1) (fld w 8 5) (fld w 5 3) (fld w 3 2) (fld w 0 3))
  | 32 => checked (clear w 0 20) (.vaclr (fld w 20 6))
  | 33 => checked (true) (.vperm (fld w 20 6) (fld w 14 6) (fld w 8 6) (fld w 5 3) (fld w 3 2) (fld w 0 3))
  | 34 => checked (true) (.vshuf (fld w 20 6) (fld w 14 6) (fld w 8 6) (fld w 5 3) (fld w 3 2) (fld w 0 3))
  | 35 => checked (clear w 8 5) (.vbcast (fld w 20 6) (fld w 14 6) (fld w 13 1) (fld w 5 3) (fld w 3 2) (fld w 0 3))
  | 36 => checked (true) (.vslide (fld w 20 6) (fld w 14 6) (fld w 8 6) (fld w 5 3) (fld w 3 2) (fld w 0 3))
  | 37 => checked (true) (.vins (fld w 20 6) (fld w 14 6) (fld w 8 6) (fld w 5 3) (fld w 3 2) (fld w 0 3))
  | 38 => checked (clear w 5 3) (.vext (fld w 20 6) (fld w 14 6) (fld w 8 6) (fld w 3 2) (fld w 0 3))
  | 39 => checked (clear w 10 1) (.vred (fld w 20 6) (fld w 14 6) (fld w 11 3) (fld w 8 2) (fld w 5 3) (fld w 3 2) (fld w 0 3))
  | 40 => checked (true) (.vscan (fld w 20 6) (fld w 14 6) (fld w 11 3) (fld w 10 1) (fld w 8 2) (fld w 5 3) (fld w 3 2) (fld w 0 3))
  | 41 => checked (clear w 5 3) (.vpack4 (fld w 20 6) (fld w 14 6) (fld w 8 6) (fld w 3 2) (fld w 0 3))
  | 42 => checked (clear w 5 8) (.vunpk4 (fld w 20 6) (fld w 14 6) (fld w 13 1) (fld w 3 2) (fld w 0 3))
  | 43 => checked (clear w 6 2) (.vpair4 (fld w 20 6) (fld w 14 6) (fld w 8 6) (fld w 5 1) (fld w 3 2) (fld w 0 3))
  | 44 => checked (clear w 5 3 && clear w 11 3) (.vsgnpk (fld w 20 6) (fld w 14 6) (fld w 8 3) (fld w 3 2) (fld w 0 3))
  | 45 => checked (true) (.vhash (fld w 20 6) (fld w 14 6) (fld w 8 6) (fld w 5 3) (fld w 3 2) (fld w 0 3))
  | 46 => checked (true) (.vbcmp (fld w 20 6) (fld w 14 6) (fld w 8 6) (fld w 5 3) (fld w 3 2) (fld w 0 3))
  | 47 => checked (true) (.vbfind (fld w 20 6) (fld w 14 6) (fld w 8 6) (fld w 5 3) (fld w 3 2) (fld w 0 3))
  | 48 => checked (clear w 8 5) (.vpopc (fld w 20 6) (fld w 14 6) (fld w 13 1) (fld w 5 3) (fld w 3 2) (fld w 0 3))
  | 49 => checked (clear w 8 5) (.vclz (fld w 20 6) (fld w 14 6) (fld w 13 1) (fld w 5 3) (fld w 3 2) (fld w 0 3))
  | _ => .bad

/-- The MTX opcode space (Tables 3-6 to 3-12). -/
def decodeMtx (w : Nat) : Decoded :=
  match w / 2 ^ 26 % 64 with
  | 0 => checked (clear w 0 7) (.tld (fld w 22 4) (fld w 21 1) (fld w 15 6) (fld w 9 6) (fld w 7 2))
  | 1 => checked (clear w 0 7) (.tst (fld w 22 4) (fld w 21 1) (fld w 15 6) (fld w 9 6) (fld w 7 2))
  | 2 => checked (clear w 0 22) (.tzero (fld w 22 4))
  | 3 => checked (clear w 0 4 && clear w 8 4 && clear w 22 4) (.tgetr (fld w 18 4) (fld w 12 6) (fld w 4 4))
  | 4 => checked (clear w 0 4 && clear w 8 4 && clear w 18 4) (.tsetr (fld w 22 4) (fld w 12 6) (fld w 4 4))
  | 5 => checked (clear w 0 4 && clear w 22 4) (.mlds (fld w 18 4) (fld w 12 6) (fld w 8 4) (fld w 5 3) (fld w 4 1))
  | 6 => checked (clear w 0 26) (.mswap)
  | 7 => checked (clear w 2 1) (.mma (fld w 22 4) (fld w 18 4) (fld w 12 6) (fld w 8 4) (fld w 5 3) (fld w 4 1) (fld w 3 1) (fld w 0 2))
  | 8 => checked (clear w 0 3 && clear w 8 4 && clear w 18 8) (.sld (fld w 12 6) (fld w 5 3) (fld w 3 2))
  | 9 => checked (clear w 0 1) (.tcvt (fld w 22 4) (fld w 18 4) (fld w 12 6) (fld w 8 4) (fld w 4 4) (fld w 2 2) (fld w 1 1))
  | 10 => checked (clear w 0 8 && clear w 12 6) (.tadd (fld w 22 4) (fld w 18 4) (fld w 8 4))
  | _ => .bad

/-- The SFU opcode space (Tables 3-6 to 3-12). -/
def decodeSfu (w : Nat) : Decoded :=
  match w / 2 ^ 26 % 64 with
  | 0 => checked (clear w 8 6) (.sexp2 (fld w 20 6) (fld w 14 6) (fld w 5 3) (fld w 3 2) (fld w 0 3))
  | 1 => checked (clear w 8 6) (.slog2 (fld w 20 6) (fld w 14 6) (fld w 5 3) (fld w 3 2) (fld w 0 3))
  | 2 => checked (clear w 8 6) (.srcp (fld w 20 6) (fld w 14 6) (fld w 5 3) (fld w 3 2) (fld w 0 3))
  | 3 => checked (clear w 8 6) (.srsq (fld w 20 6) (fld w 14 6) (fld w 5 3) (fld w 3 2) (fld w 0 3))
  | 4 => checked (clear w 8 6) (.ssqrt (fld w 20 6) (fld w 14 6) (fld w 5 3) (fld w 3 2) (fld w 0 3))
  | 5 => checked (true) (.rng128 (fld w 20 6) (fld w 14 6) (fld w 8 6) (fld w 5 3) (fld w 3 2) (fld w 0 3))
  | 6 => checked (true) (.scrc (fld w 20 6) (fld w 14 6) (fld w 8 6) (fld w 5 3) (fld w 3 2) (fld w 0 3))
  | 7 => checked (true) (.sdiv (fld w 20 6) (fld w 14 6) (fld w 8 6) (fld w 5 3) (fld w 3 2) (fld w 0 3))
  | _ => .bad

/-- The ENG opcode space (Tables 3-6 to 3-12). -/
def decodeEng (w : Nat) : Decoded :=
  match w / 2 ^ 26 % 64 with
  | 0 => checked (clear w 0 2) (.cpy (fld w 20 6) (fld w 14 6) (fld w 8 6) (fld w 2 6))
  | 1 => checked (clear w 0 14 && clear w 20 6) (.twany (fld w 14 6))
  | 2 => checked (clear w 0 14 && clear w 20 6) (.twall (fld w 14 6))
  | 3 => checked (clear w 1 13) (.tffr (fld w 20 6) (fld w 14 6) (fld w 0 1))
  | 4 => checked (clear w 0 14 && clear w 20 6) (.tclr (fld w 14 6))
  | 5 => checked (clear w 2 6) (.tq (fld w 20 6) (fld w 14 6) (fld w 8 6) (fld w 1 1) (fld w 0 1))
  | 6 => checked (clear w 0 14) (.tqp (fld w 20 6) (fld w 14 6))
  | 7 => if clear w 0 1 then checked (clear w 1 13) (.tbldef (fld w 20 6) (fld w 14 6)) else checked (clear w 1 13) (.tbldefDrop (fld w 20 6) (fld w 14 6))
  | 8 => checked (clear w 0 14) (.trepl (fld w 20 6) (fld w 14 6))
  | 9 => checked (clear w 0 8) (.play (fld w 20 6) (fld w 14 6) (fld w 8 6))
  | 10 => checked (clear w 0 14) (.playp (fld w 20 6) (fld w 14 6))
  | 11 => checked (clear w 0 14) (.pbset (fld w 20 6) (fld w 14 6))
  | 12 => if clear w 0 1 then checked (clear w 1 13) (.rset (fld w 20 6) (fld w 14 6)) else checked (clear w 1 13) (.rsetDrop (fld w 20 6) (fld w 14 6))
  | 13 => checked (clear w 0 8) (.rins (fld w 20 6) (fld w 14 6) (fld w 8 6))
  | 14 => checked (clear w 0 8) (.rdel (fld w 20 6) (fld w 14 6) (fld w 8 6))
  | 15 => checked (clear w 0 8) (.rage (fld w 20 6) (fld w 14 6) (fld w 8 6))
  | 16 => if clear w 23 1 then checked (clear w 24 2) (.rsel (fld w 20 3) (fld w 14 6) (fld w 8 6) (fld w 7 1) (fld w 0 7))
    else if clear w 20 3 && clear w 0 8 then checked (clear w 8 6 && clear w 24 2) (.rselInfo (fld w 14 6)) else .bad
  | 17 => checked (clear w 0 14) (.rselp (fld w 20 6) (fld w 14 6))
  | 18 => checked (clear w 0 8) (.palloc (fld w 20 6) (fld w 14 6) (fld w 8 6))
  | 19 => checked (clear w 0 8) (.pfree (fld w 20 6) (fld w 14 6) (fld w 8 6))
  | 20 => checked (clear w 0 8) (.pseal (fld w 20 6) (fld w 14 6) (fld w 8 6))
  | 21 => checked (clear w 1 13) (.pattr (fld w 20 6) (fld w 14 6) (fld w 0 1))
  | 22 => if clear w 8 1 then checked (clear w 9 5) (.binit (fld w 20 6) (fld w 14 6) (fld w 0 8)) else checked (clear w 9 11) (.binitFree (fld w 20 6) (fld w 0 8))
  | 23 => checked (clear w 9 11) (.barr (fld w 20 6) (fld w 8 1) (fld w 0 8))
  | 24 => checked (clear w 9 5 && clear w 20 6) (.bwait (fld w 14 6) (fld w 8 1) (fld w 0 8))
  | 25 => checked (clear w 0 8 && clear w 23 3) (.wwatch (fld w 20 3) (fld w 14 6) (fld w 8 6))
  | 26 => checked (clear w 0 14) (.wwait (fld w 20 6) (fld w 14 6))
  | 27 => checked (clear w 6 2) (.tspawn (fld w 20 6) (fld w 14 6) (fld w 8 6) (fld w 0 6))
  | 28 => checked (true) (.coll (fld w 20 6) (fld w 14 6) (fld w 8 6) (fld w 6 2) (fld w 5 1) (fld w 3 2) (fld w 0 3))
  | _ => .bad

/-- The decoder of a slot word in an opcode space. -/
def decodeSpace : Space → Nat → Decoded
  | .scl, w => decodeScl w
  | .adr, w => decodeAdr w
  | .idx, w => decodeIdx w
  | .vec, w => decodeVec w
  | .mtx, w => decodeMtx w
  | .sfu, w => decodeSfu w
  | .eng, w => decodeEng w

/-- The opcode space of a slot number (Table 3-2). -/
def slotSpace : Nat → Space
  | 0 => .scl | 1 => .adr | 2 => .idx | 3 => .vec | 4 => .vec | 5 => .mtx | 6 => .sfu | _ => .eng

/-- A base word plus field values at their lowest bits. -/
def enc (base : Nat) : List (Nat × Nat) → Nat
  | [] => base
  | (v, lo) :: rest => v * 2 ^ lo + enc base rest

/-- The slot word of a well-formed instruction, from its row of the encoding tables; 0 for a step without encoding. -/
def encode : Instr → Nat
  | .add d a b => enc 0x0 [(d.toNat, 20), (a.toNat, 14), (b.toNat, 8)]
  | .sub d a b => enc 0x4000000 [(d.toNat, 20), (a.toNat, 14), (b.toNat, 8)]
  | .and d a b => enc 0x8000000 [(d.toNat, 20), (a.toNat, 14), (b.toNat, 8)]
  | .or d a b => enc 0xC000000 [(d.toNat, 20), (a.toNat, 14), (b.toNat, 8)]
  | .xor d a b => enc 0x10000000 [(d.toNat, 20), (a.toNat, 14), (b.toNat, 8)]
  | .andn d a b => enc 0x14000000 [(d.toNat, 20), (a.toNat, 14), (b.toNat, 8)]
  | .sll d a b => enc 0x18000000 [(d.toNat, 20), (a.toNat, 14), (b.toNat, 8)]
  | .srl d a b => enc 0x1C000000 [(d.toNat, 20), (a.toNat, 14), (b.toNat, 8)]
  | .sra d a b => enc 0x20000000 [(d.toNat, 20), (a.toNat, 14), (b.toNat, 8)]
  | .rotl d a b => enc 0x24000000 [(d.toNat, 20), (a.toNat, 14), (b.toNat, 8)]
  | .mul d a b u => enc 0x28000000 [(d.toNat, 20), (a.toNat, 14), (b.toNat, 8), (u.toNat, 0)]
  | .mulh d a b u => enc 0x2C000000 [(d.toNat, 20), (a.toNat, 14), (b.toNat, 8), (u.toNat, 0)]
  | .div d a b u => enc 0x30000000 [(d.toNat, 20), (a.toNat, 14), (b.toNat, 8), (u.toNat, 0)]
  | .rem d a b u => enc 0x34000000 [(d.toNat, 20), (a.toNat, 14), (b.toNat, 8), (u.toNat, 0)]
  | .min d a b u => enc 0x38000000 [(d.toNat, 20), (a.toNat, 14), (b.toNat, 8), (u.toNat, 0)]
  | .max d a b u => enc 0x3C000000 [(d.toNat, 20), (a.toNat, 14), (b.toNat, 8), (u.toNat, 0)]
  | .slt d a b u => enc 0x40000000 [(d.toNat, 20), (a.toNat, 14), (b.toNat, 8), (u.toNat, 0)]
  | .seq d a b => enc 0x44000000 [(d.toNat, 20), (a.toNat, 14), (b.toNat, 8)]
  | .sel d a b p => enc 0x48000000 [(d.toNat, 20), (a.toNat, 14), (b.toNat, 8), (p.toNat, 5)]
  | .clz d a => enc 0x4C000000 [(d.toNat, 20), (a.toNat, 14)]
  | .ctz d a => enc 0x50000000 [(d.toNat, 20), (a.toNat, 14)]
  | .popc d a => enc 0x54000000 [(d.toNat, 20), (a.toNat, 14)]
  | .addi d a i => enc 0x58000000 [(d.toNat, 20), (a.toNat, 14), (i.toNat, 0)]
  | .andi d a i => enc 0x5C000000 [(d.toNat, 20), (a.toNat, 14), (i.toNat, 0)]
  | .ori d a i => enc 0x60000000 [(d.toNat, 20), (a.toNat, 14), (i.toNat, 0)]
  | .xori d a i => enc 0x64000000 [(d.toNat, 20), (a.toNat, 14), (i.toNat, 0)]
  | .shi d a k n => enc 0x68000000 [(d.toNat, 20), (a.toNat, 14), (k.toNat, 12), (n.toNat, 0)]
  | .slti d a i => enc 0x6C000000 [(d.toNat, 20), (a.toNat, 14), (i.toNat, 0)]
  | .li d i => enc 0x70000000 [(d.toNat, 20), (i.toNat, 0)]
  | .liq d q v => enc 0x74000000 [(d.toNat, 20), (q.toNat, 18), (v.toNat, 0)]
  | .fadd d a b m => enc 0x78000000 [(d.toNat, 20), (a.toNat, 14), (b.toNat, 8), (m.toNat, 0)]
  | .fsub d a b m => enc 0x7C000000 [(d.toNat, 20), (a.toNat, 14), (b.toNat, 8), (m.toNat, 0)]
  | .fmul d a b m => enc 0x80000000 [(d.toNat, 20), (a.toNat, 14), (b.toNat, 8), (m.toNat, 0)]
  | .fma d a b m => enc 0x84000000 [(d.toNat, 20), (a.toNat, 14), (b.toNat, 8), (m.toNat, 0)]
  | .fmin d a b => enc 0x88000000 [(d.toNat, 20), (a.toNat, 14), (b.toNat, 8)]
  | .fmax d a b => enc 0x8C000000 [(d.toNat, 20), (a.toNat, 14), (b.toNat, 8)]
  | .fcmp d a b c => enc 0x90000000 [(d.toNat, 20), (a.toNat, 14), (b.toNat, 8), (c.toNat, 0)]
  | .fcvt d a k m => enc 0x94000000 [(d.toNat, 20), (a.toNat, 14), (k.toNat, 2), (m.toNat, 0)]
  | .bc c a b o => enc 0x98000000 [(c.toNat, 23), (a.toNat, 17), (b.toNat, 11), (o.toNat, 0)]
  | .jmp o => enc 0x9C000000 [(o.toNat, 0)]
  | .jal d o => enc 0xA0000000 [(d.toNat, 20), (o.toNat, 0)]
  | .jr d a => enc 0xA4000000 [(d.toNat, 20), (a.toNat, 14)]
  | .dbnz a o => enc 0xA8000000 [(a.toNat, 17), (o.toNat, 0)]
  | .slack i => enc 0xAC000000 [(i.toNat, 0)]
  | .csrr d c => enc 0xB0000000 [(d.toNat, 20), (c.toNat, 2)]
  | .csrw a c => enc 0xB4000000 [(a.toNat, 14), (c.toNat, 2)]
  | .fence k => enc 0xB8000000 [(k.toNat, 0)]
  | .trap i => enc 0xBC000000 [(i.toNat, 0)]
  | .done => enc 0xC0000000 []
  | .brk i => enc 0xC4000000 [(i.toNat, 0)]
  | .ld d a z o => enc 0x0 [(d.toNat, 20), (a.toNat, 14), (z.toNat, 11), (o.toNat, 0)]
  | .st d a z o => enc 0x4000000 [(d.toNat, 20), (a.toNat, 14), (z.toNat, 11), (o.toNat, 0)]
  | .ldx d a b c z => enc 0x8000000 [(d.toNat, 20), (a.toNat, 14), (b.toNat, 8), (c.toNat, 3), (z.toNat, 0)]
  | .stx d a b c z => enc 0xC000000 [(d.toNat, 20), (a.toNat, 14), (b.toNat, 8), (c.toNat, 3), (z.toNat, 0)]
  | .ldv d a o => enc 0x10001800 [(d.toNat, 20), (a.toNat, 14), (o.toNat, 0)]
  | .stv d a o => enc 0x14001800 [(d.toNat, 20), (a.toNat, 14), (o.toNat, 0)]
  | .qld q a b z p w => enc 0x18000000 [(q.toNat, 24), (a.toNat, 18), (b.toNat, 12), (z.toNat, 9), (p.toNat, 6), (w.toNat, 4)]
  | .qgth q a b z p w => enc 0x1C000000 [(q.toNat, 24), (a.toNat, 18), (b.toNat, 12), (z.toNat, 9), (p.toNat, 6), (w.toNat, 4)]
  | .qst q a b z p w => enc 0x20000000 [(q.toNat, 24), (a.toNat, 18), (b.toNat, 12), (z.toNat, 9), (p.toNat, 6), (w.toNat, 4)]
  | .qsct q a b z p w => enc 0x24000000 [(q.toNat, 24), (a.toNat, 18), (b.toNat, 12), (z.toNat, 9), (p.toNat, 6), (w.toNat, 4)]
  | .amo d a b r e f => enc 0x28000000 [(d.toNat, 20), (a.toNat, 14), (b.toNat, 8), (r.toNat, 6), (e.toNat, 5), (f.toNat, 0)]
  | .cas d a b r e => enc 0x2C000000 [(d.toNat, 20), (a.toNat, 14), (b.toNat, 8), (r.toNat, 6), (e.toNat, 5)]
  | .red a b e f => enc 0x30000000 [(a.toNat, 14), (b.toNat, 8), (e.toNat, 5), (f.toNat, 0)]
  | .lea d a i => enc 0x34000000 [(d.toNat, 20), (a.toNat, 14), (i.toNat, 0)]
  | .pref l a z o => enc 0x38000000 [(l.toNat, 20), (a.toNat, 14), (z.toNat, 11), (o.toNat, 0)]
  | .iadd d a b => enc 0x0 [(d.toNat, 20), (a.toNat, 14), (b.toNat, 8)]
  | .isub d a b => enc 0x4000000 [(d.toNat, 20), (a.toNat, 14), (b.toNat, 8)]
  | .iaddi d a i => enc 0x8000000 [(d.toNat, 20), (a.toNat, 14), (i.toNat, 0)]
  | .ishi d a k n => enc 0xC000000 [(d.toNat, 20), (a.toNat, 14), (k.toNat, 12), (n.toNat, 0)]
  | .iand d a b => enc 0x10000000 [(d.toNat, 20), (a.toNat, 14), (b.toNat, 8)]
  | .ior d a b => enc 0x14000000 [(d.toNat, 20), (a.toNat, 14), (b.toNat, 8)]
  | .imin d a b u => enc 0x18000000 [(d.toNat, 20), (a.toNat, 14), (b.toNat, 8), (u.toNat, 0)]
  | .imax d a b u => enc 0x1C000000 [(d.toNat, 20), (a.toNat, 14), (b.toNat, 8), (u.toNat, 0)]
  | .imov d a x y => enc 0x20000000 [(d.toNat, 20), (a.toNat, 14), (x.toNat, 1), (y.toNat, 0)]
  | .icad d a b p => enc 0x24000000 [(d.toNat, 20), (a.toNat, 14), (b.toNat, 8), (p.toNat, 5)]
  | .ipopc d a s => enc 0x28000000 [(d.toNat, 20), (a.toNat, 14), (s.toNat, 0)]
  | .isurv d a b => enc 0x2C000000 [(d.toNat, 20), (a.toNat, 14), (b.toNat, 8)]
  | .ihash d a b => enc 0x30000000 [(d.toNat, 20), (a.toNat, 14), (b.toNat, 8)]
  | .icmp d a b u c => enc 0x34000000 [(d.toNat, 20), (a.toNat, 14), (b.toNat, 8), (u.toNat, 2), (c.toNat, 0)]
  | .plog d a b o => enc 0x38000000 [(d.toNat, 20), (a.toNat, 14), (b.toNat, 8), (o.toNat, 0)]
  | .vadd d a b p w t => enc 0x0 [(d.toNat, 20), (a.toNat, 14), (b.toNat, 8), (p.toNat, 5), (w.toNat, 3), (t.toNat, 0)]
  | .vsub d a b p w t => enc 0x4000000 [(d.toNat, 20), (a.toNat, 14), (b.toNat, 8), (p.toNat, 5), (w.toNat, 3), (t.toNat, 0)]
  | .vadds d a b p w t => enc 0x8000000 [(d.toNat, 20), (a.toNat, 14), (b.toNat, 8), (p.toNat, 5), (w.toNat, 3), (t.toNat, 0)]
  | .vaddsn d a b p w t => enc 0xC000000 [(d.toNat, 20), (a.toNat, 14), (b.toNat, 8), (p.toNat, 5), (w.toNat, 3), (t.toNat, 0)]
  | .vsubs d a b p w t => enc 0x10000000 [(d.toNat, 20), (a.toNat, 14), (b.toNat, 8), (p.toNat, 5), (w.toNat, 3), (t.toNat, 0)]
  | .vsubsn d a b p w t => enc 0x14000000 [(d.toNat, 20), (a.toNat, 14), (b.toNat, 8), (p.toNat, 5), (w.toNat, 3), (t.toNat, 0)]
  | .vmul d a b p w t => enc 0x18000000 [(d.toNat, 20), (a.toNat, 14), (b.toNat, 8), (p.toNat, 5), (w.toNat, 3), (t.toNat, 0)]
  | .vmulh d a b p w t => enc 0x1C000000 [(d.toNat, 20), (a.toNat, 14), (b.toNat, 8), (p.toNat, 5), (w.toNat, 3), (t.toNat, 0)]
  | .vmin d a b p w t => enc 0x20000000 [(d.toNat, 20), (a.toNat, 14), (b.toNat, 8), (p.toNat, 5), (w.toNat, 3), (t.toNat, 0)]
  | .vmax d a b p w t => enc 0x24000000 [(d.toNat, 20), (a.toNat, 14), (b.toNat, 8), (p.toNat, 5), (w.toNat, 3), (t.toNat, 0)]
  | .vminn d a b p w t => enc 0x28000000 [(d.toNat, 20), (a.toNat, 14), (b.toNat, 8), (p.toNat, 5), (w.toNat, 3), (t.toNat, 0)]
  | .vmaxn d a b p w t => enc 0x2C000000 [(d.toNat, 20), (a.toNat, 14), (b.toNat, 8), (p.toNat, 5), (w.toNat, 3), (t.toNat, 0)]
  | .vand d a b p w t => enc 0x30000000 [(d.toNat, 20), (a.toNat, 14), (b.toNat, 8), (p.toNat, 5), (w.toNat, 3), (t.toNat, 0)]
  | .vor d a b p w t => enc 0x34000000 [(d.toNat, 20), (a.toNat, 14), (b.toNat, 8), (p.toNat, 5), (w.toNat, 3), (t.toNat, 0)]
  | .vxor d a b p w t => enc 0x38000000 [(d.toNat, 20), (a.toNat, 14), (b.toNat, 8), (p.toNat, 5), (w.toNat, 3), (t.toNat, 0)]
  | .vshl d a b p w t => enc 0x3C000000 [(d.toNat, 20), (a.toNat, 14), (b.toNat, 8), (p.toNat, 5), (w.toNat, 3), (t.toNat, 0)]
  | .vshr d a b p w t => enc 0x40000000 [(d.toNat, 20), (a.toNat, 14), (b.toNat, 8), (p.toNat, 5), (w.toNat, 3), (t.toNat, 0)]
  | .vsra d a b p w t => enc 0x44000000 [(d.toNat, 20), (a.toNat, 14), (b.toNat, 8), (p.toNat, 5), (w.toNat, 3), (t.toNat, 0)]
  | .vshi d a i k w t => enc 0x48000000 [(d.toNat, 20), (a.toNat, 14), (i.toNat, 8), (k.toNat, 5), (w.toNat, 3), (t.toNat, 0)]
  | .vcmp c d a b p w t => enc 0x4C000000 [(c.toNat, 23), (d.toNat, 20), (a.toNat, 14), (b.toNat, 8), (p.toNat, 5), (w.toNat, 3), (t.toNat, 0)]
  | .vsel d a b p w t => enc 0x50000000 [(d.toNat, 20), (a.toNat, 14), (b.toNat, 8), (p.toNat, 5), (w.toNat, 3), (t.toNat, 0)]
  | .vfadd d a b p w t => enc 0x54000000 [(d.toNat, 20), (a.toNat, 14), (b.toNat, 8), (p.toNat, 5), (w.toNat, 3), (t.toNat, 0)]
  | .vfsub d a b p w t => enc 0x58000000 [(d.toNat, 20), (a.toNat, 14), (b.toNat, 8), (p.toNat, 5), (w.toNat, 3), (t.toNat, 0)]
  | .vfmul d a b p w t => enc 0x5C000000 [(d.toNat, 20), (a.toNat, 14), (b.toNat, 8), (p.toNat, 5), (w.toNat, 3), (t.toNat, 0)]
  | .vfma d a b p w t => enc 0x60000000 [(d.toNat, 20), (a.toNat, 14), (b.toNat, 8), (p.toNat, 5), (w.toNat, 3), (t.toNat, 0)]
  | .vfmin d a b p w t => enc 0x64000000 [(d.toNat, 20), (a.toNat, 14), (b.toNat, 8), (p.toNat, 5), (w.toNat, 3), (t.toNat, 0)]
  | .vfmax d a b p w t => enc 0x68000000 [(d.toNat, 20), (a.toNat, 14), (b.toNat, 8), (p.toNat, 5), (w.toNat, 3), (t.toNat, 0)]
  | .vfcmp c d a b p w t => enc 0x6C000000 [(c.toNat, 23), (d.toNat, 20), (a.toNat, 14), (b.toNat, 8), (p.toNat, 5), (w.toNat, 3), (t.toNat, 0)]
  | .vcvt d a s e m x y w t => enc 0x70000000 [(d.toNat, 20), (a.toNat, 14), (s.toNat, 11), (e.toNat, 10), (m.toNat, 8), (x.toNat, 7), (y.toNat, 6), (w.toNat, 3), (t.toNat, 0)]
  | .vmac d a b p w t => enc 0x74000000 [(d.toNat, 20), (a.toNat, 14), (b.toNat, 8), (p.toNat, 5), (w.toNat, 3), (t.toNat, 0)]
  | .vfmac d a b p w t => enc 0x78000000 [(d.toNat, 20), (a.toNat, 14), (b.toNat, 8), (p.toNat, 5), (w.toNat, 3), (t.toNat, 0)]
  | .vnarrow d a h s p w t => enc 0x7C000000 [(d.toNat, 20), (a.toNat, 14), (h.toNat, 13), (s.toNat, 8), (p.toNat, 5), (w.toNat, 3), (t.toNat, 0)]
  | .vaclr d => enc 0x80000000 [(d.toNat, 20)]
  | .vperm d a b p w t => enc 0x84000000 [(d.toNat, 20), (a.toNat, 14), (b.toNat, 8), (p.toNat, 5), (w.toNat, 3), (t.toNat, 0)]
  | .vshuf d a b k w t => enc 0x88000000 [(d.toNat, 20), (a.toNat, 14), (b.toNat, 8), (k.toNat, 5), (w.toNat, 3), (t.toNat, 0)]
  | .vbcast d a z p w t => enc 0x8C000000 [(d.toNat, 20), (a.toNat, 14), (z.toNat, 13), (p.toNat, 5), (w.toNat, 3), (t.toNat, 0)]
  | .vslide d a i p w t => enc 0x90000000 [(d.toNat, 20), (a.toNat, 14), (i.toNat, 8), (p.toNat, 5), (w.toNat, 3), (t.toNat, 0)]
  | .vins d a b p w t => enc 0x94000000 [(d.toNat, 20), (a.toNat, 14), (b.toNat, 8), (p.toNat, 5), (w.toNat, 3), (t.toNat, 0)]
  | .vext d a b w t => enc 0x98000000 [(d.toNat, 20), (a.toNat, 14), (b.toNat, 8), (w.toNat, 3), (t.toNat, 0)]
  | .vred d a o m p w t => enc 0x9C000000 [(d.toNat, 20), (a.toNat, 14), (o.toNat, 11), (m.toNat, 8), (p.toNat, 5), (w.toNat, 3), (t.toNat, 0)]
  | .vscan d a o x m p w t => enc 0xA0000000 [(d.toNat, 20), (a.toNat, 14), (o.toNat, 11), (x.toNat, 10), (m.toNat, 8), (p.toNat, 5), (w.toNat, 3), (t.toNat, 0)]
  | .vpack4 d a b w t => enc 0xA4000000 [(d.toNat, 20), (a.toNat, 14), (b.toNat, 8), (w.toNat, 3), (t.toNat, 0)]
  | .vunpk4 d a h w t => enc 0xA8000000 [(d.toNat, 20), (a.toNat, 14), (h.toNat, 13), (w.toNat, 3), (t.toNat, 0)]
  | .vpair4 d a b h w t => enc 0xAC000000 [(d.toNat, 20), (a.toNat, 14), (b.toNat, 8), (h.toNat, 5), (w.toNat, 3), (t.toNat, 0)]
  | .vsgnpk d a k w t => enc 0xB0000000 [(d.toNat, 20), (a.toNat, 14), (k.toNat, 8), (w.toNat, 3), (t.toNat, 0)]
  | .vhash d a b p w t => enc 0xB4000000 [(d.toNat, 20), (a.toNat, 14), (b.toNat, 8), (p.toNat, 5), (w.toNat, 3), (t.toNat, 0)]
  | .vbcmp d a b p w t => enc 0xB8000000 [(d.toNat, 20), (a.toNat, 14), (b.toNat, 8), (p.toNat, 5), (w.toNat, 3), (t.toNat, 0)]
  | .vbfind d a b p w t => enc 0xBC000000 [(d.toNat, 20), (a.toNat, 14), (b.toNat, 8), (p.toNat, 5), (w.toNat, 3), (t.toNat, 0)]
  | .vpopc d a z p w t => enc 0xC0000000 [(d.toNat, 20), (a.toNat, 14), (z.toNat, 13), (p.toNat, 5), (w.toNat, 3), (t.toNat, 0)]
  | .vclz d a z p w t => enc 0xC4000000 [(d.toNat, 20), (a.toNat, 14), (z.toNat, 13), (p.toNat, 5), (w.toNat, 3), (t.toNat, 0)]
  | .sexp2 d a p w t => enc 0x0 [(d.toNat, 20), (a.toNat, 14), (p.toNat, 5), (w.toNat, 3), (t.toNat, 0)]
  | .slog2 d a p w t => enc 0x4000000 [(d.toNat, 20), (a.toNat, 14), (p.toNat, 5), (w.toNat, 3), (t.toNat, 0)]
  | .srcp d a p w t => enc 0x8000000 [(d.toNat, 20), (a.toNat, 14), (p.toNat, 5), (w.toNat, 3), (t.toNat, 0)]
  | .srsq d a p w t => enc 0xC000000 [(d.toNat, 20), (a.toNat, 14), (p.toNat, 5), (w.toNat, 3), (t.toNat, 0)]
  | .ssqrt d a p w t => enc 0x10000000 [(d.toNat, 20), (a.toNat, 14), (p.toNat, 5), (w.toNat, 3), (t.toNat, 0)]
  | .rng128 d a b p w t => enc 0x14000000 [(d.toNat, 20), (a.toNat, 14), (b.toNat, 8), (p.toNat, 5), (w.toNat, 3), (t.toNat, 0)]
  | .scrc d a b p w t => enc 0x18000000 [(d.toNat, 20), (a.toNat, 14), (b.toNat, 8), (p.toNat, 5), (w.toNat, 3), (t.toNat, 0)]
  | .sdiv d a b p w t => enc 0x1C000000 [(d.toNat, 20), (a.toNat, 14), (b.toNat, 8), (p.toNat, 5), (w.toNat, 3), (t.toNat, 0)]
  | .tld t r a b e => enc 0x0 [(t.toNat, 22), (r.toNat, 21), (a.toNat, 15), (b.toNat, 9), (e.toNat, 7)]
  | .tst t r a b e => enc 0x4000000 [(t.toNat, 22), (r.toNat, 21), (a.toNat, 15), (b.toNat, 9), (e.toNat, 7)]
  | .tzero d => enc 0x8000000 [(d.toNat, 22)]
  | .tgetr a s i => enc 0xC000000 [(a.toNat, 18), (s.toNat, 12), (i.toNat, 4)]
  | .tsetr d s i => enc 0x10000000 [(d.toNat, 22), (s.toNat, 12), (i.toNat, 4)]
  | .mlds a s o p b => enc 0x14000000 [(a.toNat, 18), (s.toNat, 12), (o.toNat, 8), (p.toNat, 5), (b.toNat, 4)]
  | .mswap => enc 0x18000000 []
  | .mma d a s o w b c q => enc 0x1C000000 [(d.toNat, 22), (a.toNat, 18), (s.toNat, 12), (o.toNat, 8), (w.toNat, 5), (b.toNat, 4), (c.toNat, 3), (q.toNat, 0)]
  | .sld s w n => enc 0x20000000 [(s.toNat, 12), (w.toNat, 5), (n.toNat, 3)]
  | .tcvt d a s o x p y => enc 0x24000000 [(d.toNat, 22), (a.toNat, 18), (s.toNat, 12), (o.toNat, 8), (x.toNat, 4), (p.toNat, 2), (y.toNat, 1)]
  | .tadd d a o => enc 0x28000000 [(d.toNat, 22), (a.toNat, 18), (o.toNat, 8)]
  | .cpy t a b c => enc 0x0 [(t.toNat, 20), (a.toNat, 14), (b.toNat, 8), (c.toNat, 2)]
  | .twany a => enc 0x4000000 [(a.toNat, 14)]
  | .twall a => enc 0x8000000 [(a.toNat, 14)]
  | .tffr d a c => enc 0xC000000 [(d.toNat, 20), (a.toNat, 14), (c.toNat, 0)]
  | .tclr a => enc 0x10000000 [(a.toNat, 14)]
  | .tq t a b e n => enc 0x14000000 [(t.toNat, 20), (a.toNat, 14), (b.toNat, 8), (e.toNat, 1), (n.toNat, 0)]
  | .tqp d a => enc 0x18000000 [(d.toNat, 20), (a.toNat, 14)]
  | .tbldef t a => enc 0x1C000000 [(t.toNat, 20), (a.toNat, 14)]
  | .tbldefDrop t a => enc 0x1C000001 [(t.toNat, 20), (a.toNat, 14)]
  | .trepl t a => enc 0x20000000 [(t.toNat, 20), (a.toNat, 14)]
  | .play p a b => enc 0x24000000 [(p.toNat, 20), (a.toNat, 14), (b.toNat, 8)]
  | .playp d a => enc 0x28000000 [(d.toNat, 20), (a.toNat, 14)]
  | .pbset t a => enc 0x2C000000 [(t.toNat, 20), (a.toNat, 14)]
  | .rset t a => enc 0x30000000 [(t.toNat, 20), (a.toNat, 14)]
  | .rsetDrop t a => enc 0x30000001 [(t.toNat, 20), (a.toNat, 14)]
  | .rins t a b => enc 0x34000000 [(t.toNat, 20), (a.toNat, 14), (b.toNat, 8)]
  | .rdel t a b => enc 0x38000000 [(t.toNat, 20), (a.toNat, 14), (b.toNat, 8)]
  | .rage t a b => enc 0x3C000000 [(t.toNat, 20), (a.toNat, 14), (b.toNat, 8)]
  | .rsel n a b f k => enc 0x40000000 [(n.toNat, 20), (a.toNat, 14), (b.toNat, 8), (f.toNat, 7), (k.toNat, 0)]
  | .rselInfo a => enc 0x40800000 [(a.toNat, 14)]
  | .rselp d a => enc 0x44000000 [(d.toNat, 20), (a.toNat, 14)]
  | .palloc d a b => enc 0x48000000 [(d.toNat, 20), (a.toNat, 14), (b.toNat, 8)]
  | .pfree t a b => enc 0x4C000000 [(t.toNat, 20), (a.toNat, 14), (b.toNat, 8)]
  | .pseal t a b => enc 0x50000000 [(t.toNat, 20), (a.toNat, 14), (b.toNat, 8)]
  | .pattr t a k => enc 0x54000000 [(t.toNat, 20), (a.toNat, 14), (k.toNat, 0)]
  | .binit t a c => enc 0x58000000 [(t.toNat, 20), (a.toNat, 14), (c.toNat, 0)]
  | .binitFree t c => enc 0x58000100 [(t.toNat, 20), (c.toNat, 0)]
  | .barr d g c => enc 0x5C000000 [(d.toNat, 20), (g.toNat, 8), (c.toNat, 0)]
  | .bwait a g c => enc 0x60000000 [(a.toNat, 14), (g.toNat, 8), (c.toNat, 0)]
  | .wwatch k a b => enc 0x64000000 [(k.toNat, 20), (a.toNat, 14), (b.toNat, 8)]
  | .wwait d a => enc 0x68000000 [(d.toNat, 20), (a.toNat, 14)]
  | .tspawn t a b q => enc 0x6C000000 [(t.toNat, 20), (a.toNat, 14), (b.toNat, 8), (q.toNat, 0)]
  | .coll t a b c e z o => enc 0x70000000 [(t.toNat, 20), (a.toNat, 14), (b.toNat, 8), (c.toNat, 6), (e.toNat, 5), (z.toNat, 3), (o.toNat, 0)]
  | _ => 0

/-- The first opcode space, in slot order, in which a word is an instruction whose reserved and MBZ bits are clear. The
table's words of different slots share their bits, and a word alone does not name its slot (assumption 2). -/
def spaceOf (w : Nat) : List Space → Option (Space × Instr)
  | [] => none
  | sp :: rest =>
    match decodeSpace sp w with
    | .word i false => some (sp, i)
    | _ => spaceOf w rest

def allSpaces : List Space := [.scl, .adr, .idx, .vec, .mtx, .sfu, .eng]

/-- The instruction the decoder reads from a 32-bit slot word given without its slot. -/
def decodeTableWord (nbits w : Nat) : Option Instr :=
  if nbits ≤ 32 ∧ w < 2 ^ 32 then (spaceOf w allSpaces).map (·.2) else none

end Sys2Proof
end

