-- ==== Sys2Proof/Config.lean ====
section
/-!
DEFINITION. What the spec leaves open, as constants without a body: nothing in Lean can evaluate them, so a theorem
holds whatever they are. Each is applied to a plain counter of the state, or to the operands it depends on.
-/
namespace Sys2Proof.Config

/-- Extra logical time an access or event may add to a context's LTIME: R230 fixes only bounds (assumption 3). -/
opaque freeTick : Nat → Nat

/-- The TIME field of an event record: microseconds since Lemant reset (Table 21-2, assumption 4). -/
opaque freeTime : Nat → BitVec 40

/-- The packing of DETAIL by KIND, which Table 21-2 names and does not lay out (assumption 4). -/
opaque detailBits : Nat → List Nat → BitVec 128

/-- The bytes of a save area whose place within their field Tables 18-9 and 18-10 do not give (assumption 28). -/
opaque saveByte : Nat → Nat → BitVec 8

end Sys2Proof.Config
end

