-- ==== Sys2Proof/Machine/Store.lean ====
section
/-!
DEFINITION. Finite maps by number, in one canonical form (keys strictly rising), and byte memories: a list of
(address, byte) pairs with rising addresses in which no entry equals what an unlisted address reads as.
-/
namespace Sys2Proof.Machine

/-- A finite map from numbers, kept in rising order of its keys. -/
abbrev SMap (α : Type) := List (Nat × α)

def SMap.get? {α : Type} (m : SMap α) (k : Nat) : Option α := (m.find? (fun e => e.1 == k)).map (·.2)

def SMap.getD {α : Type} (m : SMap α) (k : Nat) (d : α) : α := (SMap.get? m k).getD d

def SMap.set {α : Type} (m : SMap α) (k : Nat) (v : α) : SMap α :=
  m.filter (fun e => decide (e.1 < k)) ++ (k, v) :: m.filter (fun e => decide (k < e.1))

def SMap.erase {α : Type} (m : SMap α) (k : Nat) : SMap α := m.filter (fun e => e.1 != k)

/-- Changes the value at a key that is present. -/
def SMap.modify {α : Type} (m : SMap α) (k : Nat) (f : α → α) : SMap α :=
  m.map (fun e => if e.1 == k then (e.1, f e.2) else e)

/-- What a byte reads as when the list does not name its address: 0 (assumption 1). -/
def unlisted : Byte := 0

/-- A byte memory: addresses strictly rising, no entry equal to `unlisted`. -/
abbrev Mem := List (Nat × Byte)

/-- The canonical form of a memory. -/
def Mem.wf : Mem → Bool
  | [] => true
  | [e] => e.2 != unlisted
  | e :: f :: rest => e.2 != unlisted && decide (e.1 < f.1) && Mem.wf (f :: rest)

def Mem.read (m : Mem) (a : Nat) : Byte := SMap.getD m a unlisted

/-- The listed entries of the bytes `bs` laid from `a` upward. -/
def Mem.entries : Nat → List Byte → Mem
  | _, [] => []
  | a, b :: bs => if b == unlisted then Mem.entries (a + 1) bs else (a, b) :: Mem.entries (a + 1) bs

/-- Writes the bytes `bs` from address `a` upward. -/
def Mem.write (m : Mem) (a : Nat) (bs : List Byte) : Mem :=
  m.filter (fun e => decide (e.1 < a)) ++ Mem.entries a bs ++ m.filter (fun e => decide (a + bs.length ≤ e.1))

/-- Makes n bytes from `a` read as unlisted. -/
def Mem.clear (m : Mem) (a n : Nat) : Mem := m.filter (fun e => decide (e.1 < a) || decide (a + n ≤ e.1))

/-- The n bytes from `a` upward. -/
def Mem.bytes (m : Mem) (a : Nat) : Nat → List Byte
  | 0 => []
  | n + 1 => Mem.read m a :: Mem.bytes m (a + 1) n

/-- n bytes from address a of a memory whose listed addresses are a or above. -/
def rangeFrom : Mem → Nat → Nat → List Byte
  | _, _, 0 => []
  | [], a, n + 1 => unlisted :: rangeFrom [] (a + 1) n
  | (k, b) :: rest, a, n + 1 =>
    if k == a then b :: rangeFrom rest (a + 1) n else unlisted :: rangeFrom ((k, b) :: rest) (a + 1) n

/-- n bytes from address a, in one pass. -/
def Mem.range (m : Mem) (a n : Nat) : List Byte := rangeFrom (m.filter fun e => decide (a ≤ e.1)) a n

/-- A list cut into n groups of k. -/
def groupsOf {α : Type} (k : Nat) : Nat → List α → List (List α)
  | 0, _ => []
  | n + 1, xs => xs.take k :: groupsOf k n (xs.drop k)

/-- The bytes of a list as one little-endian number (R4). -/
def leNat : List Byte → Nat
  | [] => 0
  | b :: bs => b.toNat + 256 * leNat bs

/-- The low n bytes of a number, little-endian (R4). -/
def leBytes : Nat → Nat → List Byte
  | 0, _ => []
  | n + 1, x => BitVec.ofNat 8 x :: leBytes n (x / 256)

/-- n bytes from `a` as one little-endian value. -/
def Mem.le (m : Mem) (a n : Nat) : Nat := leNat (Mem.bytes m a n)

end Sys2Proof.Machine
end

