-- ==== Sys2Proof/Machine/Cipher.lean ====
section
/-!
DEFINITION. The two standard functions that the spec names: SHA-384 of a list of bytes (R420) and AES-256-XTS of a data unit
of 256 bytes (R251), as FIPS 180-4, FIPS 197 and IEEE 1619 define them.
-/
namespace Sys2Proof.Machine

/-! ### SHA-384 -/

/-- A 64-bit word turned right. -/
def turned (k x : Nat) : Nat := x / 2 ^ k + x % 2 ^ k * 2 ^ (64 - k)

/-- The exclusive or of a word turned right by each of some amounts. -/
def turnsOf (ks : List Nat) (x : Nat) : Nat := (ks.map fun k => turned k x).foldl Nat.xor 0

/-- The greatest number of n bits, above those chosen in x, whose k-th power does not exceed y: a root, bit by bit. -/
def rootBits (k y : Nat) : Nat → Nat → Nat
  | 0, x => x
  | n + 1, x => rootBits k y n (if (x + 2 ^ n) ^ k ≤ y then x + 2 ^ n else x)

/-- The first 64 bits of the fraction of the k-th root of a number below 512. -/
def rootFraction (k x : Nat) : Nat := rootBits k (x * 2 ^ (64 * k)) 69 0 % 2 ^ 64

/-- The primes below 410: the first eighty. -/
def shaPrimes : List Nat := (List.range 410).filter fun x => decide (2 ≤ x) && (List.range x).all fun d => d < 2 || x % d != 0

/-- The round constants: the cube roots of the first eighty primes (FIPS 180-4, 4.2.3). -/
def shaRounds : List Nat := shaPrimes.map (rootFraction 3)

/-- The first digest words: the square roots of the ninth to the sixteenth prime (FIPS 180-4, 5.3.4). -/
def shaStart : List Nat := ((shaPrimes.drop 8).take 8).map (rootFraction 2)

/-- Extends a message schedule, latest word first. -/
def shaSchedule : Nat → List Nat → List Nat
  | 0, ws => ws
  | n + 1, ws =>
    let near := ws.getD 1 0
    let far := ws.getD 14 0
    let sum := Nat.xor (turnsOf [1, 8] far) (far / 2 ^ 7) + Nat.xor (turnsOf [19, 61] near) (near / 2 ^ 6)
    shaSchedule n ((sum + ws.getD 6 0 + ws.getD 15 0) % 2 ^ 64 :: ws)

/-- Each bit of x chooses the bit of y or of z. -/
def chosen (x y z : Nat) : Nat := Nat.xor z (Nat.land x (Nat.xor y z))

/-- The bit that most of three words have. -/
def most (x y z : Nat) : Nat := Nat.lor (Nat.land x y) (Nat.land z (Nat.lor x y))

/-- One round on the working words, with the sum of its constant and its schedule word: the fifth word rises, and all move
on behind a new first one. -/
def shaRound (v : List Nat) (kw : Nat) : List Nat :=
  let w := fun (i : Nat) => v.getD i 0
  let x := kw + w 7 + chosen (w 4) (w 5) (w 6) + turnsOf [14, 18, 41] (w 4)
  let y := most (w 0) (w 1) (w 2) + turnsOf [28, 34, 39] (w 0)
  ((x + y) % 2 ^ 64 :: v.take 3) ++ ((w 3 + x) % 2 ^ 64 :: (v.drop 4).take 3)

/-- Bytes as a big-endian number. -/
def beNat (bs : List Byte) : Nat := bs.foldl (fun x b => 256 * x + b.toNat) 0

/-- The digest words after a block of 128 bytes. -/
def shaBlock (h : List Nat) (block : List Byte) : List Nat :=
  let ws := (shaSchedule 64 ((groupsOf 8 16 block).map beNat).reverse).reverse
  let r := (shaRounds.zip ws).foldl (fun v kw => shaRound v (kw.1 + kw.2)) h
  (h.zip r).map fun x => (x.1 + x.2) % 2 ^ 64

/-- The message with its padding. -/
def shaPadded (bs : List Byte) : List Byte :=
  bs ++ 0x80 :: List.replicate ((239 - bs.length % 128) % 128) 0 ++ (leBytes 16 (8 * bs.length)).reverse

/-- The SHA-384 digest of bytes, as a big-endian number. -/
def sha384 (bs : List Byte) : Nat :=
  let m := shaPadded bs
  (((groupsOf 128 (m.length / 128) m).foldl shaBlock shaStart).take 6).foldl (fun x w => 2 ^ 64 * x + w) 0

/-! ### AES-256 -/

def xor3 (a b c : Nat) : Nat := Nat.xor a (Nat.xor b c)

/-- Doubling in the field of the cipher. -/
def aesDouble (x : Nat) : Nat := if x < 128 then 2 * x else Nat.xor (2 * x - 256) 0x1B

/-- The product of two field elements, over n bits of the second. -/
def aesTimes (x : Nat) : Nat → Nat → Nat
  | 0, _ => 0
  | n + 1, y => Nat.xor (if y % 2 == 1 then x else 0) (aesTimes (aesDouble x) n (y / 2))

def aesMul (x y : Nat) : Nat := aesTimes x 8 y

/-- The inverse of a field element, x to the 254th, by six squarings with a product each, and one more squaring. -/
def aesInverse (x : Nat) : Nat :=
  let p := (List.range 6).foldl (fun p _ => aesMul (aesMul p p) x) x
  aesMul p p

/-- A byte turned left. -/
def turned8 (k x : Nat) : Nat := (x * 2 ^ k + x / 2 ^ (8 - k)) % 256

/-- The substitution of a byte and its inverse. -/
def aesSub (x : Nat) : Nat :=
  let y := aesInverse x
  Nat.xor (xor3 y (turned8 1 y) (turned8 2 y)) (xor3 (turned8 3 y) (turned8 4 y) 0x63)

def aesUnsub (x : Nat) : Nat := aesInverse (Nat.xor (xor3 (turned8 1 x) (turned8 3 x) (turned8 6 x)) 0x05)

/-- The exclusive or of two lists of bytes. -/
def xorBytes (a b : List Nat) : List Nat := a.zipWith Nat.xor b

/-- The byte of a block at row r of column c. -/
def aesAt (x : List Nat) (r c : Nat) : Nat := x.getD (4 * (c % 4) + r % 4) 0

/-- A block from its bytes by row and column. -/
def aesBuild (f : Nat → Nat → Nat) : List Nat := (List.range 16).map fun i => f (i % 4) (i / 4)

/-- Row r of a block moves by r columns. -/
def aesShift (x : List Nat) : List Nat := aesBuild fun r c => aesAt x r (c + r)
def aesUnshift (x : List Nat) : List Nat := aesBuild fun r c => aesAt x r (c + 4 - r)

/-- Each column is multiplied by the polynomial with the given coefficients. -/
def aesMix (k0 k1 k2 k3 : Nat) (x : List Nat) : List Nat :=
  aesBuild fun r c => Nat.xor (Nat.xor (aesMul (aesAt x r c) k0) (aesMul (aesAt x (r + 1) c) k1))
    (Nat.xor (aesMul (aesAt x (r + 2) c) k2) (aesMul (aesAt x (r + 3) c) k3))

/-- Extends a key by n words of four bytes, latest first; `i` counts the words. -/
def aesExpand : Nat → Nat → List (List Nat) → List (List Nat)
  | 0, _, ws => ws
  | n + 1, i, ws =>
    let last := ws.headD []
    let t := if i % 8 == 0 then
        xorBytes ((last.drop 1 ++ last.take 1).map aesSub) [(List.range (i / 8 - 1)).foldl (fun r _ => aesDouble r) 1, 0, 0, 0]
      else if i % 8 == 4 then last.map aesSub else last
    aesExpand n (i + 1) (xorBytes (ws.getD 7 []) t :: ws)

/-- The fifteen round keys of a 32-byte key. -/
def aesKeys (key : List Nat) : List (List Nat) :=
  let words := (aesExpand 52 8 ((List.range 8).map fun i => (key.drop (4 * i)).take 4).reverse).reverse
  (List.range 15).map fun r => ((words.drop (4 * r)).take 4).flatten

def aesEncrypt (keys : List (List Nat)) (x : List Nat) : List Nat :=
  let y := ((keys.drop 1).take 13).foldl (fun x k => xorBytes (aesMix 2 3 1 1 (aesShift (x.map aesSub))) k)
    (xorBytes x (keys.getD 0 []))
  xorBytes (aesShift (y.map aesSub)) (keys.getD 14 [])

def aesDecrypt (keys : List (List Nat)) (x : List Nat) : List Nat :=
  let y := ((keys.drop 1).take 13).reverse.foldl
    (fun x k => aesMix 14 11 13 9 (xorBytes ((aesUnshift x).map aesUnsub) k)) (xorBytes x (keys.getD 14 []))
  xorBytes ((aesUnshift y).map aesUnsub) (keys.getD 0 [])

/-! ### XTS over a data unit of 256 bytes (R251) -/

/-- The tweak of the next block. -/
def tweakNext (t : Nat) : Nat := if t < 2 ^ 127 then 2 * t else Nat.xor (2 * t - 2 ^ 128) 0x87

/-- A block of 16 bytes under a tweak. -/
def xtsBlock (f : List Nat → List Nat) (t : Nat) (x : List Byte) : List Byte :=
  let m := (leBytes 16 t).map (·.toNat)
  (xorBytes (f (xorBytes (x.map (·.toNat)) m)) m).map (BitVec.ofNat 8)

/-- Blocks of 16 bytes from a tweak on. -/
def xtsBlocks (f : List Nat → List Nat) : Nat → List (List Byte) → List Byte
  | _, [] => []
  | t, x :: xs => xtsBlock f t x ++ xtsBlocks f (tweakNext t) xs

/-- A data unit under a 64-byte key, whose first half ciphers the data and whose second half the tweak. -/
def xtsUnit (decrypt : Bool) (key unit : Nat) (bs : List Byte) : List Byte :=
  let ks := (leBytes 64 key).map (·.toNat)
  let k1 := aesKeys (ks.take 32)
  let tweak := aesEncrypt (aesKeys (ks.drop 32)) ((leBytes 16 unit).map (·.toNat))
  xtsBlocks (if decrypt then aesDecrypt k1 else aesEncrypt k1) (leNat (tweak.map (BitVec.ofNat 8))) (groupsOf 16 16 bs)

end Sys2Proof.Machine
end

