-- ==== Sys2Proof/Machine/State.lean ====
section
/-!
DEFINITION. The state of the machine as plain data: contexts, cores, memories, queues, engines, registers, links and
the management controller; the state after reset; and the reasons a step can stop.
-/
namespace Sys2Proof.Machine

/-- Who issued an operation: the launch and the instance index within it (R336). It stays the same over pre-emption. -/
structure Who where
  launch : Nat
  inst : Nat
  deriving DecidableEq, Repr

/-! ### The context -/

/-- Table 4-1. -/
inductive CtxState where
  | empty | ready | running | blocked | pageWait | faulted | saved
  deriving DecidableEq, Repr

/-- The STATE codes of Table 4-1. -/
def CtxState.code : CtxState → Nat
  | .empty => 0 | .ready => 1 | .running => 2 | .blocked => 3 | .pageWait => 4 | .faulted => 5 | .saved => 6

/-- One register result, with the register it names (Table 4-4); `slackr` and `pbk` are the CSRs that words write. -/
inductive Write where
  | s (n : Nat) (x : Word)
  | i (n : Nat) (x : Index)
  | v (n : Nat) (x : Vec)
  | a (n : Nat) (x : Acc)
  | p (n : Nat) (x : Pred)
  | slackr (x : Word)
  | pbk (x : Word)
  deriving DecidableEq, Repr

/-- A result that lands (R21): visible to bundles `pos` and later, issued by the bundle at `src`; `bad` marks an
uncorrectable error in it. -/
structure Landing where
  write : Write
  pos : Nat
  src : Nat
  bad : Bool := false
  deriving DecidableEq, Repr

/-- An entry of a load, store-data or result queue (R205). `part` tells the entries of one command apart; `taken` is the
bundle, slot and operand that has popped it provisionally (R87); `bad` is the cause of an uncorrectable error in it. -/
structure Entry where
  pos : Nat
  slot : Nat
  part : Nat
  filled : Bool
  width : Nat
  data : Vec
  status : Word
  time : Nat
  bad : Option Nat
  taken : Option (Nat × Nat × Nat)
  deriving DecidableEq, Repr

/-- A trap with the fields of its record (Table 18-3); `due` is the position before which an asynchronous trap that waits
for a landing is not taken. -/
structure Trap where
  cls : Nat
  cause : Nat
  slot : Nat
  addr : Nat
  aux : Nat
  level : Nat
  code : Nat
  isAsync : Bool
  due : Nat
  deriving DecidableEq, Repr

/-- Why a word of the oldest bundle waits: for pages (the class that a fault would carry, and each page with the first byte
of the access in it), or for `need` free entries of the side log. -/
inductive Wait where
  | page (cls : Nat) (pages : List (Nat × Nat))
  | log (need : Nat)
  deriving DecidableEq, Repr

/-- How far a word has come: dispatched, started with data or acceptance outstanding, executed, or trapped. -/
inductive Progress where
  | queued | started | executed | trapped
  deriving DecidableEq, Repr

/-- A dispatched word: `bad` is the cause of an uncorrectable error in its data, and `refused` lists the pages that could not
be served while it waited, each with its level. -/
structure SlotWord where
  slot : Nat
  raw : Nat
  progress : Progress
  wait : Option Wait
  bad : Option Nat
  refused : List (Nat × Nat) := []
  deriving DecidableEq, Repr

/-- A task record on its way (Table 14-5, or a command of Table 14-3) with what its origin adds: the address space (none
for a ring record until its kernel is known), the spawner's logical time, the service it answers, the graph node it is,
and the launch that a pre-empted task resumes. -/
structure Task where
  id : Nat
  record : Nat
  asid : Option Nat
  time : Nat
  deps : Nat
  service : Option Nat
  node : Option (Nat × Nat)
  resume : Option Nat
  deriving DecidableEq, Repr

/-- A set descriptor as RSET read it (Table 13-2). -/
structure SetDesc where
  asid : Nat
  home : Nat
  id : Nat
  cap : Nat
  sinks : Nat
  recents : Nat
  enc : Bool
  amask : Nat
  amatch : Nat
  spages : Nat
  spill : Nat
  pool : Nat
  deriving DecidableEq, Repr

/-- A collective contribution: the word of Table 16-4 with its operands, and j of R366. -/
structure CollArg where
  op : Nat
  ty : Nat
  tree : Bool
  scope : Nat
  addr : Nat
  count : Nat
  index : Nat
  deriving DecidableEq, Repr

/-- A table query (R297): its word, and once it has arrived (`rows`) the rows still to be activated, the table as it then
stood, and what each index has read, with the cause of an error met there. -/
structure Query where
  desc : Nat
  idx : List Nat
  n16 : Bool
  e16 : Bool
  slot : Nat
  rows : Option (List Nat)
  frame : Nat
  logn : Nat
  width : Nat
  got : List (Nat × Option Nat)
  deriving DecidableEq, Repr

/-- The states of Table 11-8 that outlast a step. -/
inductive PlayState where
  | sent | fetching | ready | parked
  deriving DecidableEq, Repr

/-- Where bytes lie: device physical memory, a core's scratchpad, the LLC scratch partition, behind a link at the window's
own address, the scratchpad of a pre-empted launch's core, by its index relative to the launch, or device physical memory
under the key of a key slot (R251). -/
inductive Place where
  | phys
  | scratch (core : Nat)
  | lscr
  | remote
  | saved (launch rel : Nat)
  | cipher (slot : Nat)
  deriving DecidableEq, Repr

/-- The asynchronous operations of R236, the accesses in flight on links, the work of the matrix unit, and the device's own
work that can wait for a page, each with what it carries. `changed` says that a page which a TBLDEF or RSET names has left the
BANK state since its word executed (R295, R310); an ACT 3 names the node of a graph that ends with it, and whether it fails. -/
inductive OpKind where
  | cpy (dst src len : Nat) (accepted : Bool) (next : Nat)
  | red (op : Nat) (wide : Bool) (place : Place) (addr : Nat) (va : Nat) (operand : Nat)
  | pbset (phys : Option Nat)
  | play (state : PlayState) (num : Nat) (va : Nat) (arg : Nat) (book : Option Nat) (words : List Nat) (slot : Nat)
  | tq (q : Query)
  | tbldef (desc base logn copies : Nat) (wide changed : Bool)
  | tbldefDrop (desc : Nat)
  | trepl (desc : Nat)
  | rset (d : SetDesc) (changed : Bool)
  | rsetDrop (handle : Nat)
  | rins (handle row : Nat)
  | rdel (handle lidx : Nat)
  | rage (handle : Nat) (delta : Int)
  | rsel (handle horizon query : Nat) (filter : Option (Nat × Nat)) (k n slot : Nat)
  | rselInfo (handle slot : Nat)
  | pfree (pool page slot : Nat)
  | pseal (pool page slot : Nat)
  | pattr (va : Nat) (bank : Bool)
  | scrub (pool slot : Nat)
  | resumeAt (ticket : Nat)
  | binit (barrier count : Nat)
  | binitFree (barrier : Nat)
  | barr (barrier : Nat) (group : Bool) (dest land : Nat)
  | coll (arg : CollArg) (got result : Option (List Nat))
  | tspawn (queue : Nat) (handler : Bool) (task : Task)
  | act3 (queue addr home item : Nat) (handler : Bool) (node : Option (Nat × Nat × Bool))
  | upload (queue : Nat) (task : Task)
  | kick (v : Nat)
  | node (graph node : Nat)
  | sysLoad (segs : List (Nat × Nat)) (slot : Nat)
  | sysWrite (segs : List (Nat × List Byte))
  | sysAmo (op : Option Nat) (wide : Bool) (ord : Nat) (va operand expected dest land : Nat)
  | hostWrite (off : Nat) (bytes : List Byte) (after : List Who)
  | mtx (core : Nat) (reads writes : List Nat) (mma mlds : Bool) (windows : Nat)
  | peer (request : PeerRequest)
  deriving DecidableEq, Repr

/-- An operation in flight: its issuer and address space, the bundle that issued it, its tag, its logical time, the page
it waits for, whether a page was refused it and which ones, whether a link or peer has failed it or a page it needs has lost
its attribute, the links among which its lines were divided when it was sent on one (none: not sent), and whether it has
arrived where it acts. -/
structure Op where
  id : Nat
  who : Option Who
  asid : Nat
  pos : Nat
  pc : Nat
  tag : Option Nat
  time : Nat
  wait : Option (Nat × Nat)
  denied : Bool
  failed : Bool
  ports : List Nat
  kind : OpKind
  refused : List Nat := []
  arrived : Bool := false
  deriving DecidableEq, Repr

/-- The kinds of write that R255 logs. -/
inductive StoreKind where
  | store
  | red (op : Nat) (wide : Bool) (operand : Nat)
  deriving DecidableEq, Repr

/-- What a word has done that takes effect at the commit of its bundle (R87). -/
inductive Effect where
  | store (segs : List (Nat × List Byte)) (tile : Bool)
  | red (op : Nat) (wide : Bool) (va operand : Nat)
  | amo (op : Nat) (wide : Bool) (ord va operand dest : Nat)
  | cas (wide : Bool) (ord va expected new dest : Nat)
  | palloc (pool cursor dest : Nat)
  | cmd (tag : Option Nat) (kind : OpKind)
  | barr (barrier : Nat) (group : Bool) (dest : Nat)
  | tclr (mask : Word)
  | wwatch (k start len : Nat)
  | plst (x : Word)
  | fcmd (x : Word)
  | progTrap (code : Nat)
  | done
  deriving DecidableEq, Repr

/-- An MTX word that waits for acceptance, with the operands it has read (R177). -/
inductive MtxWork where
  | tld (tile : Nat) (rows : List (Nat × Nat)) (transposed : Bool) (size : Nat)
  | tst (tile : Nat) (rows : List (Nat × Nat)) (transposed : Bool) (size : Nat)
  | tzero (tile : Nat)
  | tgetr (tile chunk dest : Nat)
  | tsetr (tile chunk : Nat) (x : Vec)
  | mlds (tile ty psw : Nat) (bs : Bool) (pts : Option Nat)
  | mswap
  | mma (dst src ty quarter window : Nat) (acc bs : Bool) (scale : Option Nat)
  | sld (window count addr : Nat)
  | tcvt (dst src dt st part : Nat) (sat : Bool) (scale : Option Nat)
  | tadd (dst src ty : Nat)
  deriving DecidableEq, Repr

/-- A dispatched, uncommitted bundle. -/
structure Bundle where
  pos : Nat
  pc : Nat
  hdr : Nat
  words : List SlotWord
  following : Nat
  target : Option Nat
  effects : List (Nat × Effect)
  mtx : Option MtxWork
  traps : List Trap
  deriving DecidableEq, Repr

/-- What a suspended context's fault record says, how far its delivery has come (0 the record is to be written, 1 the
notice is to be posted, 2 delivered), whether the trap's notice was raised in hardware mode (R424), and the page that the
delivery waits for, or that has been refused it. -/
structure FaultInfo where
  trap : Trap
  pos : Nat
  pc : Nat
  rpc : Nat
  rpos : Nat
  ltime : Nat
  stage : Nat
  norec : Bool
  hw : Bool := true
  wait : Option Nat := none
  refused : Option Nat := none
  deriving DecidableEq, Repr

/-- A tag's outstanding commands (R214), the failure among them and the time that its setting carries (Table 9-4). -/
structure TagState where
  count : Nat
  set : Bool
  err : Bool
  time : Nat
  deriving DecidableEq, Repr

/-- A result that is still to be computed outside the bundle, for the landing condition (R84 a). -/
structure Awaited where
  op : Nat
  pos : Nat
  src : Nat
  deriving DecidableEq, Repr

/-- What a BLOCKED context waits for (Table 4-2): n filled entries of a load queue, a result entry, tags of a mask, engine
commands or REDs of a fence, the flip of a device (with the waiting word) or group barrier from a phase (with the position of
the waiting bundle), a token of selected comparators, or the end of its drain. -/
inductive Block where
  | loadq (q n : Nat)
  | result (q : Nat)
  | tagAny (mask : Word)
  | tagAll (mask : Word)
  | fence (eng red : Bool)
  | barrier (b : Nat) (phase : Bool) (raw pos : Nat)
  | group (phase : Bool) (pos : Nat)
  | wake (mask : Nat)
  | drain
  deriving DecidableEq, Repr

/-- A context: Tables 4-1 to 4-12, with its queues, tags, landing queue and uncommitted bundles. `engTime` and `redTime`
are the greatest times at which its engine commands and its REDs have completed (Table 9-4); `lostWrite` is
the earliest of its writes to windows that have failed (R414); `met` is the position of the bundle whose barrier wait is
over, however the barrier moves on before that bundle dispatches, with the time of the flip that has released it (R374, R375).
`grants` are the tiles that it holds, by a mask; `town` is what CSR TOWN reads, the tiles of its first grant (R80, R394). -/
structure Context where
  who : Who
  state : CtxState
  reason : Nat
  arg : Nat
  block : Option Block
  handler : Bool
  asid : Nat
  s : SMap Word
  i : SMap Index
  v : SMap Vec
  a : SMap Acc
  p : SMap Pred
  land : List Landing
  awaited : List Awaited
  pos : Nat
  pc : Nat
  queues : SMap (List Entry)
  inflight : List Bundle
  fetchWait : Option Nat
  tags : SMap TagState
  slackr : Word
  nbv : Word
  pbk : Word
  ltime : Nat
  engTime : Nat
  redTime : Nat
  town : Word
  grants : Word
  core : Word
  inst : Word
  grpb : Word
  grps : Word
  argp : Word
  fltp : Word
  plst : Word
  pending : List Trap
  brkSkip : Option (Nat × Nat)
  fault : Option FaultInfo
  lostWrite : Option Nat
  badReg : List Nat
  met : Option (Nat × Nat)
  deriving DecidableEq, Repr

/-- A context that holds no instance (R72): everything zero or empty. -/
def Context.empty : Context :=
  { who := { launch := 0, inst := 0 }, state := .empty, reason := 0, arg := 0, block := none, handler := false, asid := 0,
    s := [], i := [], v := [], a := [], p := [], land := [], awaited := [], pos := 0, pc := 0, queues := [],
    inflight := [], fetchWait := none, tags := [], slackr := 0, nbv := 0, pbk := 0, ltime := 0, engTime := 0, redTime := 0, town := 0,
    grants := 0, core := 0, inst := 0, grpb := 0, grps := 0, argp := 0, fltp := 0, plst := 0,
    pending := [], brkSkip := none, fault := none, lostWrite := none, badReg := [], met := none }

/-! ### The core -/

/-- A stationary plane with its attributes (R174). -/
structure Plane where
  data : Mem
  ty : Nat
  psw : Nat
  bs : Bool
  pts : Option Nat
  deriving DecidableEq, Repr

def Plane.zero : Plane := { data := [], ty := 0, psw := 0, bs := false, pts := none }

/-- A wake comparator (Table 17-4): its owner and the byte range of the scratchpad it watches while armed. -/
structure Comparator where
  owner : Who
  armed : Bool
  start : Nat
  len : Nat
  deriving DecidableEq, Repr

/-- A wake token (R378). -/
structure Token where
  comp : Nat
  owner : Who
  hits : Nat
  coal : Bool
  off : Nat
  time : Nat
  taken : Option (Nat × Nat)
  deriving DecidableEq, Repr

/-- A side-log entry (R255). -/
structure LogEntry where
  who : Who
  asid : Nat
  page : Nat
  pos : Nat
  pc : Nat
  kind : StoreKind
  segs : List (Nat × List Byte)
  time : Nat
  deriving DecidableEq, Repr

/-- What the contexts of a core share (Table 1-1); `last` is the context that last left RUNNING (R92), `badMtx` names what
holds an uncorrectable error: tiles from 0, the planes 16 and 17, the windows of scale memory from 32. -/
structure Core where
  tiles : SMap Mem
  active : Plane
  shadow : Plane
  scale : Mem
  scratch : Mem
  comps : SMap Comparator
  tokens : List Token
  log : List LogEntry
  last : Nat
  badMtx : List Nat
  deriving DecidableEq, Repr

def Core.zero : Core :=
  { tiles := [], active := Plane.zero, shadow := Plane.zero, scale := [], scratch := [], comps := [], tokens := [],
    log := [], last := 3, badMtx := [] }

/-! ### Kernels, launches, queues, graphs -/

/-- The kernel states of Table 14-2. RUNNING is RESIDENT with a live launch. -/
inductive KState where
  | loading | resident | unloading
  deriving DecidableEq, Repr

/-- A kernel-table entry that is not ABSENT (R327): the captured header and code segment, the live launches, and the command
that waits on it (the LOAD while loading, the UNLOAD while unloading) as its item number, queue, completion offset and TASKID.
-/
structure Kernel where
  state : KState
  asid : Nat
  base : Nat
  hdr : Nat
  code : Mem
  captured : Bool
  live : Nat
  item : Nat
  queue : Nat
  off : Nat
  taskid : Nat
  wait : Option (Nat × Nat)
  denied : List Nat
  deriving DecidableEq, Repr

/-- A barrier (R368): state 0 FREE, 1 ARMED, 2 COMPLETE; `time` is the greatest LTIME among the arrivals of the present
phase, `flipTime` that of the last flip. -/
structure Barrier where
  state : Nat
  asid : Nat
  count : Nat
  arrived : Nat
  ph : Bool
  time : Nat
  flipTime : Nat
  deriving DecidableEq, Repr

def Barrier.free : Barrier := { state := 0, asid := 0, count := 0, arrived := 0, ph := false, time := 0, flipTime := 0 }

/-- A live launch (R332 to R336, R361, R390). `ended` lists the instances that have become EMPTY; `saved` holds the
contexts of a pre-empted launch by instance and `savedCores` what its cores held, by core index relative to the origin. -/
structure Launch where
  task : Task
  kernel : Nat
  asid : Nat
  queue : Nat
  handler : Bool
  c : Nat
  lw : Nat
  lh : Nat
  gw : Nat
  gh : Nat
  x0 : Nat
  y0 : Nat
  ox : Nat
  oy : Nat
  ended : List Nat
  faulted : Bool
  preempted : Bool
  saved : SMap Context
  savedCores : SMap Core
  area : Nat
  areaLen : Nat
  groups : SMap Barrier
  colls : SMap Nat
  time : Nat
  deriving DecidableEq, Repr

/-- The states of a queue that change by events alone; an enabled one is IDLE, ACTIVE or BLOCKED by its run list (R347). -/
inductive QState where
  | disabled | enabled | error | drained
  deriving DecidableEq, Repr

/-- A queue (Tables 15-2 to 15-5, 19-2, 19-3) with its task list (R346), its credits (R356), the items it has dispatched that
have not completed, the last item dispatched, and the item and position for which it has pre-empted launches (R351). -/
structure Queue where
  base : Nat
  sizem1 : Nat
  prio : Nat
  fix : Nat
  handler : Bool
  ord : Bool
  pre : Bool
  drain : Bool
  state : QState
  reason : Nat
  head : Nat
  tail : Nat
  cursor : Nat
  eprio : Nat
  run : List Task
  pool : List Task
  credits : SMap Nat
  outstanding : List Nat
  lastItem : Option Nat
  fixb : Nat
  fixcap : Nat
  fixnext : Nat
  deriving DecidableEq, Repr

def Queue.zero : Queue :=
  { base := 0, sizem1 := 0, prio := 0, fix := 0, handler := false, ord := false, pre := false, drain := false,
    state := .disabled, reason := 0, head := 0, tail := 0, cursor := 0, eprio := 0, run := [], pool := [], credits := [],
    outstanding := [], lastItem := none, fixb := 0, fixcap := 0, fixnext := 0 }

/-- The cores of the first candidate of a queue's head that may pre-empt, kept for it until it is placed (R351). -/
structure Claim where
  queue : Nat
  item : Nat
  cores : List Nat
  deriving DecidableEq, Repr

/-- A node of a graph (R339): its 64-byte record, the predecessors still to complete, the item by which its queue knows it,
and where it stands: 0 not ready,
1 entered, 2 dispatched, 3 complete, 4 failed, 5 and 6 ended on the copy engine without and with TERR. -/
structure Node where
  record : Nat
  preds : Nat
  status : Nat
  item : Nat
  deriving DecidableEq, Repr

/-- The states of Table 14-12. -/
inductive GState where
  | uploaded | armed | running | complete | faulted
  deriving DecidableEq, Repr

structure Graph where
  state : GState
  asid : Nat
  queue : Nat
  off : Nat
  taskid : Nat
  nodes : SMap Node
  edges : List (Nat × Nat)
  failed : Option Nat
  reported : Bool
  deriving DecidableEq, Repr

/-! ### Engines -/

/-- A registry entry (R292); `turn` is the instance that the next query of a READY table activates (R290). -/
structure Table where
  asid : Nat
  desc : Nat
  base : Nat
  logn : Nat
  wide : Bool
  frames : List Nat
  ready : Bool
  turn : Nat := 0
  deriving DecidableEq, Repr

/-- A row (Table 13-1); `writing` is set while its spill write is in flight (R322), and `place` is the spill page that the
host has named for it (Table 21-8). -/
structure Row where
  sig : Nat
  lidx : Nat
  handle : Nat
  attr : Nat
  age : Nat
  pin : Bool
  spilled : Bool
  writing : Bool
  place : Option Nat := none
  deriving DecidableEq, Repr

/-- A LIVE set (R302, R303, R315), with the greatest time of the operations performed on it (Table 9-4). -/
structure RSet where
  desc : SetDesc
  rows : List Row
  fails : Nat
  lastCode : Nat
  lastIdx : Nat
  time : Nat := 0
  deriving DecidableEq, Repr

/-- A validated play in a slice's cache, by the physical address of its image (R267). -/
structure Cached where
  slice : Nat
  book : Nat
  num : Nat
  words : List Nat
  deriving DecidableEq, Repr

/-- A page that is FAULTING (`stage` 0) or whose replay waits for the host's answer (`stage` 1), R253, R254, R426. -/
structure Faulting where
  asid : Nat
  page : Nat
  stage : Nat
  deriving DecidableEq, Repr

/-- A page that is COLLAPSING (R256): the leaf's address, the pages it covers and the dies that have acknowledged. -/
structure Collapse where
  asid : Nat
  page : Nat
  count : Nat
  pte : Nat
  acks : List Nat
  stage : Nat
  deriving DecidableEq, Repr

/-- An outstanding service request (R425, R426): its function, the mode it was raised in, the SEQ it carries (none while
it waits for room), what it serves and the answer once given (verdict, reason, argument). -/
structure Service where
  id : Nat
  func : Nat
  hw : Bool
  asid : Nat
  addr : Nat
  aux : Nat
  seq : Option Nat
  op : Option Nat
  answer : Option (Nat × Nat × Nat)
  deriving DecidableEq, Repr

/-! ### Links and management -/

/-- The states of Table 20-2. -/
inductive LState where
  | down | training | up | degraded | fenced
  deriving DecidableEq, Repr

def LState.code : LState → Nat
  | .down => 0 | .training => 1 | .up => 2 | .degraded => 3 | .fenced => 4

/-- A link (Table 20-3): its registers, how often the next flit expected has failed, the device's own retraining count, the
mode in which its fence was raised (R424), the sequence number of the next flit expected and of the next one sent, the flits
kept for replay, the number from which the partner has been asked to replay, the flits on their way to the partner, and the
flit from which the partner has last asked for a replay, with how often in succession (R405). -/
structure Link where
  state : LState
  allowdeg : Bool
  en : Bool
  fences : Nat
  fcause : Nat
  lanes : Nat
  replays : Nat
  feccor : Nat
  successive : Nat
  retrains : Nat
  hw : Bool
  expects : Nat
  sends : Nat
  retry : List Flit
  asks : Option Nat
  line : List Flit := []
  asked : Option (Nat × Nat) := none
  deriving DecidableEq, Repr

def Link.zero : Link :=
  { state := .down, allowdeg := true, en := false, fences := 0, fcause := 0, lanes := 0, replays := 0, feccor := 0,
    successive := 0, retrains := 0, hw := true, expects := 0, sends := 0, retry := [], asks := none }

/-- An event record (Table 21-2). -/
structure EventRecord where
  kind : Nat
  src : Nat
  addr : Nat
  detail : BitVec 128
  time : BitVec 40
  deriving DecidableEq, Repr

/-- The power states of Table 21-3. -/
inductive Power where
  | normal | capped | hot | trip
  deriving DecidableEq, Repr

/-- The management controller (R418 to R423). `pending` marks the inactive slot; `confirmed` is false from a start of a pending
slot until that firmware confirms itself; `revert` asks the next reset for the other slot. `fused` and `fusedKey` are the fused
counter and the hash of the fused key; `sram` is its own memory; `keys` are the loaded key slots (R421). -/
structure Lemant where
  log : List EventRecord
  readOut : List EventRecord
  active : Bool
  slotA : Option FirmwareImage
  slotB : Option FirmwareImage
  pending : Bool
  confirmed : Bool
  revert : Bool
  restarting : Bool
  fused : Nat
  fusedKey : Nat
  sram : Mem
  keys : SMap Nat
  power : Power
  limit : Nat
  sample : Option Sample
  deriving DecidableEq, Repr

/-- A byte that holds an uncorrectable error (R385), with the cause its consumer takes. -/
structure Upset where
  place : Place
  addr : Nat
  cause : Nat
  deriving DecidableEq, Repr

/-- A 64-byte sector in a core's L1 (R228): owned, with the bytes written in it, or a read copy; the logical times are the
write time of its value and the end of its lease. `outdated` says that a byte of a read copy has been written since. -/
structure Sector where
  owned : Bool
  dirty : List Nat
  written : Nat
  lease : Nat
  outdated : Bool := false
  deriving DecidableEq, Repr

/-- The word that is executing: a context's ticket (core index · 4 + hardware context), the position of its bundle and
its slot. -/
structure Focus where
  ticket : Nat
  pos : Nat
  slot : Nat
  deriving DecidableEq, Repr

/-! ### The device -/

/-- The whole machine. `agenda` is the model's own field: the device's schedule, the next moves of its agents. `l1` holds the
sectors of every core's L1 by `sectorKey`; `picks` the context that each idle core has selected (R92); `mtxOrder` the
contexts whose matrix word can be accepted, and `readyPlays` the plays that are READY, in the order in which they became so
(R177, R279); `claims` stand in the order in which they were made (R351); `fabLost` the .fab collectives of a TASKID, as a
range of j, that have lost a link or a member. -/
structure State where
  agenda : List Move
  focus : Focus
  ctxs : SMap Context
  cores : SMap Core
  mem : Mem
  lscr : Mem
  remote : Mem
  upsets : List Upset
  lines : SMap (Nat × Nat)
  floors : SMap Nat
  floor : Nat
  l1 : SMap Sector
  picks : SMap Nat
  mtxOrder : List Nat
  readyPlays : List Nat
  ops : List Op
  nextId : Nat
  astb : Word
  lscrReg : Word
  modesel : Word
  kick : Word
  kstat : Word
  unmap : Word
  ftriage : Word
  fcmd : Word
  saveb : Word
  savel : Word
  fabric : Word
  expb : Word
  expl : Word
  csets : SMap Word
  routes : SMap Word
  svcr : Word
  svcdone : Word
  svcCount : Nat
  svcCounts : SMap Nat
  services : List Service
  faulting : List Faulting
  collapsing : List Collapse
  freeing : List (Nat × Who × Nat)
  kernels : SMap Kernel
  launches : SMap Launch
  queues : SMap Queue
  claims : List Claim
  lastQueue : SMap Nat
  graphs : SMap Graph
  barriers : SMap Barrier
  tables : List Table
  sets : List RSet
  plays : List Cached
  fabArrivals : List (Nat × FabArrival)
  fabLost : List (Nat × Nat × Nat)
  links : SMap Link
  lemant : Lemant
  freeIx : Nat
  deriving DecidableEq, Repr

/-- The management controller after its own reset and device reset. -/
def Lemant.zero : Lemant :=
  { log := [], readOut := [], active := false, slotA := none, slotB := none, pending := false, confirmed := true,
    revert := false, restarting := false, fused := 0, fusedKey := 0, sram := [], keys := [], power := .normal, limit := 6600, sample := none }

/-- The machine right after device reset: every context EMPTY, every kernel ABSENT, every queue DISABLED, every device
barrier FREE, every link DOWN, MODESEL 0x3FF, and every other register zero. -/
def State.reset : State :=
  { agenda := [], focus := { ticket := 0, pos := 0, slot := 0 }, ctxs := [], cores := [], mem := [], lscr := [],
    remote := [], upsets := [], lines := [], floors := [], floor := 0, l1 := [], picks := [],
    mtxOrder := [], readyPlays := [], ops := [], nextId := 0, astb := 0, lscrReg := 0,
    modesel := 0x3FF, kick := 0, kstat := 0, unmap := 0, ftriage := 0, fcmd := 0, saveb := 0, savel := 0, fabric := 0,
    expb := 0, expl := 0, csets := [], routes := [], svcr := 0, svcdone := 0, svcCount := 0, svcCounts := [],
    services := [], faulting := [], collapsing := [], freeing := [], kernels := [], launches := [], queues := [],
    claims := [], lastQueue := [], graphs := [], barriers := [], tables := [], sets := [], plays := [], fabArrivals := [], fabLost := [],
    links := [], lemant := Lemant.zero, freeIx := 0 }

/-- Why a step stops with a fault. -/
inductive Fault where
  /-- A host memory request that reaches beyond the 52-bit physical address space (R223, R409), raised by HOST_MEMORY_REQUEST
  alone: the spec gives no answer for an address that does not exist. Safe: nothing is claimed of what follows. -/
  | physicalRange
  deriving DecidableEq, Repr

/-- Why a step is refused. -/
inductive Refusal where
  /-- An instruction without a meaning yet, raised by the arms of `exec` alone. Safe: nothing is claimed of it. -/
  | notModelled (mnemonic : String)
  deriving DecidableEq, Repr

end Sys2Proof.Machine
end

