-- ==== Sys2Proof/Machine/Ops.lean ====
section
/-!
DEFINITION. The named operations over registers, queues, tags and memory, the table walk, the management controller's event
log, taking a trap as one shared operation, and the return from one.
-/
namespace Sys2Proof.Machine

/-! ### Contexts and cores -/

def State.ctx (s : State) (t : Nat) : Context := SMap.getD s.ctxs t Context.empty

def State.setCtx (s : State) (t : Nat) (c : Context) : State := { s with ctxs := SMap.set s.ctxs t c }

def State.modCtx (s : State) (t : Nat) (f : Context → Context) : State := s.setCtx t (f (s.ctx t))

def State.core (s : State) (k : Nat) : Core := SMap.getD s.cores k Core.zero

def State.setCore (s : State) (k : Nat) (c : Core) : State := { s with cores := SMap.set s.cores k c }

def State.modCore (s : State) (k : Nat) (f : Core → Core) : State := s.setCore k (f (s.core k))

/-- The context of the executing word. -/
def State.cur (s : State) : Context := s.ctx s.focus.ticket

def State.modCur (s : State) (f : Context → Context) : State := s.modCtx s.focus.ticket f

/-- The core of a ticket (Table 18-3: core index · 4 + hardware context). -/
def coreOf (t : Nat) : Nat := t / 4

/-- The compute die of a core (R8). -/
def dieOf (k : Nat) : Nat := k / 32 / 8 * 2 + k % 32 / 16

/-- The cluster of a core and its position there (R9). -/
def clusterOf (k : Nat) : Nat := k / 32 / 4 * 8 + k % 32 / 4

def clusterPos (k : Nat) : Nat := k / 32 % 4 * 4 + k % 32 % 4

/-- The core at a position of a cluster. -/
def coreAt (cluster p : Nat) : Nat := (cluster / 8 * 4 + p / 4) * 32 + cluster % 8 * 4 + p % 4

/-- The ticket of an instance that is on a core. -/
def State.ticketOf (s : State) (w : Who) : Option Nat :=
  (s.ctxs.find? (fun e => e.2.who == w && e.2.state != .empty)).map (·.1)

/-- Changes the context of an instance, on its core or saved with its launch (R91, R393). -/
def State.modWho (s : State) (w : Who) (f : Context → Context) : State :=
  match s.ticketOf w with
  | some t => s.modCtx t f
  | none => { s with launches := SMap.modify s.launches w.launch fun l => { l with saved := SMap.modify l.saved w.inst f } }

/-- The context of an instance, wherever it is. -/
def State.whoCtx (s : State) (w : Who) : Option Context :=
  match s.ticketOf w with
  | some t => some (s.ctx t)
  | none => (SMap.get? s.launches w.launch).bind fun l => SMap.get? l.saved w.inst

/-- A free value's counter moves on whenever one is drawn. -/
def State.tick (s : State) : State := { s with freeIx := s.freeIx + 1 }

/-! ### Registers -/

/-- Whether landing `b`, which stands later in the list, remains over `a` in one register (R21, R82). -/
def Landing.over (b a : Landing) : Bool := decide (a.pos < b.pos) || (a.pos == b.pos && decide (a.src ≤ b.src))

/-- The landing that remains at bundle m among those that `f` reads. -/
def landed {α : Type} (f : Write → Option α) (m : Nat) : List Landing → Option (Landing × α)
  | [] => none
  | l :: ls =>
    match landed f m ls, f l.write with
    | r, none => r
    | r, some x => if l.pos ≤ m then
        match r with
        | some (b, y) => if b.over l then some (b, y) else some (l, x)
        | none => some (l, x)
      else r

def Write.asS (n : Nat) : Write → Option Word
  | .s k x => if k == n then some x else none
  | _ => none

def Write.asI (n : Nat) : Write → Option Index
  | .i k x => if k == n then some x else none
  | _ => none

def Write.asV (n : Nat) : Write → Option Vec
  | .v k x => if k == n then some x else none
  | _ => none

def Write.asA (n : Nat) : Write → Option Acc
  | .a k x => if k == n then some x else none
  | _ => none

def Write.asP (n : Nat) : Write → Option Pred
  | .p k x => if k == n then some x else none
  | _ => none

def Write.asSlackr : Write → Option Word
  | .slackr x => some x
  | _ => none

def Write.asPbk : Write → Option Word
  | .pbk x => some x
  | _ => none

/-- The value of a register as bundle m reads it (R82). -/
def Context.readS (c : Context) (m n : Nat) : Word :=
  if n == 0 then 0 else ((landed (Write.asS n) m c.land).map (·.2)).getD (SMap.getD c.s n 0)

def Context.readI (c : Context) (m n : Nat) : Index :=
  ((landed (Write.asI n) m c.land).map (·.2)).getD (SMap.getD c.i n 0)

def Context.readV (c : Context) (m n : Nat) : Vec :=
  ((landed (Write.asV n) m c.land).map (·.2)).getD (SMap.getD c.v n 0)

def Context.readA (c : Context) (m n : Nat) : Acc :=
  ((landed (Write.asA n) m c.land).map (·.2)).getD (SMap.getD c.a n 0)

def Context.readP (c : Context) (m n : Nat) : Pred :=
  if n == 0 then BitVec.allOnes 128 else ((landed (Write.asP n) m c.land).map (·.2)).getD (SMap.getD c.p n 0)

def Context.readSlackr (c : Context) (m : Nat) : Word :=
  ((landed Write.asSlackr m c.land).map (·.2)).getD c.slackr

def Context.readPbk (c : Context) (m : Nat) : Word :=
  ((landed Write.asPbk m c.land).map (·.2)).getD c.pbk

/-- The accumulator after every write issued in bundles before m, landed or not (R77). -/
def Context.chainA (c : Context) (m n : Nat) : Acc :=
  ((landed (Write.asA n) (m + 3) (c.land.filter fun l => decide (l.src < m))).map (·.2)).getD (SMap.getD c.a n 0)

/-- The operands of the executing word, read as they stood before its bundle (R59, R97). -/
def State.rs (s : State) (r : BitVec 6) : Word := s.cur.readS s.focus.pos r.toNat
def State.ri (s : State) (r : Nat) : Index := s.cur.readI s.focus.pos r
def State.rp (s : State) (r : Nat) : Pred := s.cur.readP s.focus.pos r

/-- A write to s0 or p0 is discarded (R21). -/
def Write.discarded : Write → Bool
  | .s n _ => n == 0
  | .p n _ => n == 0
  | _ => false

/-- The number under which a register's stored error is kept: s 0, i 64, v 128, a 192, p 208 and up. -/
def Write.code : Write → Option Nat
  | .s n _ => some n
  | .i n _ => some (64 + n)
  | .v n _ => some (128 + n)
  | .a n _ => some (192 + n)
  | .p n _ => some (208 + n)
  | _ => none

/-- Puts a landing into a context. -/
def Context.land1 (c : Context) (l : Landing) : Context :=
  if l.write.discarded then c else { c with land := c.land ++ [l] }

/-- landing(reg, v, n + L) of the executing word (R21, R97). -/
def State.land (s : State) (lat : Nat) (w : Write) : State :=
  s.modCur fun c => c.land1 { write := w, pos := s.focus.pos + lat, src := s.focus.pos }

/-- Stores one landed value in its register; the word just stored carries no error any more. -/
def Context.store1 (c : Context) (w : Write) : Context :=
  let c := match w.code with
    | some k => { c with badReg := c.badReg.filter (fun x => x != k) }
    | none => c
  match w with
  | .s n x => { c with s := SMap.set c.s n x }
  | .i n x => { c with i := SMap.set c.i n x }
  | .v n x => { c with v := SMap.set c.v n x }
  | .a n x => { c with a := SMap.set c.a n x }
  | .p n x => { c with p := SMap.set c.p n x }
  | .slackr x => { c with slackr := x }
  | .pbk x => { c with pbk := x }

/-- Stores a landing, with the error it holds. -/
def Context.storeLanding (c : Context) (l : Landing) : Context :=
  let c := c.store1 l.write
  match l.bad, l.write.code with
  | true, some k => { c with badReg := c.badReg ++ [k] }
  | _, _ => c

/-- Puts a landing into a list in the order in which they remain: by bundle, then by issue. -/
def insertLanding (l : Landing) : List Landing → List Landing
  | [] => [l]
  | x :: xs => if l.over x then x :: insertLanding l xs else l :: x :: xs

/-- Moves every landing at bundle m or earlier, all of whose issuers have committed, into its register. -/
def Context.settle (c : Context) (m : Nat) : Context :=
  let due := (c.land.filter fun l => decide (l.pos ≤ m)).foldl (fun acc l => insertLanding l acc) []
  due.foldl (fun c l => c.storeLanding l) { c with land := c.land.filter fun l => decide (m < l.pos) }

/-! ### Queues (R205 to R207) -/

/-- The numbers of a context's queues: q0–q3, sq0–sq3, table, play, select. -/
def loadQ (n : Nat) : Nat := n
def storeQ (n : Nat) : Nat := 4 + n
def tableQ : Nat := 8
def playQ : Nat := 9
def selectQ : Nat := 10

/-- Table 4-4 and the chapters of the result queues. -/
def queueDepth (q : Nat) : Nat := if q < 8 then 32 else if q == selectQ then 8 else 16

def Context.queue (c : Context) (q : Nat) : List Entry := SMap.getD c.queues q []

def Context.setQueue (c : Context) (q : Nat) (es : List Entry) : Context := { c with queues := SMap.set c.queues q es }

/-- The entries not yet popped. -/
def Context.held (c : Context) (q : Nat) : List Entry := (c.queue q).filter fun e => e.taken.isNone

/-- A reserved entry without data. -/
def Entry.reserved (pos slot part : Nat) : Entry :=
  { pos := pos, slot := slot, part := part, filled := false, width := 0, data := 0, status := 0, time := 0, bad := none,
    taken := none }

def Context.reserve (c : Context) (q pos slot part : Nat) : Context :=
  c.setQueue q (c.queue q ++ [Entry.reserved pos slot part])

/-- Marks the oldest held entry as taken by an operand of a word. -/
def takeFirst (who : Nat × Nat × Nat) : List Entry → List Entry
  | [] => []
  | e :: es => if e.taken.isNone then { e with taken := some who } :: es else e :: takeFirst who es

def Context.pop (c : Context) (q : Nat) (who : Nat × Nat × Nat) : Context := c.setQueue q (takeFirst who (c.queue q))

/-- Fills the entry that a word reserved. -/
def fillEntry (pos slot part : Nat) (f : Entry → Entry) (es : List Entry) : List Entry :=
  es.map fun e => if e.pos == pos && e.slot == slot && e.part == part then f e else e

def Context.fill (c : Context) (q pos slot part : Nat) (f : Entry → Entry) : Context :=
  c.setQueue q (fillEntry pos slot part f (c.queue q))

/-- Fills the entry that the executing word reserved with a datum of a width (R142). -/
def State.push (s : State) (q width : Nat) (x : Vec) : State :=
  s.modCur fun c => c.fill q s.focus.pos s.focus.slot 0 fun e =>
    { e with filled := true, width := width, data := BitVec.ofNat 1024 (x.toNat % 2 ^ width) }

/-- The entry that operand k of the executing word has popped. -/
def State.popped (s : State) (k : Nat) : Option Entry :=
  (s.cur.queues.flatMap (·.2)).find? fun e => e.taken == some (s.focus.pos, s.focus.slot, k)

/-- A vector source: a register, or the entry popped for codes 60 to 63, zero above its width (R54, R142). -/
def State.rv (s : State) (k code : Nat) : Vec :=
  if code < 60 then s.cur.readV s.focus.pos code else ((s.popped k).map (·.data)).getD 0

/-- A whole vector destination: a register, or a push of a store-data queue. -/
def State.vres (s : State) (lat code width : Nat) (x : Vec) : State :=
  if code < 60 then s.land lat (.v code x) else s.push (storeQ (code - 60)) width x

/-! ### Tags (R214) -/

def TagState.idle : TagState := { count := 0, set := false, err := false, time := 0 }

def Context.tag (c : Context) (g : Nat) : TagState := SMap.getD c.tags g TagState.idle

/-- The CSRs TAGS and TERR (Tables 8-7, 8-8). -/
def Context.tagBits (c : Context) (f : TagState → Bool) : Word :=
  BitVec.ofNat 64 ((List.range 64).foldl (fun x g => if f (c.tag g) then x + 2 ^ g else x) 0)

def Context.tagsCsr (c : Context) : Word := c.tagBits (·.set)
def Context.terrCsr (c : Context) : Word := c.tagBits (·.err)

/-- Commit of a command that names the tag. -/
def Context.joinTag (c : Context) (g : Nat) : Context :=
  let t := c.tag g
  { c with tags := SMap.set c.tags g { t with count := t.count + 1, set := false } }

/-- Completion of a command on the tag (Table 8-5), carrying a logical time (Table 9-4). -/
def Context.completeTag (c : Context) (g : Nat) (failed : Bool) (time : Nat) : Context :=
  let t := c.tag g
  let t' : TagState := { count := t.count - 1, set := decide (t.count ≤ 1), err := t.err || failed, time := max t.time time }
  { c with tags := SMap.set c.tags g t' }

/-- TCLR, and TFFR.clr on a SET tag. -/
def Context.clearTag (c : Context) (g : Nat) : Context :=
  let t := c.tag g
  { c with tags := SMap.set c.tags g { t with set := false, err := false } }

def Context.clearTags (c : Context) (mask : Word) : Context :=
  (List.range 64).foldl (fun c g => if mask.getLsbD g then c.clearTag g else c) c

/-! ### Operations in flight -/

def State.opGet (s : State) (id : Nat) : Option Op := s.ops.find? fun o => o.id == id

def State.opSet (s : State) (o : Op) : State := { s with ops := s.ops.map fun x => if x.id == o.id then o else x }

def State.opDrop (s : State) (id : Nat) : State := { s with ops := s.ops.filter fun o => o.id != id }

/-- Starts an operation under a fresh number. -/
def State.opNew (s : State) (o : Op) : State :=
  { s with ops := s.ops ++ [{ o with id := s.nextId }], nextId := s.nextId + 1 }

/-- The completion times that a FENCE covers (Table 9-4). -/
def Context.ended (c : Context) (o : Op) : Context :=
  match o.kind with
  | .red .. => { c with redTime := max c.redTime o.time }
  | _ => { c with engTime := max c.engTime o.time }

/-- The issuer under which an engine works for a node of a graph. -/
def graphWho (g n : Nat) : Who := { launch := 2 ^ 64 + g, inst := n }

/-- A node's work on the copy engine has ended. -/
def State.nodeEnd (s : State) (w : Who) (failed : Bool) : State :=
  { s with graphs := s.graphs.map fun e =>
      if 2 ^ 64 + e.1 == w.launch then
        (e.1, { e.2 with nodes := SMap.modify e.2.nodes w.inst fun n => { n with status := if failed then 6 else 5 } })
      else e }

/-- An operation ends: its tag, if it has one, is completed in its issuer (R214), wherever that is. -/
def State.opEnd (s : State) (o : Op) (failed : Bool) : State :=
  let s : State := { s.opDrop o.id with floor := max s.floor o.time }
  match o.who with
  | none => s
  | some w =>
    if 2 ^ 64 ≤ w.launch then s.nodeEnd w failed
    else s.modWho w fun c =>
      match o.tag with
      | some g => (c.ended o).completeTag g failed o.time
      | none => c.ended o

/-! ### The bundle of the executing word -/

def State.modBundle (s : State) (t pos : Nat) (f : Bundle → Bundle) : State :=
  s.modCtx t fun c => { c with inflight := c.inflight.map fun b => if b.pos == pos then f b else b }

def State.curBundle (s : State) : Option Bundle := s.cur.inflight.find? fun b => b.pos == s.focus.pos

/-- Inserts an effect by slot order (R87). -/
def insertEffect (e : Nat × Effect) : List (Nat × Effect) → List (Nat × Effect)
  | [] => [e]
  | x :: xs => if x.1 ≤ e.1 then x :: insertEffect e xs else e :: x :: xs

/-- An effect that the executing word leaves for the commit of its bundle (R87). -/
def State.effect (s : State) (e : Effect) : State :=
  s.modBundle s.focus.ticket s.focus.pos fun b => { b with effects := insertEffect (s.focus.slot, e) b.effects }

/-- Sets how far a word has come. -/
def Bundle.setWord (b : Bundle) (slot : Nat) (f : SlotWord → SlotWord) : Bundle :=
  { b with words := b.words.map fun w => if w.slot == slot then f w else w }

/-- The raw bits of the executing word, for AUX (Table 18-3). -/
def State.curRaw (s : State) : Nat :=
  match s.curBundle with
  | some b => ((b.words.find? fun w => w.slot == s.focus.slot).map (·.raw)).getD 0
  | none => 0

/-- Whether AUX of a synchronous trap holds the slot word (Table 18-3). -/
def auxIsWord (cls : Nat) : Bool := (2 ≤ cls && cls ≤ 4) || (6 ≤ cls && cls ≤ 10) || cls == 12

/-- A context leaves RUNNING for a wait: its core counts from it (R92). -/
def State.yieldTo (s : State) (t : Nat) (f : Context → Context) : State :=
  let s := if (s.ctx t).state == .running then s.modCore (coreOf t) fun k => { k with last := t % 4 } else s
  s.modCtx t f

/-- A RUNNING context enters PAGE-WAIT for a reason; another state has no such row (Table 4-3). -/
def State.pageWait (s : State) (t reason : Nat) : State :=
  if (s.ctx t).state == .running then
    s.yieldTo t fun c => { c with state := .pageWait, reason := reason, arg := 0 }
  else s

/-- The executing word waits (R73): a RUNNING context yields the core, and the word runs again when released. -/
def State.waitWord (s : State) (w : Wait) (reason : Nat) : State :=
  (s.modBundle s.focus.ticket s.focus.pos fun b =>
    b.setWord s.focus.slot fun x => { x with progress := .queued, wait := some w }).pageWait s.focus.ticket reason

/-- The executing word has started and waits for data or for acceptance. -/
def State.startWord (s : State) : State :=
  s.modBundle s.focus.ticket s.focus.pos fun b =>
    b.setWord s.focus.slot fun w => { w with progress := .started, wait := none, refused := [] }

/-- The executing word has executed (R87), unless it has trapped, waits or has only started. -/
def State.endWord (s : State) : State :=
  s.modBundle s.focus.ticket s.focus.pos fun b =>
    b.setWord s.focus.slot fun w => if w.progress == .queued && w.wait.isNone then { w with progress := .executed } else w

/-! ### Taking a trap and returning from one (R88 to R90, R389) -/

/-- Withdraws what bundles from position n on have done: results, pushes, pops, and freeing marks (R88, R261). -/
def Context.discard (c : Context) (n pc : Nat) : Context :=
  { c with
    land := c.land.filter fun l => decide (l.src < n)
    awaited := c.awaited.filter fun a => decide (a.src < n)
    inflight := c.inflight.filter fun b => decide (b.pos < n)
    queues := c.queues.map fun q => (q.1, (q.2.filter fun e => decide (e.pos < n)).map fun e =>
      match e.taken with
      | some (p, _, _) => if n ≤ p then { e with taken := none } else e
      | none => e)
    pos := n
    pc := pc
    fetchWait := none }

/-- A later token of a comparator coalesces into the newer of its two (R378). -/
def Token.absorb (x y : Token) : Token :=
  { x with hits := min 255 (x.hits + y.hits), coal := true, time := max x.time y.time }

/-- Whether a token of a comparator is in the queue. -/
def Token.queued (comp : Nat) (x : Token) : Bool := x.comp == comp && x.taken.isNone

/-- Coalesces a token into the first of its comparator in a list. -/
def absorbFirst (x : Token) : List Token → List Token
  | [] => []
  | y :: ys => if y.queued x.comp then y.absorb x :: ys else y :: absorbFirst x ys

/-- Puts a token behind others, or into its comparator's newer one where two of them are in the queue (R378). -/
def addToken (ts : List Token) (x : Token) : List Token :=
  if (ts.filter (Token.queued x.comp)).length < 2 then ts ++ [x] else (absorbFirst x ts.reverse).reverse

/-- Puts a token back among those before it; one that a bundle has taken keeps its place. -/
def settleToken (ts : List Token) (x : Token) : List Token := if x.taken.isSome then ts ++ [x] else addToken ts x

/-- Tokens that bundles of a context from position n on had taken return to the queue, which keeps two for a comparator. -/
def returnTokens (t n : Nat) (ts : List Token) : List Token :=
  (ts.map fun x => match x.taken with
    | some (t', p) => if t' == t && decide (n ≤ p) then { x with taken := none } else x
    | none => x).foldl settleToken []

/-- Discards the bundles of a context from position n on, with the loads they have in flight and the marks they made. -/
def State.discard (s : State) (t n pc : Nat) : State :=
  let w := (s.ctx t).who
  let s := s.modCtx t fun c => c.discard n pc
  let s := s.modCore (coreOf t) fun k => { k with tokens := returnTokens t n k.tokens }
  { s with
    freeing := s.freeing.filter fun f => !(f.2.1 == w && decide (n ≤ f.2.2))
    ops := s.ops.filter fun o => !(o.who == some w && decide (n ≤ o.pos)) }

/-- The matrix work of an instance ends: R90 and R91 let it drain, and its results are already in the tiles. -/
def State.drainMtx (s : State) (w : Who) : State :=
  { s with ops := s.ops.filter fun o => match o.kind with
      | .mtx .. => o.who != some w
      | _ => true }

/-- Taking a trap: the context is suspended at position n, whose bundle stands at pc, to resume at rpc and rpos. Bundles
from rpos on are discarded, matrix work drains, results of committed bundles stay in the landing queue, and the record is
left to be written (R88, R90, R382). A core loses its running context (R92). -/
def State.suspend (s : State) (t : Nat) (tr : Trap) (n pc rpos rpc : Nat) : State :=
  let c := s.ctx t
  let s := (s.drainMtx c.who).discard t rpos rpc
  let s := if c.state == .running then s.modCore (coreOf t) fun k => { k with last := t % 4 } else s
  s.modCtx t fun c => { c with
    state := .faulted
    reason := 0
    arg := 0
    block := none
    met := none
    pos := rpos
    pc := rpc
    pending := c.pending.filter (·.isAsync)
    fault := some { trap := tr, pos := n, pc := pc, rpc := rpc, rpos := rpos, ltime := c.ltime, stage := 0, norec := false } }

/-- The return from a trap (R389): the context becomes READY at pc, in the position that the trap left, with its LTIME at
least the handler's. After BREAKPOINT the bundle at the recorded address dispatches once without its BRK word (R126), also
where another trap comes before it has dispatched. -/
def State.resumeAt (s : State) (t pc time : Nat) : State :=
  s.modCtx t fun c =>
    match c.fault with
    | some f => { c with
        state := .ready, reason := 0, arg := 0, block := none, pc := pc, pos := f.rpos, ltime := max c.ltime time, fault := none
        brkSkip := if (f.trap.cls == 14 && pc == f.rpc) || c.brkSkip == some (f.rpos, pc) then some (f.rpos, pc) else none }
    | none => c

/-- The trap of the lowest slot (R60). -/
def lowestTrap : List Trap → Option Trap
  | [] => none
  | t :: ts => match lowestTrap ts with
    | some u => if t.slot ≤ u.slot then some t else some u
    | none => some t

/-! ### Raw memory -/

/-- Where the bytes of a place are kept: the bytes of an ENC page in physical memory (R251). -/
def Place.store : Place → Place
  | .cipher _ => .phys
  | p => p

/-- An address of physical memory, with the key slot under which it is read, or of the scratch partition, as one number, and
back. -/
def Place.code (p : Place) (a : Nat) : Nat :=
  match p with
  | .cipher k => a + 2 ^ 52 * (k + 1)
  | .lscr => a + 2 ^ 52 * 257
  | _ => a

def placeAt (x : Nat) : Place × Nat :=
  if x < 2 ^ 52 then (.phys, x)
  else if x / 2 ^ 52 == 257 then (.lscr, x % 2 ^ 52)
  else (.cipher (x / 2 ^ 52 - 1), x % 2 ^ 52)

/-- The lines of n bytes. -/
def linesOf (pa n : Nat) : List Nat :=
  if n == 0 then [] else (List.range ((pa + n - 1) / 256 - pa / 256 + 1)).map (· + pa / 256)

/-- A data unit of physical memory, deciphered under a key slot; its tweak is its line number (R251). -/
def State.plainUnit (s : State) (slot line : Nat) : List Byte :=
  xtsUnit true (SMap.getD s.lemant.keys slot 0) line (Mem.bytes s.mem (256 * line) 256)

/-- n bytes of physical memory under a key slot. -/
def State.plain (s : State) (slot a n : Nat) : List Byte :=
  (((linesOf a n).flatMap (s.plainUnit slot)).drop (a % 256)).take n

/-- What physical memory holds after bytes are written under a key slot: their data units, enciphered. -/
def State.enciphered (s : State) (slot a : Nat) (bs : List Byte) : Mem :=
  (linesOf a bs.length).foldl (fun m line =>
    let new := Mem.write (Mem.write [] (256 * line) (s.plainUnit slot line)) a bs
    Mem.write m (256 * line) (xtsUnit false (SMap.getD s.lemant.keys slot 0) line (Mem.bytes new (256 * line) 256))) s.mem

/-- n bytes of a place. -/
def State.peek (s : State) (p : Place) (a n : Nat) : List Byte :=
  match p with
  | .phys => Mem.bytes s.mem a n
  | .cipher k => s.plain k a n
  | .scratch k => Mem.bytes (s.core k).scratch a n
  | .lscr => Mem.bytes s.lscr a n
  | .remote => Mem.bytes s.remote a n
  | .saved l k => match SMap.get? s.launches l with
    | some x => Mem.bytes (SMap.getD x.savedCores k Core.zero).scratch a n
    | none => List.replicate n 0

/-- Stores bytes in a place, and nothing else. -/
def State.poke (s : State) (p : Place) (a : Nat) (bs : List Byte) : State :=
  match p with
  | .phys => { s with mem := Mem.write s.mem a bs }
  | .cipher k => { s with mem := s.enciphered k a bs }
  | .scratch k => s.modCore k fun c => { c with scratch := Mem.write c.scratch a bs }
  | .lscr => { s with lscr := Mem.write s.lscr a bs }
  | .remote => { s with remote := Mem.write s.remote a bs }
  | .saved l k => { s with launches := SMap.modify s.launches l fun x =>
      { x with savedCores := SMap.modify x.savedCores k fun c => { c with scratch := Mem.write c.scratch a bs } } }

def overlaps (a n b m : Nat) : Bool := decide (a < b + m) && decide (b < a + n)

/-- A write clears the errors of the bytes it replaces (assumption 7). -/
def State.heal (s : State) (p : Place) (a n : Nat) : State :=
  { s with upsets := s.upsets.filter fun u => !(u.place == p.store && decide (a ≤ u.addr) && decide (u.addr < a + n)) }

/-- A write to an instance page takes a READY table back to DEFINED (Table 12-2). -/
def State.demote (s : State) (a n : Nat) : State :=
  { s with tables := s.tables.map fun t =>
      if t.ready && t.frames.any (fun f => overlaps a n (f * 65536) 65536) then { t with ready := false } else t }

/-- Pushes or coalesces one hit (R378). -/
def pushToken (k : Nat) (w : Who) (off time : Nat) (ts : List Token) : List Token :=
  addToken ts { comp := k, owner := w, hits := 1, coal := false, off := off, time := time, taken := none }

/-- Whether a byte of the range differs between two memories. -/
def changedIn (old new : Mem) (a : Nat) : Nat → Bool
  | 0 => false
  | n + 1 => Mem.read old a != Mem.read new a || changedIn old new (a + 1) n

/-- The parts of the written ranges that lie in a watched range, as (first offset, length). -/
def watched (start len : Nat) (rs : List (Nat × Nat)) : List (Nat × Nat) :=
  (rs.map fun r => (max r.1 start, min (r.1 + r.2) (start + len) - max r.1 start)).filter fun r => decide (0 < r.2)

/-- One write over ranges of a core's scratchpad hits each armed comparator in whose range it changes a byte (R376). -/
def Core.wakeHits (c : Core) (rs : List (Nat × Nat)) (old : Mem) (time : Nat) : Core :=
  c.comps.foldl (fun (d : Core) e =>
    let q := e.2
    let rs := if q.armed then watched q.start q.len rs else []
    if rs.any fun r => changedIn old c.scratch r.1 r.2 then
      { d with tokens := pushToken e.1 q.owner ((rs.map (·.1)).foldl min (q.start + q.len)) time d.tokens }
    else d) c

/-- The places of a list of writes, each once. -/
def placesOf : List (Place × Nat × List Byte) → List Place
  | [] => []
  | w :: ws => if (placesOf ws).contains w.1 then placesOf ws else w.1 :: placesOf ws

/-- The scratchpad of a core, or of a saved core (R393). -/
def State.scratchAt (s : State) : Place → Mem
  | .scratch k => (s.core k).scratch
  | .saved l k => match SMap.get? s.launches l with
    | some x => (SMap.getD x.savedCores k Core.zero).scratch
    | none => []
  | _ => []

/-- The hits of one write over ranges of a place. -/
def State.wakeHits (s : State) (p : Place) (rs : List (Nat × Nat)) (old : Mem) (time : Nat) : State :=
  match p with
  | .scratch k => ({ s with floor := max s.floor time } : State).modCore k fun c => c.wakeHits rs old time
  | .saved l k => { s with
      floor := max s.floor time
      launches := SMap.modify s.launches l fun x =>
        { x with savedCores := SMap.modify x.savedCores k fun c => c.wakeHits rs old time } }
  | _ => s

/-- Puts the parts of a write in their places, in order, and clears the errors of the bytes they replace. -/
def State.put (s : State) (ws : List (Place × Nat × List Byte)) : State :=
  ws.foldl (fun s w => (s.poke w.1 w.2.1 w.2.2).heal w.1 w.2.1 w.2.2.length) s

/-- The tables whose instance pages the parts of a write reach (Table 12-2). -/
def State.demoteAll (s : State) (ws : List (Place × Nat × List Byte)) : State :=
  ws.foldl (fun s w => match w.1.store with
    | .phys => s.demote w.2.1 w.2.2.length
    | _ => s) s

/-- One hit for each comparator in whose range a write that began at `before` has changed a byte (R376). -/
def State.hitAll (s before : State) (ws : List (Place × Nat × List Byte)) (time : Nat) : State :=
  (placesOf ws).foldl (fun s p =>
    s.wakeHits p (ws.filterMap fun w => if w.1 == p then some (w.2.1, w.2.2.length) else none) (before.scratchAt p) time) s

/-- A store, a RED application, a CPY piece or a replay: one write that demotes tables and hits comparators. -/
def State.writeParts (s : State) (ws : List (Place × Nat × List Byte)) (time : Nat) : State :=
  ((s.put ws).demoteAll ws).hitAll s ws time

/-- A write by AMO, CAS or COLL: it hits comparators, and Table 12-2 does not count it. -/
def State.writeAtomic (s : State) (ws : List (Place × Nat × List Byte)) (time : Nat) : State := (s.put ws).hitAll s ws time

/-- A device write to physical memory at an address: page tables, metadata, records (no program's write). -/
def State.writePhys (s : State) (a : Nat) (bs : List Byte) : State := s.put [(.phys, a, bs)]

/-- The cause of an uncorrectable error among n bytes of a place. -/
def State.upsetIn (s : State) (p : Place) (a n : Nat) : Option Upset :=
  s.upsets.find? fun u => u.place == p.store && decide (a ≤ u.addr) && decide (u.addr < a + n)

/-! ### The table walk (R244 to R247) -/

/-- Where a walk ends. -/
inductive Walk where
  | leaf (pte level addr : Nat)
  | awaits
  | free
  | malformed (level : Nat)
  deriving DecidableEq, Repr

def pteV (e : Nat) : Bool := bits e 0 0 == 1
def pteR (e : Nat) : Bool := bits e 1 1 == 1
def pteW (e : Nat) : Bool := bits e 2 2 == 1
def pteX (e : Nat) : Bool := bits e 3 3 == 1
def pteBank (e : Nat) : Bool := bits e 6 6 == 1
def pteEnc (e : Nat) : Bool := bits e 7 7 == 1
def pteRepl (e : Nat) : Bool := bits e 8 8 == 1
def pteKv (e : Nat) : Bool := bits e 9 9 == 1
def pteFrame (e : Nat) : Nat := bits e 51 16

/-- A valid entry with R, W or X is a leaf (R246). -/
def pteLeaf (e : Nat) : Bool := pteR e || pteW e || pteX e

/-- The malformed entries of R247, for a valid entry at a level. -/
def pteMalformed (e level : Nat) : Bool :=
  bits e 15 10 != 0 ||
  (if pteLeaf e then
    (pteW e && !pteR e) || level == 1 || (level == 3 && bits e 25 16 != 0) || (level == 2 && bits e 35 16 != 0)
      || (pteKv e && level != 4) || (pteBank e && pteRepl e) || (pteKv e && pteRepl e)
  else level == 4 || bits e 9 1 != 0)

/-- The walk from a table at a level; `fuel` counts the levels left. -/
def walkFrom (m : Mem) (va : Nat) : Nat → Nat → Nat → Walk
  | 0, level, _ => .malformed level
  | fuel + 1, level, table =>
    let addr := table + 8 * (va / 2 ^ (56 - 10 * level) % 1024)
    let e := Mem.le m addr 8
    if !pteV e then (if level == 4 && pteKv e then .free else .awaits)
    else if pteMalformed e level then .malformed level
    else if pteLeaf e then .leaf e level addr
    else walkFrom m va fuel (level + 1) (pteFrame e * 65536)

/-- Where address-space entry a stands, and the entry (Table 10-2), as one 256-bit value. -/
def State.spaceAt (s : State) (asid : Nat) : Nat := bits s.astb.toNat 51 21 * 2 ^ 21 + 32 * asid
def State.space (s : State) (asid : Nat) : Nat := Mem.le s.mem (s.spaceAt asid) 32

def spaceValid (e : Nat) : Bool := bits e 0 0 == 1
def spaceRoot (e : Nat) : Nat := bits e 51 16
def spaceStride (e : Nat) : Nat := bits e 99 64
def spaceKey (e : Nat) : Nat := bits e 135 128
def spaceSvca (e : Nat) : Nat := bits e 199 144

def State.walk (s : State) (asid va : Nat) : Walk := walkFrom s.mem va 4 1 (spaceRoot (s.space asid) * 65536)

/-- The bytes a leaf maps, by its level. -/
def leafSize (level : Nat) : Nat := if level == 4 then 2 ^ 16 else if level == 3 then 2 ^ 26 else 2 ^ 36

/-- The physical address of a byte under a leaf (R245). -/
def leafPhys (pte level va : Nat) : Nat := pteFrame pte * 65536 + va % leafSize level

/-- Sets bits of a leaf by one or-write (R249); an entry that has them is not written. -/
def State.orPte (s : State) (addr mask : Nat) : State :=
  let e := Mem.le s.mem addr 8
  if Nat.land e mask == mask then s else { s with mem := Mem.write s.mem addr (leBytes 8 (Nat.lor e mask)) }

/-- A held page lies in the spill region of a LIVE set of its address space (R306). -/
def State.heldPage (s : State) (asid va : Nat) : Bool :=
  s.sets.any fun r => r.desc.asid == asid && decide (r.desc.spill ≤ va) && decide (va < r.desc.spill + 65536 * r.desc.spages)

/-- Where the bytes under a leaf are kept for an address space. -/
def State.leafPlace (s : State) (asid pte : Nat) : Place := if pteEnc pte then .cipher (spaceKey (s.space asid)) else .phys

/-- What a page answers to an access (R197, R248, R253, R256). -/
inductive PageAns where
  | ok (pa : Nat) (pte level addr : Nat)
  | perm
  | cannot (level : Nat)
  | awaits
  deriving DecidableEq, Repr

/-- The collapse that covers a byte. -/
def State.collapseOf (s : State) (asid va : Nat) : Option Collapse :=
  s.collapsing.find? fun c => c.asid == asid && decide (c.page ≤ va / 65536) && decide (va / 65536 < c.page + c.count)

/-- The page of a byte as an access from a die finds it, needing R, W or X. -/
def State.page (s : State) (asid die va : Nat) (r w x : Bool) : PageAns :=
  match s.walk asid va with
  | .awaits => .awaits
  | .free => .cannot 0
  | .malformed level => .cannot level
  | .leaf e level addr =>
    if s.faulting.any fun f => f.asid == asid && f.page == va / 65536 then .awaits
    else if pteEnc e && (SMap.get? s.lemant.keys (spaceKey (s.space asid))).isNone then .cannot 0
    else if s.heldPage asid va && (r || w) then .perm
    else if (r && !pteR e) || (w && !pteW e) || (x && !pteX e) then .perm
    else
      match s.collapseOf asid va with
      | some c => if w || c.acks.contains die then .awaits
        else .ok ((leafPhys e level va + die * spaceStride (s.space asid) * 65536) % 2 ^ 52) e level addr
      | none =>
        if pteRepl e && w then .awaits
        else if pteRepl e then .ok ((leafPhys e level va + die * spaceStride (s.space asid) * 65536) % 2 ^ 52) e level addr
        else .ok (leafPhys e level va) e level addr

/-! ### The event log (R419) -/

/-- One report to the management controller: 4,096 records, the oldest overwritten. `detail` lists what DETAIL names for
the KIND. -/
def State.report (s : State) (kind src addr : Nat) (detail : List Nat) : State :=
  let r : EventRecord :=
    { kind := kind, src := src, addr := addr, detail := Config.detailBits kind detail, time := Config.freeTime s.freeIx }
  let log := s.lemant.log ++ [r]
  { s.tick with lemant := { s.lemant with log := if 4096 < log.length then log.drop 1 else log } }

/-- The home slice of a physical line number (R227). -/
def homeSlice (l : Nat) : Nat :=
  Nat.xor (Nat.xor (Nat.xor (bits l 7 0) (bits l 15 8)) (Nat.xor (bits l 23 16) (bits l 31 24)))
    (Nat.xor (bits l 39 32) (bits l 47 40))

/-- The slice of a line of the LLC scratch partition, by its offset (R226). -/
def lscrSlice (off : Nat) : Nat := off / 256 % 256

/-- The Bysar stack of a physical address (R288). -/
def stackOf (pa : Nat) : Nat := bits pa 23 21

/-- SRC of a report of an error: the stack of DRAM, the slice of the LLC, or the core of a scratchpad. -/
def Upset.src (u : Upset) : Nat :=
  match u.place with
  | .scratch k => k
  | .lscr => lscrSlice u.addr
  | _ => if u.cause == 8 then stackOf u.addr else homeSlice (u.addr / 256)

/-- ADDR of a report of an error: a physical address, or 0. -/
def Upset.pa (u : Upset) : Nat :=
  match u.place with
  | .phys => u.addr
  | _ => 0

/-- An uncorrectable error that no context consumes (R385). -/
def State.reportUpset (s : State) (u : Upset) : State := s.report 1 u.src u.pa [u.cause, u.addr]

/-- Every error that the device meets in n bytes of a place which it reads for itself is reported. -/
def State.reportIn (s : State) (p : Place) (a n : Nat) : State :=
  (s.upsets.filter fun u => u.place == p.store && decide (a ≤ u.addr) && decide (u.addr < a + n)).foldl (fun s u =>
    s.reportUpset u) s

/-- The addresses of the entries that a walk reads. -/
def walkReads (m : Mem) (va : Nat) : Nat → Nat → Nat → List Nat
  | 0, _, _ => []
  | fuel + 1, level, table =>
    let addr := table + 8 * (va / 2 ^ (56 - 10 * level) % 1024)
    let e := Mem.le m addr 8
    if !pteV e || pteMalformed e level || pteLeaf e then [addr]
    else addr :: walkReads m va fuel (level + 1) (pteFrame e * 65536)

/-- A walk for an address has read its address-space entry and table entries: an error among them is reported, as no context
consumes it (R385, R428). No walk is made for an address outside generic memory. -/
def State.reportWalk (s : State) (asid va : Nat) : State :=
  if s.upsets == [] || decide (2 ^ 55 ≤ va) then s
  else
    (walkReads s.mem va 4 1 (spaceRoot (s.space asid) * 65536)).foldl (fun s a => s.reportIn .phys a 8)
      (s.reportIn .phys (s.spaceAt asid) 32)

/-- The walks for some addresses of the executing word's address space. -/
def State.reportWalks (s : State) (vas : List Nat) : State := vas.foldl (fun s va => s.reportWalk s.cur.asid va) s

/-- The device reads through the leaf at a place, which its walk for an address has found (R249). -/
def State.readThrough (s : State) (asid va leaf : Nat) : State := (s.reportWalk asid va).orPte leaf 0x10

/-! ### Raising a trap -/

/-- A trap that the executing word raises: it is taken once every word of the bundle has executed or trapped (R447). One that
the tables have decided reports what their walk has met. -/
def State.trap (s : State) (cls cause addr level : Nat) : State :=
  let tr : Trap :=
    { cls := cls, cause := cause, slot := s.focus.slot, addr := addr,
      aux := if auxIsWord cls then s.curRaw else 0, level := level, code := 0, isAsync := false, due := 0 }
  let s := if 5 ≤ cls && cls ≤ 7 && (cause == 3 || cause == 4) then s.reportWalk s.cur.asid addr else s
  s.modBundle s.focus.ticket s.focus.pos fun b =>
    let b := b.setWord s.focus.slot fun w => { w with progress := .trapped, wait := none }
    { b with traps := b.traps ++ [tr] }

def State.engineFault (s : State) : State := s.trap 8 0 0 0

end Sys2Proof.Machine
end

