-- ==== Sys2Proof/Machine/Tasks.lean ====
section
/-!
DEFINITION. Task and command records (Tables 14-3, 14-5), and how a task enters a queue's task list (R346, R356, R359).
-/
namespace Sys2Proof.Machine

/-! ### Records -/

/-- Word w of a 64-byte record. -/
def recWord (rec w : Nat) : Nat := rec / 2 ^ (64 * w) % 2 ^ 64

/-- Bits of word w of a record. -/
def recBits (rec w hi lo : Nat) : Nat := bits (recWord rec w) hi lo

def recType (rec : Nat) : Nat := recBits rec 0 7 0
def recPin (rec : Nat) : Bool := recBits rec 0 8 8 == 1
def recKernel (rec : Nat) : Nat := recBits rec 0 27 16
def recLw (rec : Nat) : Nat := recBits rec 0 34 32
def recLh (rec : Nat) : Nat := recBits rec 0 38 36
def recGw (rec : Nat) : Nat := recBits rec 0 42 40
def recGh (rec : Nat) : Nat := recBits rec 0 46 44
def recC (rec : Nat) : Nat := recBits rec 0 50 48
def recX0 (rec : Nat) : Nat := recBits rec 0 56 52
def recY0 (rec : Nat) : Nat := recBits rec 0 60 57
def recArgp (rec : Nat) : Nat := recWord rec 1
def recFaultB (rec : Nat) : Nat := recWord rec 2
def recDeps (rec : Nat) : Nat := recBits rec 3 15 0
def recAct (rec : Nat) : Nat := recBits rec 3 23 16
def recActArg (rec : Nat) : Nat := recBits rec 3 63 32
def recActAddr (rec : Nat) : Nat := recWord rec 4
def recActVal (rec : Nat) : Nat := recWord rec 5
def recTaskId (rec : Nat) : Nat := recWord rec 6

/-- A record with word w replaced. -/
def recSet (rec w v : Nat) : Nat := rec - recWord rec w * 2 ^ (64 * w) + v % 2 ^ 64 * 2 ^ (64 * w)

/-- A set MBZ bit of a task record (Table 14-5, reason 2); X0 and Y0 are MBZ without PIN (R332). -/
def taskMbz (rec : Nat) : Bool :=
  recBits rec 0 15 9 != 0 || recBits rec 0 31 28 != 0 || recBits rec 0 35 35 != 0 || recBits rec 0 39 39 != 0
    || recBits rec 0 43 43 != 0 || recBits rec 0 47 47 != 0 || recBits rec 0 51 51 != 0 || recBits rec 0 63 61 != 0
    || recBits rec 3 31 24 != 0 || recWord rec 7 != 0 || (!recPin rec && (recX0 rec != 0 || recY0 rec != 0))

/-- A shape or origin outside its limits (reason 3). -/
def taskShapeBad (rec : Nat) : Bool :=
  decide (5 < recLw rec) || decide (4 < recLh rec) || decide (recLw rec < recGw rec) || decide (recLh rec < recGh rec)
    || (recPin rec && (recX0 rec % 2 ^ recLw rec != 0 || recY0 rec % 2 ^ recLh rec != 0))

/-- A broken completion action (reason 6). -/
def taskActBad (rec : Nat) : Bool :=
  let act := recAct rec
  let argBad := if act == 1 then decide (255 < recActArg rec)
    else if act == 3 || act == 4 then decide (63 < recActArg rec) else recActArg rec != 0
  let addrBad := if act == 2 then recActAddr rec % 16 != 0
    else if act == 3 then recActAddr rec % 64 != 0 else recActAddr rec != 0
  decide (4 < act) || argBad || addrBad || (act != 4 && recActVal rec != 0)

/-- The lowest reason code for which a LAUNCH record is malformed (R330, Table 14-5). -/
def taskReason (rec : Nat) : Option Nat :=
  if recType rec != 1 then some 1
  else if taskMbz rec then some 2
  else if taskShapeBad rec then some 3
  else if 4 < recC rec then some 4
  else if recArgp rec % 8 != 0 || recFaultB rec % 256 != 0 then some 5
  else if taskActBad rec then some 6
  else none

/-- The bits that a command of Table 14-3 uses in word 0. -/
def commandMask (type : Nat) : Nat :=
  if type == 2 then 0x0000_FFFF_0FFF_00FF
  else if type == 3 then 0x0000_0000_0FFF_00FF
  else if type == 4 then 0x0000_FFFF_00FF_00FF
  else 0x0000_0000_00FF_00FF

/-- The lowest reason code for which a LOAD, UNLOAD, GRAPH or GRAPH_DROP record is malformed. -/
def commandReason (rec : Nat) : Option Nat :=
  let type := recType rec
  if type < 2 || 5 < type then some 1
  else if Nat.land (recWord rec 0) (commandMask type) != recWord rec 0 || ((type == 3 || type == 5) && recWord rec 1 != 0)
      || recWord rec 3 != 0 || recWord rec 4 != 0 || recWord rec 5 != 0 || recWord rec 7 != 0 then some 2
  else if recWord rec 2 % 16 != 0 then some 5
  else none

/-- The reason of a ring record of any TYPE. -/
def recordReason (rec : Nat) : Option Nat := if recType rec == 1 then taskReason rec else commandReason rec

/-! ### Kernel headers (Table 14-1) -/

def hdrMagic (h : Nat) : Nat := bits h 31 0
def hdrNbv (h : Nat) : Nat := bits h 47 32
def hdrCtx (h : Nat) : Nat := bits h 50 48
def hdrTiles (h : Nat) : Nat := bits h 59 56
def hdrScratch (h : Nat) : Nat := bits h 95 64
def hdrArgs (h : Nat) : Nat := bits h 127 96
def hdrPboff (h : Nat) : Nat := bits h 191 128
def hdrEntry (h : Nat) : Nat := bits h 223 192
def hdrCodeOff (h : Nat) : Nat := bits h 255 224
def hdrCodeLen (h : Nat) : Nat := bits h 287 256
def hdrDataOff (h : Nat) : Nat := bits h 319 288
def hdrDataLen (h : Nat) : Nat := bits h 351 320
def hdrFslot (h : Nat) : Nat := bits h 375 368

/-- The kernel a launch runs; a kernel stays in the table while it has a live launch (R328). -/
def State.kernelOf (s : State) (l : Launch) : Option Kernel := SMap.get? s.kernels l.kernel

def State.launchOf (s : State) (w : Who) : Option Launch := SMap.get? s.launches w.launch

/-- The first byte and the length of the code segment of an instance. -/
def State.codeSegment (s : State) (w : Who) : Nat × Nat :=
  match (s.launchOf w).bind s.kernelOf with
  | some k => (k.base + hdrCodeOff k.hdr, hdrCodeLen k.hdr)
  | none => (0, 0)

/-- n bytes of the code of an instance, of the segment as loaded (R62). -/
def State.codeBytes (s : State) (w : Who) (va n : Nat) : List Byte :=
  match (s.launchOf w).bind s.kernelOf with
  | some k => Mem.bytes k.code (va - (k.base + hdrCodeOff k.hdr)) n
  | none => List.replicate n 0

/-- The header of the kernel that an instance runs. -/
def State.hdrOf (s : State) (w : Who) : Nat :=
  match s.launchOf w with
  | some l => ((s.kernelOf l).map (·.hdr)).getD 0
  | none => 0

/-- Contexts per core: the record's C, or the header's CTX for 0 (R332). -/
def effC (rec hdr : Nat) : Nat := if recC rec == 0 then hdrCtx hdr else recC rec

/-! ### Entering a queue -/

def State.queue (s : State) (q : Nat) : Queue := SMap.getD s.queues q Queue.zero

def State.setQueue (s : State) (q : Nat) (x : Queue) : State := { s with queues := SMap.set s.queues q x }

def State.modQueue (s : State) (q : Nat) (f : Queue → Queue) : State := s.setQueue q (f (s.queue q))

/-- Tasks that have entered and have not been dispatched (R346). A pre-empted launch that has returned to the run list counts
here too, and its return may bring the list to 257 (the model's choice, assumption 120). -/
def Queue.waiting (q : Queue) : Nat := q.run.length + q.pool.length

/-- The conditions of R359 under which a task with this record may enter: the spawner's address space and HANDLER bit. -/
def State.accepts (s : State) (q rec asid : Nat) (handler : Bool) : Bool :=
  let x := s.queue q
  x.state == .enabled && !x.drain && (!x.handler || handler) && decide (x.waiting < 256) &&
    (match SMap.get? s.kernels (recKernel rec) with
     | some k => k.asid == asid
     | none => true)

/-- A task joins the run list, or the dependence pool while releases are awaited, after consuming the credits held for its
TASKID (R356). -/
def Queue.enter (q : Queue) (t : Task) : Queue :=
  let id := recTaskId t.record
  let have_ := SMap.getD q.credits id 0
  let used := min have_ t.deps
  let q := if used == 0 then q
    else if used == have_ then { q with credits := SMap.erase q.credits id }
    else { q with credits := SMap.set q.credits id (have_ - used) }
  if t.deps - used == 0 then { q with run := q.run ++ [{ t with deps := 0 }] }
  else { q with pool := q.pool ++ [{ t with deps := t.deps - used }] }

/-- A task made from a record. -/
def Task.ofRecord (id rec : Nat) (asid : Option Nat) (time : Nat) : Task :=
  { id := id, record := rec, asid := asid, time := time, deps := if recType rec == 1 then recDeps rec else 0,
    service := none, node := none, resume := none }

/-- Gives a task its item number and enters it. -/
def State.enterTask (s : State) (q : Nat) (t : Task) : State :=
  { s.modQueue q (fun x => x.enter { t with id := s.nextId }) with nextId := s.nextId + 1 }

/-- Lowers the DEPS of the oldest pooled task with a TASKID; a task that reaches 0 joins the run list. -/
def releaseIn (id : Nat) : List Task → Option (List Task × Option Task)
  | [] => none
  | t :: ts =>
    if recTaskId t.record == id then
      (if t.deps ≤ 1 then some (ts, some { t with deps := 0 }) else some ({ t with deps := t.deps - 1 } :: ts, none))
    else (releaseIn id ts).map fun r => (t :: r.1, r.2)

/-- A release (ACT 4) aimed at queue q for a TASKID (R356). -/
def State.release (s : State) (q id : Nat) : State :=
  let x := s.queue q
  if x.state == .disabled then s.report 8 0 0 [q, id]
  else match releaseIn id x.pool with
    | some (pool, t) => s.setQueue q { x with pool := pool, run := x.run ++ t.toList }
    | none =>
      if (SMap.get? x.credits id).isNone && decide (256 ≤ x.credits.length) then
        (if x.state == .enabled then s.setQueue q { x with state := .error, reason := 10 } else s)
      else s.setQueue q { x with credits := SMap.set x.credits id (SMap.getD x.credits id 0 + 1) }

end Sys2Proof.Machine
end

