-- ==== Sys2Proof/Machine/Service.lean ====
section
/-!
DEFINITION. Writes to the host, service requests (R425, R426), and what a page that awaits mapping starts: a page-fault
request or a replica collapse (R254, R256, R445).
-/
namespace Sys2Proof.Machine

/-! ### The host and peer windows -/

/-- The first address of the host window (Table 9-1). -/
def hostBase : Nat := 0xC0_0000_0000_0000

/-- The peer whose window holds an address (Table 9-1). -/
def peerOf (va : Nat) : Nat := (va - 0x80_0000_0000_0000) / 0x4000_0000_0000

def State.link (s : State) (l : Nat) : Link := SMap.getD s.links l Link.zero

def State.setLink (s : State) (l : Nat) (x : Link) : State := { s with links := SMap.set s.links l x }

def Link.usable (l : Link) : Bool := l.state == .up || l.state == .degraded

/-- This device's identifier on the fabric (R411). -/
def State.fabid (s : State) : Nat := bits s.fabric.toNat 7 0

/-- The links of a list that carry traffic. -/
def State.usable (s : State) (ls : List Nat) : List Nat := ls.filter fun l => (s.link l).usable

/-- The peer ports that may carry traffic to device i, as links (Table 20-1, Table 20-4). -/
def State.routePorts (s : State) (i : Nat) : List Nat :=
  let r := (SMap.getD s.routes i 0).toNat
  if bits r 63 63 == 1 then ((List.range 8).filter fun k => bits r k k == 1).map (· + 2) else []

/-- The usable links toward the window of an address (R410, R412). -/
def State.portsFor (s : State) (va : Nat) : List Nat :=
  if hostBase ≤ va then s.usable [0, 1] else s.usable (s.routePorts (peerOf va))

/-- The number of the line of a window that holds an address. -/
def windowLine (va : Nat) : Nat := if hostBase ≤ va then (va - hostBase) / 256 else va % 2 ^ 46 / 256

/-- The link that carries a line of a window: the m-th usable one, m = line mod their number (R410, R412). -/
def State.carrier (s : State) (va : Nat) : Option Nat :=
  let ls := s.portsFor va
  ls[windowLine va % ls.length]?

/-- An address of a peer window or the host window (Table 9-1). -/
def inWindow (va : Nat) : Bool := decide (2 ^ 55 ≤ va) && decide (va < hostBase + 2 ^ 48)

/-- The window bytes of an access in flight on links. -/
def OpKind.window : OpKind → List (Nat × Nat)
  | .sysLoad segs _ => segs
  | .sysWrite segs => segs.map fun g => (g.1, g.2.length)
  | .sysAmo _ wide _ va _ _ _ _ => [(va, if wide then 8 else 4)]
  | .hostWrite off bs _ => [(hostBase + off, bs.length)]
  | _ => []

/-- Two addresses lie in the window of one destination. -/
def sameWindow (a b : Nat) : Bool := if hostBase ≤ a || hostBase ≤ b then hostBase ≤ a && hostBase ≤ b else peerOf a == peerOf b

/-- The set of usable links toward a window has changed, and an access sent before is outstanding: new ones are held back. -/
def State.portsHeld (s : State) (va : Nat) : Bool :=
  s.ops.any fun o => o.ports != [] && (o.kind.window.any fun g => sameWindow g.1 va) && o.ports != s.portsFor va

/-- A host-window write by the device itself, or for a node of a graph: it is in flight until the host acknowledges it, and is
dropped with an event where no host link can carry it (R410); it is sent later where it is held back. `after` names the
instances whose host-window writes it follows. -/
def State.hostWriteBy (s : State) (who : Option Who) (off : Nat) (bs : List Byte) (after : List Who) : State :=
  match s.carrier (hostBase + off), decide (off + bs.length ≤ 2 ^ 48) with
  | none, _ => s.report 4 0 0 [off]
  | some _, false => s.report 4 0 0 [off]
  | some _, true => s.opNew
      { id := 0, who := who, asid := 0, pos := 0, pc := 0, tag := none, time := 0, wait := none, denied := false,
        failed := false, ports := if s.portsHeld hostBase then [] else s.portsFor hostBase,
        kind := .hostWrite off bs after }

/-- A host-window write by the device itself. -/
def State.hostWrite (s : State) (off : Nat) (bs : List Byte) (after : List Who) : State := s.hostWriteBy none off bs after

/-! ### Service requests -/

/-- Whether function f runs in hardware mode (Table 21-5). -/
def State.hwMode (s : State) (f : Nat) : Bool := s.modesel.getLsbD f

/-- The 32-byte request of Table 21-6. -/
def requestBytes (seq func asid addr aux : Nat) : List Byte :=
  leBytes 32 (seq + func * 2 ^ 64 + asid * 2 ^ 112 + addr % 2 ^ 64 * 2 ^ 128 + aux % 2 ^ 64 * 2 ^ 192)

/-- Requests of one ring that are sent and unanswered. -/
def State.unanswered (s : State) (hw : Bool) (asid : Nat) : Nat :=
  (s.services.filter fun v => v.seq.isSome && v.answer.isNone && v.hw == hw && (!hw || v.asid == asid)).length

/-- Where a byte of mapped, readable and writable generic memory lies, with its leaf. -/
def State.physRW (s : State) (asid va : Nat) : Option (Place × Nat × Nat) :=
  if 2 ^ 55 ≤ va then none
  else match s.page asid 0 va true true false with
    | .ok pa e _ leaf => some (s.leafPlace asid e, pa, leaf)
    | _ => none

/-- The service task record of an address space, where it can be read (R426); an error in it is reported. -/
def State.serviceRecord (s : State) (asid : Nat) : State × Option Nat :=
  let s := s.reportWalk asid (spaceSvca (s.space asid))
  match s.physRW asid (spaceSvca (s.space asid)) with
  | none => (s, none)
  | some (p, pa, leaf) =>
    match s.upsetIn p pa 64 with
    | some u => (s.reportUpset u, none)
    | none => (s.orPte leaf 0x10, some (leNat (s.peek p pa 64)))

/-- Sends request `v` to the host ring (R425); one of function 7 asks for no answer and is then forgotten (Table 21-8). -/
def State.sendHost (s : State) (v : Service) : State :=
  let n := s.svcCount
  let off := bits s.svcr.toNat 55 13 * 8192 + 32 * (n % 256)
  let s := s.hostWrite off (requestBytes n v.func v.asid v.addr v.aux) []
  { s with
    svcCount := (n + 1) % 2 ^ 32
    services := if v.func == 7 then s.services.filter fun x => x.id != v.id
      else s.services.map fun x => if x.id == v.id then { v with hw := false, seq := some n } else x }

/-- Sends a request to the host if its ring has room. -/
def State.askHost (s : State) (v : Service) : State := if s.unanswered false 0 < 256 then s.sendHost v else s

/-- Enters the task of request n of an address space, or turns to the host where the record or its queue does not admit it. -/
def State.enterService (s : State) (v : Service) (n slot : Nat) : Option Nat → State
  | none => s.askHost v
  | some record =>
    let q := bits s.ftriage.toNat 5 0
    if (taskReason record).isSome || !s.accepts q record v.asid true then s.askHost v
    else
      let s := s.enterTask q { Task.ofRecord 0 (recSet record 1 slot) (some v.asid) s.floor with service := some v.id }
      { s with
        svcCounts := SMap.set s.svcCounts v.asid ((n + 1) % 2 ^ 32)
        services := s.services.map fun x => if x.id == v.id then { v with seq := some n } else x }

/-- A request in hardware mode: its slot is written, the service record is read, and the task enters (R426). -/
def State.askTask (s : State) (v : Service) : State :=
  let svca := spaceSvca (s.space v.asid)
  let n := SMap.getD s.svcCounts v.asid 0
  let slot := svca + 256 + 32 * (n % 256)
  if svca == 0 then s.askHost v
  else if 256 ≤ s.unanswered true v.asid then s
  else
    let s := s.reportWalk v.asid slot
    match s.physRW v.asid slot with
    | none => s.askHost v
    | some (p, pa, leaf) =>
      let s := (s.orPte leaf 0x30).put [(p, pa, requestBytes n v.func v.asid v.addr v.aux)]
      let r := s.serviceRecord v.asid
      r.1.enterService v n slot r.2

/-- Sends a request if its ring has room: to a service task in hardware mode, else to the host (R426). -/
def State.sendService (s : State) (v : Service) : State := if v.hw then s.askTask v else s.askHost v

/-- Raises a request of a function: it takes the mode in force now (R424) and is sent at once if there is room. Only
functions 0 and 3 have a service task in hardware mode; the others reach the host in host-assisted mode alone. -/
def State.raiseService (s : State) (func asid addr aux : Nat) (op : Option Nat) : State :=
  let v : Service :=
    { id := s.nextId, func := func, hw := s.hwMode func, asid := asid, addr := addr, aux := aux, seq := none, op := op,
      answer := none }
  let s := { s with nextId := s.nextId + 1, services := s.services ++ [v] }
  s.sendService v

/-- Room has come free: requests that waited are sent, oldest first (R425). -/
def State.sendWaiting (s : State) : State :=
  (s.services.filter fun v => v.seq.isNone && v.answer.isNone).foldl (fun s v => s.sendService v) s

/-! ### Pages that await mapping -/

/-- The leaf's page number and the number of 64 KiB pages it maps. -/
def leafPages (level va : Nat) : Nat × Nat :=
  (va / leafSize level * (leafSize level / 65536), leafSize level / 65536)

/-- What an access to a byte whose page awaits mapping starts: a page-fault request when the page enters FAULTING, or the
collapse of a replicated page by a write (R254, R256, R445). -/
def State.needPage (s : State) (asid va : Nat) (write : Bool) : State :=
  if (s.faulting.any fun f => f.asid == asid && f.page == va / 65536) || (s.collapseOf asid va).isSome then s
  else
    let s := s.reportWalk asid va
    match s.walk asid va with
    | .awaits =>
      let s := { s with faulting := s.faulting ++ [Faulting.mk asid (va / 65536) 0] }
      s.raiseService 0 asid va (if write then 2 else 1) none
    | .leaf e level addr =>
      if pteRepl e && write then
        let p := leafPages level va
        { s with collapsing := s.collapsing ++ [Collapse.mk asid p.1 p.2 addr [] 0] }
      else s
    | _ => s

end Sys2Proof.Machine
end

