-- ==== Sys2Proof/Machine/Access.lean ====
section
/-!
DEFINITION. Regions and their checks (R196, R197, R225, R226), logical time (R229 to R233), the accesses of contexts and
engines, the side log and its replay (R255, R257), and the release of what waits for a page.
-/
namespace Sys2Proof.Machine

/-! ### Regions -/

/-- The rows of Table 9-1. -/
inductive RKind where
  | generic | peer | host | lscr | cluster | own
  deriving DecidableEq, Repr

/-- A contiguous piece of a region: its row (and the peer of a peer window), its extent, and the scratchpad behind it. -/
structure Region where
  kind : RKind
  peer : Nat
  lo : Nat
  size : Nat
  place : Place
  deriving DecidableEq, Repr

/-- The core on which an instance stands (or stood before pre-emption), by its place in the rectangle (R336). -/
def Launch.coreOf (l : Launch) (inst : Nat) : Nat :=
  let rel := inst / l.c
  (l.y0 + rel / 2 ^ l.lw) * 32 + l.x0 + rel % 2 ^ l.lw

/-- The index of a core relative to a launch's rectangle, where it lies inside. -/
def Launch.relOf (l : Launch) (k : Nat) : Option Nat :=
  let x := k % 32
  let y := k / 32
  if l.x0 ≤ x && x < l.x0 + 2 ^ l.lw && l.y0 ≤ y && y < l.y0 + 2 ^ l.lh then some ((y - l.y0) * 2 ^ l.lw + (x - l.x0))
  else none

/-- Whether a core of the rectangle still holds a context of the launch (R225). -/
def Launch.holds (l : Launch) (rel : Nat) : Bool := (List.range l.c).any fun r => !l.ended.contains (rel * l.c + r)

/-- The scratchpad of the launch's core with a relative index: on the core, or saved with a pre-empted launch. -/
def Launch.scratchPlace (l : Launch) (id rel : Nat) : Place :=
  if l.preempted then .saved id rel else .scratch ((l.y0 + rel / 2 ^ l.lw) * 32 + l.x0 + rel % 2 ^ l.lw)

def lscrBase : Nat := 0xFF_FD00_0000_0000
def clusterBase : Nat := 0xFF_FE00_0000_0000
def ownBase : Nat := 0xFF_FF00_0000_0000

/-- The region of a byte for an instance (Table 9-1, R225, R226, R412); none outside every region (R196). -/
def State.region (s : State) (w : Who) (asid va : Nat) : Option Region :=
  if va < 2 ^ 55 then some { kind := .generic, peer := 0, lo := 0, size := 2 ^ 55, place := .phys }
  else if va < hostBase then
    let i := peerOf va
    if s.routePorts i == [] then none
    else some (Region.mk .peer i (0x80_0000_0000_0000 + i * 0x4000_0000_0000) 0x4000_0000_0000 .remote)
  else if va < hostBase + 2 ^ 48 then some { kind := .host, peer := 0, lo := hostBase, size := 2 ^ 48, place := .remote }
  else if va < lscrBase then none
  else if va < clusterBase then
    let size := bits s.lscrReg.toNat 3 0 * 0x0C00_0000
    if bits s.lscrReg.toNat 63 48 == asid && decide (va - lscrBase < size) then
      some { kind := .lscr, peer := 0, lo := lscrBase, size := size, place := .lscr }
    else none
  else match s.launchOf w with
    | none => none
    | some l =>
      let scratch := hdrScratch (s.hdrOf w)
      let own := l.coreOf w.inst
      if va < clusterBase + 0x200_0000 then
        let p := (va - clusterBase) / 0x20_0000
        match l.relOf (coreAt (clusterOf own) p) with
        | none => none
        | some rel =>
          if l.holds rel && decide ((va - clusterBase) % 0x20_0000 < scratch) then
            some (Region.mk .cluster 0 (clusterBase + p * 0x20_0000) scratch (l.scratchPlace w.launch rel))
          else none
      else if ownBase ≤ va && va < ownBase + scratch then
        some { kind := .own, peer := 0, lo := ownBase, size := scratch, place := l.scratchPlace w.launch (w.inst / l.c) }
      else none

/-- Device memory (R234). -/
def RKind.device : RKind → Bool
  | .peer => false
  | .host => false
  | _ => true

/-- A piece of an access: its first byte and its length. -/
abbrev Seg := Nat × Nat

/-- The first bytes of the parts of a range that lie in different regions; the last is the first byte outside all. -/
def State.regionStarts (s : State) (w : Who) (asid : Nat) : Nat → Nat → Nat → List Nat
  | 0, _, _ => []
  | fuel + 1, a, n =>
    match s.region w asid a with
    | none => [a]
    | some r => let left := r.lo + r.size - a
                a :: if left < n then s.regionStarts w asid fuel (a + left) (n - left) else []

/-- The first byte that no admitted region holds, else the first outside the region of the first byte (R196, R446). -/
def State.spaceBad (s : State) (w : Who) (asid : Nat) (admitted : RKind → Bool) (segs : List Seg) : Option Nat :=
  let starts := segs.flatMap fun g => s.regionStarts w asid 512 g.1 g.2
  match starts.find? fun a => (s.region w asid a).all fun r => !admitted r.kind with
  | some a => some a
  | none =>
    let row := fun (a : Nat) => (s.region w asid a).map fun r => (r.kind, r.peer)
    starts.find? fun a => row a != row (starts.headD 0)

/-- A range cut at 64 KiB boundaries. -/
def chunks : Nat → Nat → Nat → List Seg
  | 0, _, _ => []
  | fuel + 1, a, n =>
    let k := 65536 - a % 65536
    if n == 0 then [] else if n ≤ k then [(a, n)] else (a, k) :: chunks fuel (a + k) (n - k)

def cut (g : Seg) : List Seg := chunks (g.2 / 65536 + 2) g.1 g.2

/-- The pages an access touches, in order, each with its first byte there. -/
def pagesOf (segs : List Seg) : List (Nat × Nat) :=
  (segs.flatMap cut).foldl (fun acc g => if acc.any fun p => p.1 == g.1 / 65536 then acc else acc ++ [(g.1 / 65536, g.1)]) []

/-- What the checks of an access find (R197): nothing against it, a trap, or pages that await mapping. -/
inductive Chk where
  | ok
  | trap (cls cause addr level : Nat)
  | wait (pages : List (Nat × Nat))
  deriving DecidableEq, Repr

/-- PERM and PAGE, page by page in the order of the access: the first page that fails gives the cause, once no page before
it awaits mapping (R183). -/
def State.pagesChk (s : State) (asid die cls : Nat) (r w : Bool) : List (Nat × Nat) → List (Nat × Nat) → Chk
  | acc, [] => if acc == [] then .ok else .wait acc
  | acc, p :: ps =>
    match s.page asid die p.2 r w false with
    | .ok .. => s.pagesChk asid die cls r w acc ps
    | .perm => if acc == [] then .trap cls 3 p.2 0 else .wait acc
    | .cannot level => if acc == [] then .trap cls 4 p.2 level else .wait acc
    | .awaits => s.pagesChk asid die cls r w (acc ++ [p]) ps

/-- The pages of an access to which its instance, or a context of the core on which it stands, has logged a write that is
still to be replayed (R240, R257). -/
def State.loggedPages (s : State) (w : Who) (asid : Nat) (segs : List Seg) : List (Nat × Nat) :=
  (pagesOf segs).filter fun p => s.cores.any fun k => k.2.log.any fun e =>
    e.asid == asid && e.page == p.1 && (e.who == w || (s.ticketOf w).map coreOf == some k.1)

/-- The region row of a whole access that has passed the SPACE check. -/
def State.kindOf (s : State) (w : Who) (asid : Nat) (segs : List Seg) : RKind :=
  match segs with
  | [] => .own
  | g :: _ => ((s.region w asid g.1).map (·.kind)).getD .own

/-- The checks of an access in the order SPACE, ALIGN, then PERM and PAGE (R197); a read waits for the replay of what its
instance has logged, even where the page can still be read (R256); a window whose links are all fenced gives LINK_FAULT
(R412). -/
def State.check (s : State) (w : Who) (asid die cls : Nat) (segs : List Seg) (r wr : Bool) (admitted : RKind → Bool)
    (aligned : Bool) (addr : Nat) : Chk :=
  match s.spaceBad w asid admitted segs with
  | some a => .trap cls 1 a 0
  | none =>
    if !aligned then .trap cls 2 addr 0
    else match s.kindOf w asid segs, segs with
      | .generic, _ =>
        match s.pagesChk asid die cls r wr [] (pagesOf segs) with
        | .ok => if r && s.loggedPages w asid segs != [] then .wait (s.loggedPages w asid segs) else .ok
        | x => x
      | .peer, g :: _ => if (s.carrier g.1).isNone then .trap 12 9 0 0 else .ok
      | .host, g :: _ => if (s.carrier g.1).isNone then .trap 12 9 0 0 else .ok
      | _, _ => .ok

/-! ### Reaching bytes -/

/-- Where a byte of generic memory lies for a read or a write. -/
def State.resolvePage (s : State) (asid die va : Nat) (write : Bool) : Option (Place × Nat) :=
  match s.page asid die va (!write) write false with
  | .ok pa e _ _ => some (s.leafPlace asid e, pa)
  | _ => none

/-- The address space of the exported region, and the virtual address of its byte at an offset (R413). -/
def State.expAsid (s : State) : Nat := bits s.expb.toNat 63 48
def State.expAddr (s : State) (off : Nat) : Nat := bits s.expb.toNat 39 0 * 65536 + off

/-- The offset in the exported region of a byte of the device's own peer window (R224). -/
def State.ownWindow (s : State) (va : Nat) : Option Nat :=
  if 2 ^ 55 ≤ va && va < hostBase && peerOf va == s.fabid then some (va % 2 ^ 46) else none

/-- Where a byte lies for an access that has passed its checks. -/
def State.resolve (s : State) (w : Who) (asid die va : Nat) (write : Bool) : Option (Place × Nat) :=
  match s.region w asid va with
  | none => none
  | some r =>
    match r.kind with
    | .generic => s.resolvePage asid die va write
    | .peer => match s.ownWindow va with
      | some off => s.resolvePage s.expAsid 0 (s.expAddr off) write
      | none => some (.remote, va)
    | .host => some (.remote, va)
    | _ => some (r.place, va - r.lo)

/-- What a target of the fabric answers to an access at an offset of its exported region (R413): cause SPACE beyond LEN, and
the checks of a page for the rest, each with the offset of the byte that fails. -/
def State.exportChk (s : State) (off n : Nat) (r w : Bool) : Chk :=
  let len := bits s.expl.toNat 30 0 * 65536
  if len < off + n then .trap 6 1 (max off len) 0
  else match s.pagesChk s.expAsid 0 6 r w [] (pagesOf [(s.expAddr off, n)]) with
    | .trap cls cause a level => .trap cls cause (a - s.expAddr 0) level
    | x => x

/-- The same for an access to the device's own window (R224), with the window address of the byte that fails; another access
has no such check here. -/
def State.windowChk (s : State) (segs : List Seg) (r w : Bool) : Chk :=
  (segs.findSome? fun g => (s.ownWindow g.1).bind fun off =>
    match s.exportChk off g.2 r w with
    | .ok => none
    | .trap cls cause a level => some (.trap cls cause (g.1 - off + a) level)
    | x => some x).getD .ok

/-- The bytes of a piece. -/
def State.readSeg (s : State) (w : Who) (asid die : Nat) (g : Seg) : List Byte :=
  (cut g).flatMap fun c =>
    match s.resolve w asid die c.1 false with
    | some (p, a) => s.peek p a c.2
    | none => List.replicate c.2 0

/-- The parts of a write of a piece. -/
def State.partsOf (s : State) (w : Who) (asid die va : Nat) (bs : List Byte) : List (Place × Nat × List Byte) :=
  (cut (va, bs.length)).filterMap fun c =>
    (s.resolve w asid die c.1 true).map fun r => (r.1, r.2, (bs.drop (c.1 - va)).take c.2)

/-- The paged accesses that carry an access out, with their address space and die: its own, or those to the exported region
for the device's own window; the rest of a window and a scratchpad have none. -/
def State.paged (s : State) (w : Who) (asid die : Nat) (segs : List Seg) : Option (Nat × Nat × List Seg) :=
  match s.kindOf w asid segs with
  | .generic => some (asid, die, segs)
  | .peer =>
    if segs.all fun g => (s.ownWindow g.1).isSome then
      some (s.expAsid, 0, segs.map fun g => (s.expAddr (g.1 % 2 ^ 46), g.2))
    else none
  | _ => none

/-- Sets A, and D for a write, in the leaves an access uses (R249), and reports what their walks have met. -/
def State.mark (s : State) (w : Who) (asid die : Nat) (segs : List Seg) (write : Bool) : State :=
  match s.paged w asid die segs with
  | none => s
  | some (asid, die, segs) => (pagesOf segs).foldl (fun s p =>
    match s.page asid die p.2 (!write) write false with
    | .ok _ _ _ addr => (s.reportWalk asid p.2).orPte addr (if write then 0x30 else 0x10)
    | _ => s) s

/-- The first uncorrectable error among the bytes of an access (R385). -/
def State.upsetOf (s : State) (w : Who) (asid die : Nat) (segs : List Seg) : Option Upset :=
  ((segs.flatMap cut).filterMap fun c => (s.resolve w asid die c.1 false).bind fun r => s.upsetIn r.1 r.2 c.2).head?

/-! ### Logical time (R228 to R233) -/

/-- The write time and read-lease time of a line: a line that its slice does not hold takes the eviction floor (R233). -/
def State.lineTimes (s : State) (l : Nat) : Nat × Nat :=
  let f := SMap.getD s.floors (homeSlice l) 0
  SMap.getD s.lines l (f, f)

/-- The key of a core's copy of a sector. -/
def sectorKey (core sector : Nat) : Nat := core * 2 ^ 46 + sector

/-- The sectors of n bytes. -/
def sectorsOf (pa n : Nat) : List Nat :=
  if n == 0 then [] else (List.range ((pa + n - 1) / 64 - pa / 64 + 1)).map (· + pa / 64)

/-- The sectors of a line. -/
def lineSectors (l : Nat) : List Nat := (List.range 4).map (· + 4 * l)

/-- The errors among the bytes that owned copies of sectors bring home (R228). -/
def State.dirtyUpsets (s : State) (copies : SMap Sector) : List Upset :=
  s.upsets.filter fun u => u.place == .phys && u.cause == 7 &&
    copies.any fun e => e.1 % 2 ^ 46 == u.addr / 64 && e.2.dirty.contains (u.addr % 64)

/-- The owned copies of some sectors that every core but one holds. -/
def State.ownedBy (s : State) (core : Option Nat) (sectors : List Nat) : SMap Sector :=
  s.l1.filter fun e => e.2.owned && sectors.contains (e.1 % 2 ^ 46) && core.all fun k => e.1 / 2 ^ 46 != k

/-- A line's home recalls the owned sectors of some list from every core but one: their times go back to the line, whose
bytes this memory holds already, and an error in what goes back is reported (R228, R385). -/
def State.recall (s : State) (core : Option Nat) (sectors : List Nat) : State :=
  let copies := s.ownedBy core sectors
  let back : State := { s with
    l1 := s.l1.filter fun e => !copies.contains e
    lines := copies.foldl (fun m e =>
      let l := e.1 % 2 ^ 46 / 4
      let x := s.lineTimes l
      SMap.set m l (max x.1 e.2.written, max x.2 e.2.lease)) s.lines }
  (s.dirtyUpsets copies).foldl (fun s u => s.reportUpset u) back

/-- A copy in the core's own L1 that serves a read at logical time lt: an owned sector, or a read copy whose lease reaches lt,
also where its line has been evicted (R228). A copy of which a byte has been written since serves none (assumption 110). -/
def State.copyFor (s : State) (core : Option Nat) (lt sector : Nat) : Option (Nat × Sector) :=
  core.bind fun k => (SMap.get? s.l1 (sectorKey k sector)).bind fun x =>
    if x.owned || (decide (lt ≤ x.lease) && !x.outdated) then some (sectorKey k sector, x) else none

/-- A read of one sector at logical time lt: from the core's own copy, or at home, where a core's copy takes a lease of 512
beyond the reader's time and a read by an engine covers its own time (R229, R232). The home recalls what it gives to a core,
and the whole line before an engine's access (R228). -/
def State.readSector (s : State) (core : Option Nat) (lt sector : Nat) : State × Nat :=
  match s.copyFor core lt sector with
  | some (key, x) =>
    let lt := max lt x.written
    (if x.owned then { s with l1 := SMap.set s.l1 key { x with lease := max x.lease lt } } else s, lt)
  | none =>
    let s := s.recall core (if core.isSome then [sector] else lineSectors (sector / 4))
    let x := s.lineTimes (sector / 4)
    let lt := max lt x.1
    let lease := if core.isSome then lt + 512 else lt
    let s : State := { s with lines := SMap.set s.lines (sector / 4) (x.1, max x.2 lease) }
    (match core with
     | some k => { s with l1 := SMap.set s.l1 (sectorKey k sector) (Sector.mk false [] x.1 lease false) }
     | none => s, lt)

/-- A read of n bytes at logical time lt, which rises to the write time of what it reads. -/
def State.readTime (s : State) (core : Option Nat) (lt pa n : Nat) : State × Nat :=
  (sectorsOf pa n).foldl (fun (r : State × Nat) x => r.1.readSector core r.2 x) (s, lt)

/-- The offsets in a sector of the bytes that a write of n bytes reaches. -/
def dirtyBytes (pa n sector : Nat) (old : List Nat) : List Nat :=
  (List.range 64).filter fun i => old.contains i || (decide (pa ≤ 64 * sector + i) && decide (64 * sector + i < pa + n))

/-- A write at logical time lt: it rises above each line's read-lease time (R229). A core writes into sectors that it comes
to own; every other core's owned sectors of the lines written at home are recalled (R228). Read copies of the sectors written
become outdated (assumption 110), and a line's lease after a write reaches no further than the write (assumption 94). -/
def State.writeTime (s : State) (core : Option Nat) (lt pa n : Nat) : State × Nat :=
  let ls := linesOf pa n
  let xs := sectorsOf pa n
  let s := s.recall core (if core.isSome then xs else ls.flatMap lineSectors)
  let reach := fun (x : Nat) => (core.bind fun k => SMap.get? s.l1 (sectorKey k x)).map Sector.lease |>.getD 0
  let lt := xs.foldl (fun lt x => max lt (max (s.lineTimes (x / 4)).2 (reach x) + 1)) lt + Config.freeTick s.freeIx
  let l1 := s.l1.map fun e => if xs.contains (e.1 % 2 ^ 46) && !e.2.owned then (e.1, { e.2 with outdated := true }) else e
  let l1 := match core with
    | some k => xs.foldl (fun m x =>
        let old := ((SMap.get? m (sectorKey k x)).map fun y => if y.owned then y.dirty else []).getD []
        SMap.set m (sectorKey k x) (Sector.mk true (dirtyBytes pa n x old) lt lt false)) l1
    | none => l1
  ({ s.tick with lines := ls.foldl (fun m l => SMap.set m l (lt, lt)) s.lines, l1 := l1 }, lt)

/-- The numbers of the w-byte entries, among n from an address, of which a memory lists a byte. -/
def listedIn (m : Mem) (base n w : Nat) : List Nat :=
  m.foldl (fun acc e =>
    let i := (e.1 - base) / w
    if base ≤ e.1 && i < n && acc.head? != some i then i :: acc else acc) []

/-- Whether a leaf that a walk can reach from a table at a level keeps a 64 KiB frame in the BANK state. -/
def bankFrom (m : Mem) (frame : Nat) : Nat → Nat → Nat → Bool
  | 0, _, _ => false
  | fuel + 1, level, table => (listedIn m table 1024 8).any fun i =>
    let e := Mem.le m (table + 8 * i) 8
    pteV e && !pteMalformed e level &&
      if pteLeaf e then pteBank e && decide (pteFrame e ≤ frame) && decide (frame < pteFrame e + leafSize level / 65536)
      else bankFrom m frame fuel (level + 1) (pteFrame e * 65536)

/-- Whether a 64 KiB frame of physical memory lies in a page that is in the BANK state in some address space (R233). -/
def State.isBank (s : State) (frame : Nat) : Bool := (listedIn s.mem (s.spaceAt 0) 65536 32).any fun a =>
  spaceValid (s.space a) && bankFrom s.mem frame 4 1 (spaceRoot (s.space a) * 65536)

/-- The logical time of the device's own access to physical memory at its home: BANK lines take no part (R233). -/
def State.homeTime (s : State) (lt pa n : Nat) (write : Bool) : State × Nat :=
  (cut (pa, n)).foldl (fun (r : State × Nat) c =>
    if r.1.isBank (c.1 / 65536) then r
    else if write then r.1.writeTime none r.2 c.1 c.2 else r.1.readTime none r.2 c.1 c.2) (s, lt)

/-- The logical time of an access at time lt, through a core's L1 or at home; BANK lines and other devices' memory take no
part (R229, R233). -/
def State.accessTime (s : State) (core : Option Nat) (w : Who) (asid die lt : Nat) (segs : List Seg) (write : Bool) :
    State × Nat :=
  match s.paged w asid die segs with
  | none => (s, lt)
  | some (asid, die, segs) => (segs.flatMap cut).foldl (fun (r : State × Nat) c =>
    match r.1.page asid die c.1 (!write) write false with
    | .ok pa e _ _ =>
      if pteBank e then r else if write then r.1.writeTime core r.2 pa c.2 else r.1.readTime core r.2 pa c.2
    | _ => r) (s, lt)

/-- A line leaves its slice, whose eviction floor rises to the line's times; owned sectors are recalled first, and an error
in what is written back is reported (R228, R233, R385). -/
def State.evict (s : State) (line : Nat) : State :=
  let told := s.dirtyUpsets (s.ownedBy none (lineSectors line))
  let s := s.recall none (lineSectors line)
  let x := s.lineTimes line
  let h := homeSlice line
  let s : State := { s with
    floors := SMap.set s.floors h (max (SMap.getD s.floors h 0) (max x.1 x.2))
    lines := SMap.erase s.lines line }
  (s.upsets.filter fun u => u.place == .phys && u.cause == 7 && u.addr / 256 == line && !told.contains u).foldl (fun s u =>
    s.reportUpset u) s

/-! ### Accesses of the executing word -/

/-- The die of the executing context. -/
def State.die (s : State) : Nat := dieOf (coreOf s.focus.ticket)

/-- The core of the executing context. -/
def State.here (s : State) : Nat := coreOf s.focus.ticket

/-- The checks of an access of the executing word. -/
def State.chk (s : State) (cls : Nat) (segs : List Seg) (r w : Bool) (admitted : RKind → Bool) (aligned : Bool)
    (addr : Nat) : Chk := s.check s.cur.who s.cur.asid s.die cls segs r w admitted aligned addr

/-- The level with which a page has been refused to the executing word while it waited. -/
def State.refusedLevel (s : State) (page : Nat) : Option Nat :=
  (s.curBundle.bind fun b => b.words.find? fun w => w.slot == s.focus.slot).bind fun w =>
    (w.refused.find? fun r => r.1 == page).map (·.2)

/-- A word whose access awaits pages: each page's service or collapse is started, and the context waits (R198, R254). The
first of them gives cause PAGE where it has been refused already (R183). -/
def State.awaitPages (s : State) (cls : Nat) (pages : List (Nat × Nat)) (write : Bool) : State :=
  match pages.head?.bind fun p => (s.refusedLevel p.1).map fun level => (p.2, level) with
  | some (a, level) => s.trap cls 4 a level
  | none =>
    let ps := pages.filter fun p => (s.refusedLevel p.1).isNone
    (ps.foldl (fun s p => s.needPage s.cur.asid p.2 write) s).waitWord (.page cls ps) 8

/-- Whether an access leaves by a link (R242). -/
def State.isRemote (s : State) (segs : List Seg) : Bool :=
  s.kindOf s.cur.who s.cur.asid segs == .peer || s.kindOf s.cur.who s.cur.asid segs == .host

/-- A read of device memory by the executing word at its order point: A bits, logical time, the error it would consume,
and the bytes. -/
def State.load (s : State) (segs : List Seg) : State × List Byte :=
  let c := s.cur
  let s := s.mark c.who c.asid s.die segs false
  let bs := segs.flatMap fun g => s.readSeg c.who c.asid s.die g
  let bad := (s.upsetOf c.who c.asid s.die segs).map (·.cause)
  let (s, lt) := s.accessTime (some s.here) c.who c.asid s.die c.ltime segs false
  let s := s.modCur fun c => { c with ltime := max c.ltime lt }
  (s.modBundle s.focus.ticket s.focus.pos fun b => b.setWord s.focus.slot fun w => { w with bad := bad }, bs)

/-- A load of the executing word in its checks' order: a trap, a wait, or the bytes handed on. -/
def State.loading (s : State) (cls : Nat) (segs : List Seg) (admitted : RKind → Bool) (aligned : Bool) (addr : Nat)
    (k : State → List Byte → State) : State :=
  match s.chk cls segs true false admitted aligned addr with
  | .trap cl cause a level => s.trap cl cause a level
  | .wait ps => s.awaitPages cls ps false
  | .ok => let (s, bs) := s.load segs
           k s bs

/-! ### Stores (R198, R255) -/

/-- The free entries of a core's side log. -/
def State.logRoom (s : State) (k : Nat) : Nat := 256 - (s.core k).log.length

/-- The check of a store of the executing word: pages that await mapping are not waited for, but each needs a log entry. -/
inductive StoreChk where
  | ok (logged : List (Nat × Nat))
  | trap (cls cause addr level : Nat)
  | full (need : Nat)
  deriving DecidableEq, Repr

def State.storeChk (s : State) (w : Who) (asid die k : Nat) (segs : List Seg) (admitted : RKind → Bool) (aligned : Bool)
    (addr : Nat) : StoreChk :=
  match s.check w asid die 6 segs false true admitted aligned addr with
  | .trap cl cause a level => .trap cl cause a level
  | .ok => .ok []
  | .wait _ =>
    let fails := (pagesOf segs).findSome? fun p => match s.page asid die p.2 false true false with
      | .perm => some (StoreChk.trap 6 3 p.2 0)
      | .cannot level => some (StoreChk.trap 6 4 p.2 level)
      | _ => none
    let ps := (pagesOf segs).filter fun p => s.page asid die p.2 false true false == .awaits
    fails.getD (if s.logRoom k < ps.length then .full ps.length else .ok ps)

/-- A store-like word: its checks, the services its pages need, and the effect it leaves for commit. -/
def State.storing (s : State) (segs : List Seg) (admitted : RKind → Bool) (aligned : Bool) (addr : Nat) (e : Effect) : State :=
  match s.storeChk s.cur.who s.cur.asid s.die (coreOf s.focus.ticket) segs admitted aligned addr with
  | .trap cl cause a level => s.trap cl cause a level
  | .full need => s.waitWord (.log need) 9
  | .ok ps => (ps.foldl (fun s p => s.needPage s.cur.asid p.2 true) s).effect e

/-- The part of the pieces that lies in a page, as offsets within it. -/
def inPage (page : Nat) (segs : List (Nat × List Byte)) : List (Nat × List Byte) :=
  segs.flatMap fun g => (cut (g.1, g.2.length)).filterMap fun c =>
    if c.1 / 65536 == page then some (c.1 % 65536, (g.2.drop (c.1 - g.1)).take c.2) else none

/-- The pieces outside a list of pages. -/
def notIn (pages : List Nat) (segs : List (Nat × List Byte)) : List (Nat × List Byte) :=
  segs.flatMap fun g => (cut (g.1, g.2.length)).filterMap fun c =>
    if pages.contains (c.1 / 65536) then none else some (c.1, (g.2.drop (c.1 - g.1)).take c.2)

/-- Side-log entries of a context's write, one for each page (R255): all carry the context's LTIME, which then rises above
it. -/
def State.logWrite (s : State) (t : Nat) (b : Bundle) (kind : StoreKind) (pages : List (Nat × List (Nat × List Byte))) : State :=
  let c := s.ctx t
  let es := pages.map fun p => LogEntry.mk c.who c.asid p.1 b.pos b.pc kind p.2 c.ltime
  if es == [] then s
  else ((s.tick.modCore (coreOf t) fun k => { k with log := k.log ++ es }).modCtx t fun c =>
    { c with ltime := c.ltime + 1 + Config.freeTick s.freeIx })

/-- Performs a committed store of a context: system-scope parts leave on links as one access, logged pages go to the side log,
and the rest is one write (R87, R198, R242, R415). -/
def State.commitStore (s : State) (t : Nat) (b : Bundle) (segs : List (Nat × List Byte)) : State :=
  let c := s.ctx t
  let die := dieOf (coreOf t)
  let ranges := segs.map fun g => (g.1, g.2.length)
  let kind := s.kindOf c.who c.asid ranges
  if kind == .peer || kind == .host then
    s.opNew
      { id := 0, who := some c.who, asid := c.asid, pos := b.pos, pc := b.pc, tag := none, time := c.ltime, wait := none,
        denied := false, failed := false, ports := s.portsFor (((segs.head?).map (·.1)).getD 0), kind := .sysWrite segs }
  else
    let logged := (pagesOf ranges).filter fun p => kind == .generic && s.page c.asid die p.2 false true false == .awaits
    let s := logged.foldl (fun s p => s.needPage c.asid p.2 true) s
    let s := s.logWrite t b .store (logged.map fun p => (p.1, inPage p.1 segs))
    let rest := notIn (logged.map (·.1)) segs
    let ranges := rest.map fun g => (g.1, g.2.length)
    let s := s.mark c.who c.asid die ranges true
    let (s, lt) := s.accessTime (some (coreOf t)) c.who c.asid die (s.ctx t).ltime ranges true
    let s := s.modCtx t fun c => { c with ltime := max c.ltime lt }
    s.writeParts (rest.flatMap fun g => s.partsOf c.who c.asid die g.1 g.2) lt

/-! ### Read-modify-write operations (Table 8-3) -/

/-- The new value from old m and operand b, over n bits; .fadd has 32. -/
def amoValue (op n m b : Nat) : Nat :=
  match op with
  | 0 => (m + b) % 2 ^ n
  | 1 => if sext m n ≤ sext b n then m else b
  | 2 => if sext b n ≤ sext m n then m else b
  | 3 => if m ≤ b then m else b
  | 4 => if b ≤ m then m else b
  | 5 => Nat.land m b
  | 6 => Nat.lor m b
  | 7 => Nat.xor m b
  | 9 => fpAdd .fp32 .rne m b
  | _ => b

/-! ### What a later slot of the same bundle sees (R6, R234) -/

/-- Device memory with what an effect of an earlier slot of the bundle will have written. -/
def State.viewEffect (s : State) (w : Who) (asid die : Nat) : Effect → State
  | .store segs _ => s.put (segs.flatMap fun g => s.partsOf w asid die g.1 g.2)
  | .amo op wide _ va operand _ =>
    let n := if wide then 8 else 4
    s.put (s.partsOf w asid die va (leBytes n (amoValue op (8 * n) (leNat (s.readSeg w asid die (va, n))) operand)))
  | .cas wide _ va expected new _ =>
    let n := if wide then 8 else 4
    if leNat (s.readSeg w asid die (va, n)) == expected then s.put (s.partsOf w asid die va (leBytes n new)) else s
  | _ => s

/-- Device memory as a later slot of a bundle sees it: with the writes of its ADR word. -/
def State.adrView (s : State) (t : Nat) (b : Bundle) : State :=
  let c := s.ctx t
  (b.effects.filter fun e => e.1 == 1).foldl (fun s e => s.viewEffect c.who c.asid (dieOf (coreOf t)) e.2) s

/-- A memory that holds the bytes of a list from 0 upward. -/
def Mem.ofBytes (bs : List Byte) : Mem := Mem.entries 0 bs

def tileSize : Nat := 65536

/-- The columns of a matrix of n columns. -/
def columnsOf {α : Type} (n : Nat) (rows : List (List α)) : List (List α) :=
  (List.range n).map fun c => rows.filterMap fun r => r[c]?

/-- Rows of 256 elements of e bytes, with their columns laid one after another (TLD.t and TST.t, R182). -/
def transposed (e : Nat) (rows : List (List Byte)) : List (List Byte) :=
  (columnsOf 256 (rows.map (groupsOf e 256))).map List.flatten

def Core.tile (k : Core) (j : Nat) : Mem := SMap.getD k.tiles j []

def Core.setTile (k : Core) (j : Nat) (m : Mem) : Core := { k with tiles := SMap.set k.tiles j m }

/-- The rows of bytes that a TST takes from a tile (R182). -/
def Core.stored (k : Core) (tile : Nat) (tr : Bool) (size : Nat) : List (List Byte) :=
  let data := groupsOf (256 * size) (256 / size) ((k.tile tile).range 0 tileSize)
  if tr then transposed size data else data

/-- Device memory as slot 7 of a bundle sees it: with the writes of its ADR word and of a TST that waits for acceptance. -/
def State.mtxView (s : State) (t : Nat) (b : Bundle) : State :=
  let v := s.adrView t b
  match b.mtx with
  | some (.tst tile rows tr size) =>
    let c := s.ctx t
    v.put (((rows.map (·.1)).zip ((s.core (coreOf t)).stored tile tr size)).flatMap fun g =>
      v.partsOf c.who c.asid (dieOf (coreOf t)) g.1 g.2)
  | _ => v

/-- The pages to which the ADR word of a bundle stores, and which await mapping or collapse. -/
def State.adrPages (s : State) (t : Nat) (b : Bundle) : List Nat :=
  let c := s.ctx t
  (b.effects.filter fun e => e.1 == 1).flatMap fun e => match e.2 with
    | .store segs _ => ((pagesOf (segs.map fun g => (g.1, g.2.length))).filter fun p =>
        s.page c.asid (dieOf (coreOf t)) p.2 false true false == .awaits).map (·.1)
    | _ => []

/-- The pages that a read of a later slot must wait for, since the ADR word of its bundle stores to them. -/
def State.adrAwaits (s : State) (t : Nat) (b : Bundle) (segs : List Seg) : List (Nat × Nat) :=
  (pagesOf segs).filter fun p => p.2 < 2 ^ 55 && (s.adrPages t b).contains p.1

/-! ### Waiting contexts -/

/-- Whether every word of a bundle has executed or trapped; a matrix word that has only started does not hold back the
report of another word's trap, since it cannot be accepted any more (R177, R447). -/
def Bundle.settled (b : Bundle) : Bool :=
  b.words.all fun w => w.progress == .executed || w.progress == .trapped ||
    (w.progress == .started && w.slot == 5 && b.traps != [])

/-- A state from which a trap takes a context to FAULTED (Table 4-3). -/
def CtxState.traps (x : CtxState) : Bool := x == .running || x == .blocked || x == .pageWait

/-- The first pending trap that can be taken at position n: an asynchronous one before the fault of the fetch there (R384). -/
def firstDue (n : Nat) (ts : List Trap) : Option Trap :=
  ((ts.filter (·.isAsync)).find? fun t => t.due ≤ n) <|> ts.find? fun t => t.due ≤ n

/-- Takes a pending trap of a context at position n, whose bundle stands at pc. -/
def State.takePending (s : State) (t : Nat) (tr : Trap) (n pc : Nat) : State :=
  (s.modCtx t fun c => { c with pending := c.pending.erase tr }).suspend t tr n pc n pc

/-- A context in PAGE-WAIT, or BLOCKED for a reason other than DRAIN, takes a pending trap at once (R384). -/
def Context.waits (c : Context) : Bool := c.state == .pageWait || (c.state == .blocked && c.block != some .drain)

/-- Takes the trap of a context's oldest bundle once every word of it has executed or trapped (R447); that of a READY context
is taken when it runs. An asynchronous trap that a waiting context has pending comes first (R384). -/
def State.takeTraps (s : State) (t : Nat) : State :=
  match (s.ctx t).inflight with
  | [] => s
  | b :: _ =>
    match lowestTrap b.traps, (firstDue 0 (s.ctx t).pending).filter fun _ => (s.ctx t).waits with
    | some tr, none => if b.settled && (s.ctx t).state.traps then s.suspend t tr b.pos b.pc b.pos b.pc else s
    | some _, some tr => if b.settled then s.takePending t tr b.pos b.pc else s
    | none, _ => s

/-- A wait once the pages of a range are served: it is over, and its word judged anew, with its first page, which alone decides
what becomes of the word (R183). -/
def Wait.without (p n : Nat) : Wait → Option Wait
  | .page cls ps =>
    let served := fun (x : Nat × Nat) => decide (p ≤ x.1) && decide (x.1 < p + n)
    if ps.head?.all served then none else some (.page cls (ps.filter fun x => !served x))
  | w => some w

/-- A word when page p cannot be served: it traps with cause PAGE where it waits for that page first, and keeps the refusal
where it waits for another before it (R183). -/
def SlotWord.fail (w : SlotWord) (p level : Nat) : SlotWord × Option Trap :=
  match w.wait with
  | some (.page cls ((q, a) :: ps)) =>
    if q == p then ({ w with progress := .trapped, wait := none }, some (Trap.mk cls 4 w.slot a w.raw level 0 false 0))
    else if ps.any fun x => x.1 == p then
      ({ w with wait := some (.page cls ((q, a) :: ps.filter fun x => x.1 != p)), refused := w.refused ++ [(p, level)] }, none)
    else (w, none)
  | _ => (w, none)

/-- A context of Table 4-3 whose reason is released becomes READY. -/
def Context.release (c : Context) : Context :=
  if c.state == .pageWait || c.state == .blocked then { c with state := .ready, reason := 0, arg := 0, block := none } else c

/-- Whether no word of any bundle in flight waits. -/
def Context.unwaiting (c : Context) : Bool := c.fetchWait.isNone && c.inflight.all fun b => b.words.all fun w => w.wait.isNone

def Wait.isLog : Wait → Bool
  | .log _ => true
  | .page .. => false

/-- Whether some word in flight waits for a page, or for room in the log. -/
def Context.waitsFor (c : Context) (log : Bool) : Bool :=
  c.inflight.any fun b => b.words.any fun w => w.wait.any fun x => x.isLog == log

/-- Whether the reason of a context in PAGE-WAIT is over (Table 4-2). -/
def Context.waitOver (c : Context) : Bool :=
  if c.reason == 10 then c.fetchWait.isNone else !c.waitsFor (c.reason == 9)

/-- A context in PAGE-WAIT whose reason is over becomes READY. -/
def Context.endWait (c : Context) : Context := if c.state == .pageWait && c.waitOver then c.release else c

/-- Takes the pages of a range out of what a context waits for. -/
def Context.served (c : Context) (p n : Nat) : Context :=
  { c with
    inflight := c.inflight.map fun b => { b with words := b.words.map fun w =>
      { w with wait := w.wait.bind (Wait.without p n) } }
    fetchWait := c.fetchWait.filter fun q => !(decide (p ≤ q) && decide (q < p + n))
    fault := c.fault.map fun f => { f with wait := f.wait.filter fun q => !(decide (p ≤ q) && decide (q < p + n)) } }

/-- A parked play of an operation whose page has been served as R286 asks is READY. -/
def Op.unpark (s : State) (o : Op) : Op :=
  match o.kind with
  | .play .parked num va arg book words slot =>
    match s.page o.asid 0 va true true false with
    | .ok _ e _ _ => if pteBank e then o else { o with kind := .play .ready num va arg book words slot }
    | _ => o
  | _ => o

/-- Puts an operation's number into a list by the ticket of its issuer. -/
def insertTicket (x : Nat × Nat) : List (Nat × Nat) → List (Nat × Nat)
  | [] => [x]
  | y :: ys => if y.1 ≤ x.1 then y :: insertTicket x ys else x :: y :: ys

/-- The numbers of operations by the tickets of their issuers. -/
def State.byTicket (s : State) (os : List Op) : List Nat :=
  ((os.map fun o => ((o.who.bind s.ticketOf).getD (2 ^ 32), o.id)).foldl (fun acc x => insertTicket x acc) []).map (·.2)

/-- Plays that have become READY at one time follow those that were, by core and then context (R279); the play of an issuer
that is pre-empted, and so on no core, comes after those that stand on one (the model's choice, assumption 114). -/
def State.playsReady (s : State) (os : List Op) : State := { s with readyPlays := s.readyPlays ++ s.byTicket os }

/-- n pages from p of an address space are mapped and visible: what waits for them goes on (Table 10-5). -/
def State.releasePages (s : State) (asid p n : Nat) : State :=
  let mine := fun (o : Op) => o.wait.any fun x => x.1 == asid && decide (p ≤ x.2) && decide (x.2 < p + n)
  let freed := (s.ops.filter mine).map fun o => Op.unpark s { o with wait := none }
  let s : State := { s with
    ctxs := s.ctxs.map fun e => if e.2.asid == asid then (e.1, (e.2.served p n).endWait) else e
    ops := s.ops.map fun o => if mine o then Op.unpark s { o with wait := none } else o }
  s.playsReady (freed.filter fun o => match o.kind with
    | .play .ready .. => true
    | _ => false)

/-- The fault of a fetch (Table 3-15 steps 2 and 5). -/
def fetchTrap (cause addr level aux : Nat) : Trap :=
  { cls := 5, cause := cause, slot := 8, addr := addr, aux := aux, level := level, code := 0, isAsync := false, due := 0 }

/-- AUX of the fault of a waiting fetch: the header word, where the failed page does not hold it (Table 18-3). -/
def State.fetchAux (s : State) (t p : Nat) : Nat :=
  let c := s.ctx t
  if c.pc / 65536 == p then 0 else leNat (s.codeBytes c.who c.pc 4)

/-- The words of a context that wait for page p trap with cause PAGE, or keep its refusal. -/
def Context.failWords (c : Context) (p level : Nat) : Context :=
  { c with inflight := c.inflight.map fun b =>
      let ws := b.words.map fun w => w.fail p level
      { b with words := ws.map (·.1), traps := b.traps ++ ws.filterMap (·.2) } }

/-- An operation that waits for a page is refused it. -/
def Op.refuse (asid p : Nat) (o : Op) : Op :=
  if o.wait == some (asid, p) then { o with wait := none, denied := true, refused := o.refused ++ [p] } else o

/-- A context whose fetch cannot be served takes FETCH_FAULT once every earlier bundle has committed (R88), and after an
asynchronous trap that it has pending there, from which it fetches anew (R384). -/
def State.failFetch (s : State) (t p level : Nat) : State :=
  let c := s.ctx t
  let tr := fetchTrap 4 (p * 65536) level (s.fetchAux t p)
  if c.inflight == [] then
    match firstDue c.pos c.pending with
    | some x => s.takePending t x c.pos c.pc
    | none => s.suspend t tr c.pos c.pc c.pos c.pc
  else s.modCtx t fun c => { c with fetchWait := none, pending := c.pending ++ [{ tr with due := c.pos }] }

/-- A page cannot be served: waiting loads and tile accesses take cause PAGE, a waiting fetch takes FETCH_FAULT, and
operations and fault deliveries that wait for the page are refused it (Table 10-5, R382, R445). -/
def State.failPage (s : State) (asid p level : Nat) : State :=
  let s : State := { s with ops := s.ops.map (Op.refuse asid p) }
  s.ctxs.foldl (fun s e =>
    let c := e.2
    if c.asid != asid then s
    else if c.fault.any (fun f => f.wait == some p) then
      s.modCtx e.1 fun c => { c with fault := c.fault.map fun f => { f with wait := none, refused := some p } }
    else
      let s := (s.modCtx e.1 fun c => c.failWords p level).takeTraps e.1
      if (s.ctx e.1).state == .pageWait && (s.ctx e.1).fetchWait == some p then s.failFetch e.1 p level
      else s.modCtx e.1 Context.endWait) s

/-! ### Replay (R257) -/

/-- An asynchronous trap: taken at the next boundary of the context, or at once where it waits (R384). -/
def asyncTrap (cls cause addr aux due : Nat) : Trap :=
  { cls := cls, cause := cause, slot := 8, addr := addr, aux := aux, level := 0, code := 0, isAsync := true, due := due }

/-- Hands an asynchronous trap to an instance; one that has ended takes none. -/
def State.pend (s : State) (w : Who) (tr : Trap) : State :=
  if (s.whoCtx w).isSome then s.modWho w fun c => { c with pending := c.pending ++ [tr] } else s

/-- A write of an instance to a window has failed, under its operation's number (R414). -/
def State.loseWrite (s : State) (w : Who) (id : Nat) : State :=
  s.modWho w fun c => { c with lostWrite := some ((c.lostWrite.map (min id)).getD id) }

/-- A dropped write of core k: LOST for its context, or an event where the context has ended (R257). -/
def State.dropWrite (s : State) (k : Nat) (e : LogEntry) : State :=
  let addr := e.page * 65536 + ((e.segs.head?).map (·.1)).getD 0
  if (s.whoCtx e.who).isSome then s.pend e.who (asyncTrap 6 5 addr e.pc 0)
  else s.report 9 k 0 [addr, e.asid]

/-- Orders entries by logical time, then core, then log order. -/
def insertLog (x : Nat × LogEntry) : List (Nat × LogEntry) → List (Nat × LogEntry)
  | [] => [x]
  | y :: ys => if y.2.time ≤ x.2.time then y :: insertLog x ys else x :: y :: ys

/-- The time of a replayed write of some ranges of its page: none of it for a BANK line (R233). -/
def State.replayTime (s : State) (pte base time : Nat) (ranges : List Seg) : State × Nat :=
  if pteBank pte then (s, time)
  else ranges.foldl (fun (r : State × Nat) g => r.1.writeTime none r.2 (base + g.1) g.2) (s, time)

/-- Writes one logged write into its page, or drops it (R249, R257). An error in the word that a RED reads is reported, and
stays (R385). -/
def State.replayOne (s : State) (k : Nat) (e : LogEntry) (drop : Bool) : State :=
  match s.page e.asid 0 (e.page * 65536) false true false with
  | .ok pa pte _ addr =>
    if drop then s.dropWrite k e
    else
      let s := (s.reportWalk e.asid (e.page * 65536)).orPte addr 0x30
      let place := s.leafPlace e.asid pte
      match e.kind with
      | .store =>
        let (s, lt) := s.replayTime pte pa e.time (e.segs.map fun g => (g.1, g.2.length))
        s.writeParts (e.segs.map fun g => (place, pa + g.1, g.2)) lt
      | .red op wide operand =>
        let n := if wide then 8 else 4
        let off := ((e.segs.head?).map (·.1)).getD 0
        let m := leNat (s.peek place (pa + off) n)
        let bad := s.upsetIn place (pa + off) n
        let kept := s.upsets
        let (s, lt) := s.replayTime pte pa e.time [(off, n)]
        let s := s.writeParts [(place, pa + off, leBytes n (amoValue op (8 * n) m operand))] lt
        let s := match bad with
          | some u => { s.reportUpset u with upsets := kept }
          | none => s
        ({ s with floor := max s.floor lt } : State).modWho e.who fun c => { c with redTime := max c.redTime lt }
  | _ => s.dropWrite k e

/-- Words that wait for room in their core's log go on where there is room. -/
def State.logServed (s : State) (t : Nat) (c : Context) : Context :=
  { c with inflight := c.inflight.map fun b => { b with words := b.words.map fun w =>
      match w.wait with
      | some (.log need) => if need ≤ s.logRoom (coreOf t) then { w with wait := none } else w
      | _ => w } }

/-- Replays, or drops, the side-log entries of n pages from p, and lets contexts that wait for room go on. -/
def State.replay (s : State) (asid p n : Nat) (drop : Bool) : State :=
  let mine := fun (e : LogEntry) => e.asid == asid && decide (p ≤ e.page) && decide (e.page < p + n)
  let all := s.cores.flatMap fun k => (k.2.log.filter mine).map fun e => (k.1, e)
  let sorted := all.foldl (fun acc e => insertLog e acc) []
  let s : State := { s with cores := s.cores.map fun k => (k.1, { k.2 with log := k.2.log.filter fun e => !mine e }) }
  let s := sorted.foldl (fun s e => s.replayOne e.1 e.2 drop) s
  { s with ctxs := s.ctxs.map fun e => (e.1, (s.logServed e.1 e.2).endWait) }

/-- Whether any core's log holds entries of n pages from p. -/
def State.logged (s : State) (asid p n : Nat) : Nat :=
  (s.cores.flatMap fun k => k.2.log.filter fun e => e.asid == asid && decide (p ≤ e.page) && decide (e.page < p + n)).length

end Sys2Proof.Machine
end

