-- ==== Sys2Proof/Machine/Flags.lean ====
section
/-!
DEFINITION. The status words that programs read: the context CSRs (Tables 4-6 to 4-12), the status words of the result
queues, and the status registers.
-/
namespace Sys2Proof.Machine

/-- Field SLACK as written: 0 to 16 (R85, R121). -/
def slackValue (n : Nat) : Word := BitVec.ofNat 64 (min n 16)

/-- CSTAT as a running context reads it (Table 4-9): STATE 2, REASON 0. -/
def cstatOf (state reason arg ctx : Nat) (handler : Bool) : Nat :=
  state + (if handler then 8 else 0) + reason * 2 ^ 4 + arg * 2 ^ 8 + ctx * 2 ^ 16

/-- The CSR at an address of Table 4-7 as the executing word reads it (R83). -/
def State.csr (s : State) (address : Nat) : Word :=
  let c := s.cur
  let m := s.focus.pos
  match address with
  | 0x000 => BitVec.ofNat 64 ((s.curBundle.map (·.pc)).getD c.pc)
  | 0x001 => BitVec.ofNat 64 (cstatOf 2 0 0 (s.focus.ticket % 4) c.handler)
  | 0x002 => c.readSlackr m
  | 0x003 => c.nbv
  | 0x004 => c.readPbk m
  | 0x008 => c.tagsCsr
  | 0x009 => c.terrCsr
  | 0x00A => BitVec.ofNat 64 c.ltime
  | 0x00B => c.town
  | 0x010 => c.core
  | 0x011 => c.inst
  | 0x012 => c.grpb
  | 0x013 => c.grps
  | 0x014 => c.argp
  | 0x015 => c.fltp
  | 0x016 => c.plst
  | 0x020 => BitVec.ofNat 64 (bits s.fcmd.toNat 3 3 * 8)
  | _ => 0

/-- CORE of a core (Table 4-11). -/
def coreCsr (k : Nat) : Word := BitVec.ofNat 64 (k % 32 + k / 32 * 2 ^ 8 + k * 2 ^ 16)

end Sys2Proof.Machine
end

