-- ==== Sys2Proof/Machine/Operands.lean ====
section
/-!
DEFINITION. Operand forms: how a meaning ends, the readings of scalar operands, addresses, and the elements, windows and
predicates of vector operands (R138 to R142).
-/
namespace Sys2Proof.Machine

/-- What a meaning answers. -/
abbrev Out := Host.Outcome State Fault Refusal

/-- The executing word is done: it has executed unless it has trapped, waits or has only started. -/
def State.ok (s : State) : Out := .next s.endWord

/-! ### Waits (R73, Table 4-2) -/

/-- The engine commands of R123. -/
def Instr.isEngineCommand : Instr → Bool
  | .cpy .. => true
  | .play .. => true
  | .pbset .. => true
  | .tq .. => true
  | .tbldef .. => true
  | .tbldefDrop .. => true
  | .trepl .. => true
  | .rset .. => true
  | .rsetDrop .. => true
  | .rins .. => true
  | .rdel .. => true
  | .rage .. => true
  | .rsel .. => true
  | .rselInfo .. => true
  | .pfree .. => true
  | .pseal .. => true
  | .pattr .. => true
  | .tspawn .. => true
  | .binit .. => true
  | .binitFree .. => true
  | .coll .. => true
  | _ => false

def Instr.isRed : Instr → Bool
  | .red .. => true
  | _ => false

/-- The operations in flight that FENCE.eng waits for. -/
def OpKind.isEngine : OpKind → Bool
  | .red .. => false
  | .barr .. => false
  | .sysLoad .. => false
  | .sysWrite .. => false
  | .sysAmo .. => false
  | .hostWrite .. => false
  | .act3 .. => false
  | .mtx .. => false
  | .scrub .. => false
  | _ => true

def OpKind.isRed : OpKind → Bool
  | .red .. => true
  | _ => false

/-- The instruction of a slot word. -/
def SlotWord.instr (w : SlotWord) : Option Instr :=
  match decodeSpace (slotSpace w.slot) w.raw with
  | .word i _ => some i
  | .bad => none

/-- Whether an uncommitted bundle holds an instruction of a kind. -/
def Context.uncommitted (c : Context) (f : Instr → Bool) : Bool :=
  c.inflight.any fun b => b.words.any fun w => (w.instr.map f).getD false

/-- Whether every engine command, or RED, of a context's dispatched bundles has committed and completed (Table 5-6). -/
def State.fenceHolds (s : State) (c : Context) (eng red : Bool) : Bool :=
  !((eng && (c.uncommitted Instr.isEngineCommand || s.ops.any fun o => o.who == some c.who && o.kind.isEngine)) ||
    (red && (c.uncommitted Instr.isRed || (s.ops.any fun o => o.who == some c.who && o.kind.isRed) ||
      s.cores.any fun k => k.2.log.any fun e => e.who == c.who && e.kind != .store)))

/-- The group index of an instance (Table 16-1). -/
def Context.gidx (c : Context) : Nat := bits c.grpb.toNat 47 32

/-- The group barrier of an instance. -/
def State.groupBarrier (s : State) (c : Context) : Barrier :=
  match s.launchOf c.who with
  | some l => SMap.getD l.groups c.gidx Barrier.free
  | none => Barrier.free

def State.deviceBarrier (s : State) (b : Nat) : Barrier := SMap.getD s.barriers b Barrier.free

/-- Whether a waiting condition holds, can still come to hold (with the lowest tag awaited), or never can. -/
inductive Wait.Verdict where
  | holds
  | awaits (arg : Nat)
  | never
  deriving DecidableEq, Repr

/-- The lowest tag of a mask for which `f` holds. -/
def Context.lowestTag (c : Context) (mask : Word) (f : TagState → Bool) : Option Nat :=
  (List.range 64).find? fun g => mask.getLsbD g && f (c.tag g)

/-- A tag's state with commands outstanding (Table 8-4). -/
def TagState.pending (t : TagState) : Bool := !t.set && decide (0 < t.count)

/-- Whether comparator k is selected by a mask of R380. -/
def selected (mask k : Nat) : Bool := mask % 256 == 0 || mask / 2 ^ k % 2 == 1

/-- The oldest token of a context among selected comparators. -/
def State.token (s : State) (t mask : Nat) : Option Token :=
  (s.core (coreOf t)).tokens.find? fun x => x.owner == (s.ctx t).who && selected mask x.comp && x.taken.isNone

/-- Whether the first n held entries of a queue are filled. -/
def Context.ready (c : Context) (q n : Nat) : Bool :=
  decide (n ≤ (c.held q).length) && ((c.held q).take n).all (·.filled)

/-- Whether what a context waits for has come about. -/
def State.blockHolds (s : State) (t : Nat) (c : Context) : Block → Bool
  | .loadq q n => c.ready q n
  | .result q => c.ready q 1
  | .tagAny mask => (c.tagsCsr &&& mask) != 0
  | .tagAll mask => (c.tagsCsr &&& mask) == mask
  | .fence eng red => s.fenceHolds c eng red
  | .barrier b ph _ _ =>
    let x := s.deviceBarrier b
    x.state != 0 && x.asid == c.asid && x.ph != ph
  | .group ph _ => (s.groupBarrier c).ph != ph
  | .wake mask => (s.token t mask).isSome
  | .drain => false

/-- The time of the flip that a BWAIT has found (Table 9-4). -/
def State.flipTime (s : State) (c : Context) (group : Bool) (b : Nat) : Nat :=
  if group then (s.groupBarrier c).flipTime else (s.deviceBarrier b).flipTime

/-- What a barrier's flip leaves with a context that waits for it, which no later flip or BINIT.free undoes: the position of
the waiting bundle and the time of the flip (R374, R375). -/
def State.metBy (s : State) (c : Context) : Block → Option (Nat × Nat)
  | .barrier b _ _ pos => some (pos, s.flipTime c false b)
  | .group _ pos => some (pos, s.flipTime c true 0)
  | _ => none

/-- ARG while a context waits on: the lowest tag that is still awaited (R216). -/
def Context.awaitedArg (c : Context) : Block → Nat
  | .tagAny mask => (c.lowestTag mask (·.pending)).getD c.arg
  | .tagAll mask => (c.lowestTag mask (·.pending)).getD c.arg
  | _ => c.arg

/-- A BLOCKED context after some event: READY once its reason is released, or waiting on (R73). -/
def State.recheck (s : State) (t : Nat) (c : Context) : Context :=
  match c.block with
  | some b =>
    if c.state != .blocked then c
    else if s.blockHolds t c b then { c.release with met := s.metBy c b }
    else { c with arg := c.awaitedArg b }
  | none => c

/-- The waiting bundle of a BWAIT (R374). -/
def Block.bwaitPos : Block → Option Nat
  | .barrier _ _ _ pos => some pos
  | .group _ pos => some pos
  | _ => none

/-- A flip that happens while a context is SAVED is kept for its waiting bundle until it resumes (R75, R369). -/
def State.recheckSaved (s : State) (c : Context) : Context :=
  match c.block with
  | some b =>
    if b.bwaitPos.isSome && b.bwaitPos != c.met.map (·.1) && s.blockHolds 0 c b then { c with met := s.metBy c b } else c
  | none => c

/-- BLOCKED contexts whose reason is released become READY (R73), and SAVED ones keep a flip that releases them (R75). -/
def State.releaseBlocked (s : State) : State :=
  { s with
    ctxs := s.ctxs.map fun e => (e.1, s.recheck e.1 e.2)
    launches := s.launches.map fun e => (e.1, { e.2 with saved := e.2.saved.map fun x => (x.1, s.recheckSaved x.2) }) }

/-- A step without encoding is done: waits that it has met are released. -/
def State.done (s : State) : Out := .next s.releaseBlocked

/-- A result computed outside its bundle lands in its issuer, wherever that is (R84 a, R393). -/
def State.landWho (s : State) (w : Who) (id : Nat) (l : Option Landing) : State :=
  s.modWho w fun c =>
    let c : Context := { c with awaited := c.awaited.filter fun a => a.op != id }
    match l with
    | some l => c.land1 l
    | none => c

/-- LTIME rises to a time (R231). -/
def State.afterTime (s : State) (time : Nat) : State := s.modCur fun c => { c with ltime := max c.ltime time }

/-! ### Scalar operands -/

/-- A scalar result of latency `lat` (R97). -/
def State.setS (s : State) (lat : Nat) (d : BitVec 6) (x : Word) : State := s.land lat (.s d.toNat x)

/-- An index result. -/
def State.setI (s : State) (lat : Nat) (d : BitVec 6) (x : Index) : State := s.land lat (.i d.toNat x)

/-- A predicate result. -/
def State.setP (s : State) (lat : Nat) (d : Nat) (x : Pred) : State := s.land lat (.p d x)

/-- The signed or unsigned reading of an n-bit value that a field bit selects (R103). -/
def reading (u : BitVec 1) {n : Nat} (x : BitVec n) : Int := if u == 1 then (x.toNat : Int) else x.toInt

/-- An integer taken mod 2^n (R97). -/
def ofI (n : Nat) (x : Int) : BitVec n := BitVec.ofInt n x

/-- The low 32 bits as FP32 source, and an FP32 result (R111). -/
def f32 (x : Word) : Nat := x.toNat % 2 ^ 32

/-- An effective address, modulo 2^64 (R196). -/
def eaOf (base : Word) (off : Int) : Nat := (base + BitVec.ofInt 64 off).toNat

/-- Shifts and rotations by k below the width (R102, R109, R130): kinds .sll, .srl, .sra, .rotl. -/
def shiftKind {n : Nat} (kind : Nat) (x : BitVec n) (k : Nat) : BitVec n :=
  match kind with
  | 0 => x <<< k
  | 1 => x >>> k
  | 2 => x.sshiftRight k
  | _ => if k == 0 then x else (x <<< k) ||| (x >>> (n - k))

/-- Leading zeros of the low n bits (R107). -/
def leadingZeros : Nat → Nat → Nat
  | 0, _ => 0
  | n + 1, x => if x / 2 ^ n % 2 == 1 then 0 else 1 + leadingZeros n x

/-- Trailing zeros of the low n bits (R107). -/
def trailingZeros : Nat → Nat → Nat
  | 0, _ => 0
  | n + 1, x => if x % 2 == 1 then 0 else 1 + trailingZeros n (x / 2)

/-- All ones or all zeros (R132, R136). -/
def predOf (b : Bool) : Pred := if b then BitVec.allOnes 128 else 0

/-! ### Windows, elements and predicates (R138 to R142) -/

/-- The window of a W code, in bits. -/
def windowBits (w : Nat) : Nat := 256 * 2 ^ w

/-- The n lowest elements of e bits. -/
def elems (e : Nat) : Nat → Nat → List Nat
  | 0, _ => []
  | n + 1, x => x % 2 ^ e :: elems e n (x / 2 ^ e)

/-- Elements of e bits, lowest first, as one number. -/
def joined (e : Nat) : List Nat → Nat
  | [] => 0
  | x :: xs => x % 2 ^ e + 2 ^ e * joined e xs

/-- Element j of width e is active under a predicate (R140). -/
def active (p : Pred) (e j : Nat) : Bool := p.getLsbD (j * e / 8)

/-- The activity of n elements of width e. -/
def actives (p : Pred) (e n : Nat) : List Bool := (List.range n).map (active p e)

/-- The destination as the issuing bundle reads it; a queue has none. -/
def State.vold (s : State) (d : BitVec 6) : Nat := if d.toNat < 60 then (s.cur.readV s.focus.pos d.toNat).toNat else 0

/-- A whole vector result of a W-bit window `x` (R139, R142). -/
def State.vwindow (s : State) (lat : Nat) (d : BitVec 6) (W x : Nat) : State :=
  s.vres lat d.toNat W (BitVec.ofNat 1024 (s.vold d / 2 ^ W * 2 ^ W + x % 2 ^ W))

/-- The elements of a result after R141: an inactive one is zero on a queue or under .z, else the destination's. -/
def mergeElems (zero : Bool) : List Bool → List Nat → List Nat → List Nat
  | b :: bs, x :: xs, o :: os => (if b then x else if zero then 0 else o) :: mergeElems zero bs xs os
  | _, xs, _ => xs

/-- Lands predicated elements (R139, R141). -/
def State.vput (s : State) (lat : Nat) (d : BitVec 6) (z : Bool) (p : Pred) (e W : Nat) (xs : List Nat) : State :=
  let zero := z || decide (60 ≤ d.toNat)
  s.vwindow lat d W (joined e (mergeElems zero (actives p e (W / e)) xs (elems e (W / e) (s.vold d))))

/-- The elements of a vector source operand. -/
def State.velems (s : State) (k : Nat) (r : BitVec 6) (e W : Nat) : List Nat := elems e (W / e) (s.rv k r.toNat).toNat

/-- A predicated element-wise instruction of two sources. -/
def State.vmap2 (s : State) (lat : Nat) (d a b : BitVec 6) (p : BitVec 3) (w e : Nat) (f : Nat → Nat → Nat) : Out :=
  let W := windowBits w
  (s.vput lat d false (s.rp p.toNat) e W ((s.velems 0 a e W).zipWith f (s.velems 1 b e W))).ok

/-- A predicated element-wise instruction of one source. -/
def State.vmap1 (s : State) (lat : Nat) (d a : BitVec 6) (z : Bool) (p : BitVec 3) (w e : Nat) (f : Nat → Nat) : Out :=
  let W := windowBits w
  (s.vput lat d z (s.rp p.toNat) e W ((s.velems 0 a e W).map f)).ok

/-- Writes the byte bits of active elements of a predicate; every other bit keeps its value (R147). -/
def setPred (p old : Pred) (e : Nat) (cs : List Bool) : Pred :=
  BitVec.ofNat 128 ((List.range 128).foldl (fun x k =>
    let j := k / (e / 8)
    let b := match cs[j]? with
      | some c => if active p e j then c else old.getLsbD k
      | none => old.getLsbD k
    if b then x + 2 ^ k else x) 0)

/-- A floating format by a type code, with the mark that code 111 means E5M2 (R53, R151). -/
def fmtOf (t : Nat) (e5 : Bool) : Fmt :=
  match t with
  | 4 => .bf16
  | 5 => .fp16
  | 6 => .fp32
  | _ => if e5 then .e5m2 else .e4m3

end Sys2Proof.Machine
end

