-- ==== Sys2Proof/Machine/Index.lean ====
section
/-!
DEFINITION. The IDX slot: 32-bit index arithmetic, compare-and-advance, counts, survivors, the hash and predicate
construction (R129 to R137).
-/
namespace Sys2Proof.Machine

def execIadd (d a b : BitVec 6) (s : State) : Out := (s.setI 1 d (s.ri a.toNat + s.ri b.toNat)).ok
def execIsub (d a b : BitVec 6) (s : State) : Out := (s.setI 1 d (s.ri a.toNat - s.ri b.toNat)).ok
def execIaddi (d a : BitVec 6) (i : BitVec 14) (s : State) : Out := (s.setI 1 d (s.ri a.toNat + i.signExtend 32)).ok
def execIand (d a b : BitVec 6) (s : State) : Out := (s.setI 1 d (s.ri a.toNat &&& s.ri b.toNat)).ok
def execIor (d a b : BitVec 6) (s : State) : Out := (s.setI 1 d (s.ri a.toNat ||| s.ri b.toNat)).ok
def execImin (d a b : BitVec 6) (u : BitVec 1) (s : State) : Out :=
  (s.setI 1 d (if reading u (s.ri a.toNat) ≤ reading u (s.ri b.toNat) then s.ri a.toNat else s.ri b.toNat)).ok
def execImax (d a b : BitVec 6) (u : BitVec 1) (s : State) : Out :=
  (s.setI 1 d (if reading u (s.ri b.toNat) ≤ reading u (s.ri a.toNat) then s.ri a.toNat else s.ri b.toNat)).ok
def execIshi (d a : BitVec 6) (k : BitVec 2) (n : BitVec 5) (s : State) : Out :=
  (s.setI 1 d (shiftKind k.toNat (s.ri a.toNat) n.toNat)).ok

/-- IMOV: `y` is F[0], the direction; `x` is F[1], the extension (Table 5-8). -/
def execImov (d a : BitVec 6) (x y : BitVec 1) (s : State) : Out :=
  (if y == 0 then s.setI 1 d ((s.rs a).setWidth 32)
   else if x == 1 then s.setS 1 d ((s.ri a.toNat).zeroExtend 64)
   else s.setS 1 d ((s.ri a.toNat).signExtend 64)).ok

/-- The cursor pair after one step on keys x and y (R132). -/
def cursors (pair x y : Index) : Index :=
  let ca := pair.toNat % 2 ^ 16
  let cb := pair.toNat / 2 ^ 16
  let ca := if x.toNat ≤ y.toNat then (ca + 1) % 2 ^ 16 else ca
  let cb := if y.toNat ≤ x.toNat then (cb + 1) % 2 ^ 16 else cb
  BitVec.ofNat 32 (cb * 2 ^ 16 + ca)

def execIcad (d a b : BitVec 6) (p : BitVec 3) (s : State) : Out :=
  ((s.setI 1 d (cursors (s.ri d.toNat) (s.ri a.toNat) (s.ri b.toNat))).setP 1 p.toNat
    (predOf (s.ri a.toNat == s.ri b.toNat))).ok

def execIpopc (d a : BitVec 6) (k : BitVec 1) (s : State) : Out :=
  (s.setI 1 d (BitVec.ofNat 32
    (if k == 0 then popcount 32 (s.ri a.toNat).toNat else popcount 128 (s.rp a.toNat).toNat))).ok

/-- The packed slot of a token position under a survivor bitmap (R134). -/
def survivor (bitmap position : Nat) : Nat :=
  let t := position % 256
  if bitmap / 2 ^ t % 2 == 1 then popcount t bitmap else 0xFFFF_FFFF

def execIsurv (d a b : BitVec 6) (s : State) : Out :=
  (s.setI 2 d (BitVec.ofNat 32 (survivor (s.rv 0 a.toNat).toNat (s.ri b.toNat).toNat))).ok

def execIhash (d a b : BitVec 6) (s : State) : Out :=
  (s.setI 2 d (BitVec.ofNat 32 (hash32 (s.ri a.toNat).toNat (s.ri b.toNat).toNat))).ok

/-- The conditions of R136. -/
def indexCond (c : Nat) (x y : Int) : Bool :=
  match c with
  | 0 => decide (x = y)
  | 1 => decide (x ≠ y)
  | 2 => decide (x < y)
  | _ => decide (y ≤ x)

def execIcmp (d a b : BitVec 6) (u : BitVec 1) (c : BitVec 2) (s : State) : Out :=
  (s.setP 1 d.toNat (predOf (indexCond c.toNat (reading u (s.ri a.toNat)) (reading u (s.ri b.toNat))))).ok

/-- The operations of Table 5-10. -/
def State.plogValue (s : State) (o a b : Nat) : Pred :=
  match o with
  | 0 => s.rp a &&& s.rp b
  | 1 => s.rp a ||| s.rp b
  | 2 => s.rp a ^^^ s.rp b
  | 3 => s.rp a &&& ~~~ s.rp b
  | 4 => ~~~ s.rp a
  | _ => BitVec.ofNat 128 (2 ^ min (s.ri a).toNat 128 - 1)

def execPlog (d a b : BitVec 6) (o : BitVec 3) (s : State) : Out :=
  (s.setP 1 d.toNat (s.plogValue o.toNat a.toNat b.toNat)).ok

end Sys2Proof.Machine
end

