-- ==== Sys2Proof/Machine/Stream.lean ====
section
/-!
DEFINITION. The ADR slot, CPY and its pieces, the application of REDs, and the tag instructions (R196 to R222, R238).
-/
namespace Sys2Proof.Machine

/-! ### Loads (R201, R202, R208, R209) -/

/-- The bytes of a SZ code (Table 3-5). -/
def sizeOf (z : Nat) : Nat := 2 ^ (z % 4)

/-- A loaded value extended to 64 bits: codes 0 to 3 by sign, 4 to 6 by zeros. -/
def extended (z x : Nat) : Word := if z ≤ 3 then BitVec.ofInt 64 (sext x (8 * sizeOf z)) else BitVec.ofNat 64 x

/-- The latency of a load by the window of its address (Table 4-5). -/
def loadLatency (va : Nat) : Nat := if ownBase ≤ va && va < ownBase + 0x18_0000 then 4 else 6

/-- The base-plus-offset address of format M. -/
def State.addrM (s : State) (a : BitVec 6) (z : Nat) (o : BitVec 11) : Nat := eaOf (s.rs a) (o.toInt * sizeOf z)

/-- The base-plus-index address of LDX and STX. -/
def State.addrX (s : State) (a b : BitVec 6) (c : BitVec 1) (z : Nat) : Nat :=
  (s.rs a + s.rs b * BitVec.ofNat 64 (if c == 1 then sizeOf z else 1)).toNat

/-- The elements of a QLD or QST: activity and address of each (R208). -/
def State.strided (s : State) (a b : BitVec 6) (z p w : Nat) : List (Bool × Nat) :=
  let e := sizeOf z
  let base := s.rs a + BitVec.ofNat 64 ((s.ri b.toNat).toNat * (windowBits w / 8))
  (List.range (windowBits w / (8 * e))).map fun j => (active (s.rp p) (8 * e) j, (base + BitVec.ofNat 64 (e * j)).toNat)

/-- The elements of a QGTH or QSCT, at unsigned 32-bit offsets (R209). -/
def State.gathered (s : State) (a b : BitVec 6) (z p w : Nat) : List (Bool × Nat) :=
  let e := sizeOf z
  let n := windowBits w / (8 * e)
  let offs := elems 32 n (s.rv 1 b.toNat).toNat
  ((List.range n).zip offs).map fun j =>
    (active (s.rp p) (8 * e) j.1, (s.rs a + BitVec.ofNat 64 (e * j.2)).toNat)

/-- Joins pieces that follow one another. -/
def joinRuns : List (Nat × List Byte) → List (Nat × List Byte)
  | [] => []
  | (a, bs) :: rest =>
    match joinRuns rest with
    | (b, cs) :: more => if a + bs.length == b then (a, bs ++ cs) :: more else (a, bs) :: (b, cs) :: more
    | [] => [(a, bs)]

/-- The pieces of the active elements. -/
def activeSegs (e : Nat) (xs : List (Bool × Nat)) : List Seg :=
  (joinRuns ((xs.filter (·.1)).map fun x => (x.2, List.replicate e 0))).map fun g => (g.1, g.2.length)

/-- The pieces that a load reads, in order. -/
def State.loadSegs (s : State) : Instr → List Seg
  | .ld _ a z o => [(s.addrM a z.toNat o, sizeOf z.toNat)]
  | .ldx _ a b c z => [(s.addrX a b c z.toNat, sizeOf z.toNat)]
  | .ldv _ a o => [(s.addrM a 3 o, 128)]
  | .qld _ a b z p w => activeSegs (sizeOf z.toNat) (s.strided a b z.toNat p.toNat w.toNat)
  | .qgth _ a b z p w => (s.gathered a b z.toNat p.toNat w.toNat).filterMap fun x =>
      if x.1 then some (x.2, sizeOf z.toNat) else none
  | _ => []

/-- The bytes of the active elements among zeros. -/
def spread (e : Nat) : List (Bool × Nat) → List Byte → List Byte
  | [], _ => []
  | x :: xs, bs => if x.1 then bs.take e ++ spread e xs (bs.drop e) else List.replicate e 0 ++ spread e xs bs

/-- The result of a load from the bytes it has read. -/
def State.loadInto (s : State) (bs : List Byte) : Instr → State
  | .ld d a z o => s.setS (loadLatency (s.addrM a z.toNat o)) d (extended z.toNat (leNat bs))
  | .ldx d a b c z => s.setS (loadLatency (s.addrX a b c z.toNat)) d (extended z.toNat (leNat bs))
  | .ldv d a o => s.land (loadLatency (s.addrM a 3 o)) (.v d.toNat (BitVec.ofNat 1024 (leNat bs)))
  | .qld q a b z p w => s.push (loadQ q.toNat) (windowBits w.toNat)
      (BitVec.ofNat 1024 (leNat (spread (sizeOf z.toNat) (s.strided a b z.toNat p.toNat w.toNat) bs)))
  | .qgth q a b z p w => s.push (loadQ q.toNat) (windowBits w.toNat)
      (BitVec.ofNat 1024 (leNat (spread (sizeOf z.toNat) (s.gathered a b z.toNat p.toNat w.toNat) bs)))
  | _ => s

/-- Whether an AMO or CAS with .acq of an instance is outstanding: its later window accesses wait (R242). -/
def State.acqPending (s : State) (w : Who) : Bool :=
  s.ops.any fun o => o.who == some w && (match o.kind with
    | .sysAmo _ _ ord _ _ _ _ _ => ord % 2 == 1
    | _ => false)

/-- A load: its checks, and then its bytes at once, or an access in flight on a link. The word has executed when its data
have returned (LOAD_DATA_RETURN). -/
def State.loadWord (s : State) (i : Instr) : Out :=
  let segs := s.loadSegs i
  match s.chk 6 segs true false (fun _ => true) true 0 with
  | .trap cls cause addr level => .next (s.trap cls cause addr level)
  | .wait ps => .next (s.awaitPages 6 ps false)
  | .ok =>
    if s.isRemote segs then
      let va := ((segs.head?).map (·.1)).getD 0
      if s.acqPending s.cur.who || s.portsHeld va then .next s else
      .next (s.opNew
        { id := 0, who := some s.cur.who, asid := s.cur.asid, pos := s.focus.pos, pc := 0, tag := none,
          time := s.cur.ltime, wait := none, denied := false, failed := false,
          ports := s.portsFor va, kind := .sysLoad segs s.focus.slot }).startWord
    else
      let (s, bs) := s.load segs
      .next (s.loadInto bs i).startWord

def execLd (d a : BitVec 6) (z : BitVec 3) (o : BitVec 11) (s : State) : Out := s.loadWord (.ld d a z o)
def execLdx (d a b : BitVec 6) (c : BitVec 1) (z : BitVec 3) (s : State) : Out := s.loadWord (.ldx d a b c z)
def execLdv (d a : BitVec 6) (o : BitVec 11) (s : State) : Out := s.loadWord (.ldv d a o)
def execQld (q : BitVec 2) (a b : BitVec 6) (z p : BitVec 3) (w : BitVec 2) (s : State) : Out :=
  s.loadWord (.qld q a b z p w)
def execQgth (q : BitVec 2) (a b : BitVec 6) (z p : BitVec 3) (w : BitVec 2) (s : State) : Out :=
  s.loadWord (.qgth q a b z p w)

/-! ### Stores (R198, R201, R202, R208, R209) -/

/-- A store of pieces, left for the commit of its bundle. -/
def State.storeWord (s : State) (segs : List (Nat × List Byte)) : Out :=
  (s.storing (segs.map fun g => (g.1, g.2.length)) (fun _ => true) true 0 (.store segs false)).ok

def execSt (d a : BitVec 6) (z : BitVec 3) (o : BitVec 11) (s : State) : Out :=
  s.storeWord [(s.addrM a z.toNat o, leBytes (sizeOf z.toNat) (s.rs d).toNat)]
def execStx (d a b : BitVec 6) (c : BitVec 1) (z : BitVec 3) (s : State) : Out :=
  s.storeWord [(s.addrX a b c z.toNat, leBytes (sizeOf z.toNat) (s.rs d).toNat)]
def execStv (d a : BitVec 6) (o : BitVec 11) (s : State) : Out :=
  s.storeWord [(s.addrM a 3 o, leBytes 128 (s.rv 0 d.toNat).toNat)]

/-- The pieces of the active elements of a popped store-data entry. -/
def State.storePieces (s : State) (e : Nat) (xs : List (Bool × Nat)) : List (Nat × List Byte) :=
  let data := ((s.popped 0).map (·.data)).getD 0
  (xs.zip (elems (8 * e) xs.length data.toNat)).filterMap fun x =>
    if x.1.1 then some (x.1.2, leBytes e x.2) else none

def execQst (_q : BitVec 2) (a b : BitVec 6) (z p : BitVec 3) (w : BitVec 2) (s : State) : Out :=
  s.storeWord (joinRuns (s.storePieces (sizeOf z.toNat) (s.strided a b z.toNat p.toNat w.toNat)))
def execQsct (_q : BitVec 2) (a b : BitVec 6) (z p : BitVec 3) (w : BitVec 2) (s : State) : Out :=
  s.storeWord (s.storePieces (sizeOf z.toNat) (s.gathered a b z.toNat p.toNat w.toNat))

/-! ### Atomics (R210 to R213) -/

/-- The bytes of an atomic's word. -/
def wordBytes (e : BitVec 1) : Nat := if e == 1 then 8 else 4

/-- An AMO or CAS: its checks, the error it would consume, and the effect it leaves for commit. -/
def State.atomic (s : State) (a : BitVec 6) (e : BitVec 1) (eff : Effect) : Out :=
  let va := (s.rs a).toNat
  let n := wordBytes e
  match s.chk 6 [(va, n)] true true (fun k => k != .host) (va % n == 0) va with
  | .trap cls cause addr level => .next (s.trap cls cause addr level)
  | .wait ps => .next (s.awaitPages 6 ps true)
  | .ok =>
    match s.upsetOf s.cur.who s.cur.asid s.die [(va, n)] with
    | some u => .next (s.trap 11 u.cause 0 0)
    | none => (s.effect eff).ok

def execAmo (d a b : BitVec 6) (r : BitVec 2) (e : BitVec 1) (f : BitVec 4) (s : State) : Out :=
  s.atomic a e (.amo f.toNat (e == 1) r.toNat (s.rs a).toNat ((s.rs b).toNat % 2 ^ (8 * wordBytes e)) d.toNat)

def execCas (d a b : BitVec 6) (r : BitVec 2) (e : BitVec 1) (s : State) : Out :=
  let n := 8 * wordBytes e
  s.atomic a e (.cas (e == 1) r.toNat (s.rs a).toNat ((s.rs d).toNat % 2 ^ n) ((s.rs b).toNat % 2 ^ n) d.toNat)

def execRed (a b : BitVec 6) (e : BitVec 1) (f : BitVec 4) (s : State) : Out :=
  let va := (s.rs a).toNat
  let n := wordBytes e
  (s.storing [(va, n)] (fun k => k != .host && k != .peer) (va % n == 0) va
    (.red f.toNat (e == 1) va ((s.rs b).toNat % 2 ^ (8 * n)))).ok

/-! ### LEA and PREF (R203, R204) -/

def execLea (d a : BitVec 6) (i : BitVec 14) (s : State) : Out := (s.setS 1 d (s.rs a + i.signExtend 64)).ok

/-- PREF is a hint without effect on architectural state. -/
def execPref (_l : BitVec 1) (_a : BitVec 6) (_z : BitVec 3) (_o : BitVec 11) (s : State) : Out := s.ok

/-! ### Tags (R214 to R217) -/

/-- TWANY: its ARG while it waits is the lowest tag of its mask with commands outstanding, also where the mask selects lower
tags that are IDLE (the model's choice of "still awaited", assumption 113). -/
def Context.anyVerdict (c : Context) (mask : Word) : Wait.Verdict :=
  if (c.lowestTag mask (·.set)).isSome then .holds
  else match c.lowestTag mask (·.pending) with
    | some g => .awaits g
    | none => .never

def Context.allVerdict (c : Context) (mask : Word) : Wait.Verdict :=
  if (c.lowestTag mask fun t => !t.set && !t.pending).isSome then .never
  else match c.lowestTag mask (·.pending) with
    | some g => .awaits g
    | none => .holds

/-- LTIME rises to the time of every tag of a mask that is SET (R231). -/
def State.afterTags (s : State) (mask : Word) : State :=
  s.modCur fun c => { c with ltime := (List.range 64).foldl (fun t g =>
    if mask.getLsbD g && (c.tag g).set then max t (c.tag g).time else t) c.ltime }

/-- A tag wait that has been let through dispatch; one that can never be met is an ENGINE_FAULT (R216). -/
def State.tagWait (s : State) (v : Wait.Verdict) (mask : Word) : Out :=
  match v with
  | .never => .next s.engineFault
  | .awaits _ => .next s
  | .holds => (s.afterTags mask).ok

def execTwany (a : BitVec 6) (s : State) : Out := s.tagWait (s.cur.anyVerdict (s.rs a)) (s.rs a)
def execTwall (a : BitVec 6) (s : State) : Out := s.tagWait (s.cur.allVerdict (s.rs a)) (s.rs a)

def execTffr (d a : BitVec 6) (c : BitVec 1) (s : State) : Out :=
  match s.cur.lowestTag (s.rs a) (·.set) with
  | none => (s.setS 2 d 64).ok
  | some g =>
    let mask : Word := BitVec.ofNat 64 (2 ^ g)
    let x := s.setS 2 d (BitVec.ofNat 64 (g + if (s.cur.tag g).err then 128 else 0))
    let x := x.afterTags mask
    (if c == 1 then x.effect (.tclr mask) else x).ok

def execTclr (a : BitVec 6) (s : State) : Out := (s.effect (.tclr (s.rs a))).ok

/-! ### CPY (R218 to R222) -/

/-- Whether a range of L bytes cannot be copied: it wraps, or its bytes do not lie in one region (R219). -/
def State.rangeBad (s : State) (a len : Nat) : Bool :=
  decide (2 ^ 64 < a + len) || (len != 0 && (s.spaceBad s.cur.who s.cur.asid (fun _ => true) [(a, len)]).isSome)

def execCpy (t a b c : BitVec 6) (s : State) : Out :=
  let len := (s.rs c).toNat
  if decide (2 ^ 40 ≤ len) || s.rangeBad (s.rs a).toNat len || s.rangeBad (s.rs b).toNat len then .next s.engineFault
  else (s.effect (.cmd (some t.toNat) (.cpy (s.rs a).toNat (s.rs b).toNat len false 0))).ok

/-- The die from which an instance's engine work reads replicas. -/
def State.dieOfWho (s : State) (w : Who) : Nat := ((s.ticketOf w).map fun t => dieOf (coreOf t)).getD 0

/-- The address of the leaf of a mapped page. -/
def State.leafOf (s : State) (asid va : Nat) : Option Nat :=
  if s.faulting.any fun f => f.asid == asid && f.page == va / 65536 then none
  else match s.walk asid va with
    | .leaf _ _ addr => some addr
    | _ => none

/-- Sets A, and D for a destination, in the leaf of every mapped page of a generic range (R220). -/
def State.markRange (s : State) (asid a len : Nat) (write : Bool) : State :=
  if 2 ^ 55 ≤ a then s
  else (pagesOf [(a, len)]).foldl (fun s p =>
    match s.leafOf asid p.2 with
    | some addr => (s.reportWalk asid p.2).orPte addr (if write then 0x30 else 0x10)
    | none => s) s

/-- An operation of a kind, by its number. -/
def State.opWith {α : Type} (s : State) (id : Nat) (f : OpKind → Option α) : Option (Op × Who × α) :=
  match s.opGet id with
  | none => none
  | some o => match o.who, f o.kind with
    | some w, some x => some (o, w, x)
    | _, _ => none

/-- The fields of a copy. -/
structure Copy where
  dst : Nat
  src : Nat
  len : Nat
  accepted : Bool
  next : Nat
  deriving DecidableEq, Repr

def OpKind.asCpy : OpKind → Option Copy
  | .cpy dst src len accepted next => some (Copy.mk dst src len accepted next)
  | _ => none

def Copy.kind (c : Copy) : OpKind := .cpy c.dst c.src c.len c.accepted c.next

/-- Whether the device accepts new work: in TRIP no engine does (Table 21-4). -/
def State.powered (s : State) : Bool := s.lemant.power != .trip

def execCpyAcceptance (id : Nat) (s : State) : Out :=
  match s.opWith id OpKind.asCpy with
  | none => .next s
  | some (o, _, c) =>
    if c.accepted || !s.powered then .next s
    else
      let s := (s.markRange o.asid c.dst c.len true).markRange o.asid c.src c.len false
      .next (s.opSet { o with kind := { c with accepted := true }.kind })

/-- The number of pieces of a copy. -/
def Copy.pieces (c : Copy) : Nat := (c.dst + c.len - 1) / 256 - c.dst / 256 + 1

/-- The bytes of piece j, as first offset into the copy and length (R220). -/
def Copy.piece (c : Copy) (j : Nat) : Nat × Nat :=
  let b := 256 * (c.dst / 256) + 256 * j
  let lo := max c.dst b
  (lo - c.dst, min (c.dst + c.len) (b + 256) - lo)

/-- What stands in the way of piece j. -/
def State.pieceChk (s : State) (w : Who) (asid : Nat) (c : Copy) (j : Nat) : Chk :=
  let (off, n) := c.piece j
  match s.check w asid (s.dieOfWho w) 6 [(c.src + off, n)] true false (fun _ => true) true 0 with
  | .ok => s.check w asid (s.dieOfWho w) 6 [(c.dst + off, n)] false true (fun _ => true) true 0
  | r => r

/-- Performs piece j: one read and one write at one order point. -/
def State.performPiece (s : State) (o : Op) (w : Who) (c : Copy) (j : Nat) : State × Nat :=
  let die := s.dieOfWho w
  let (off, n) := c.piece j
  let src := [(c.src + off, n)]
  let dst := [(c.dst + off, n)]
  let s := (s.mark w o.asid die src false).mark w o.asid die dst true
  let bs := s.readSeg w o.asid die (c.src + off, n)
  let (s, lt) := s.accessTime none w o.asid die o.time src false
  let (s, lt) := s.accessTime none w o.asid die lt dst true
  (s.writeParts (s.partsOf w o.asid die (c.dst + off) bs) lt, lt)

/-- A copy after piece j has been performed; its end sets the tag. -/
def State.pieceDone (s : State) (o : Op) (c : Copy) (j time : Nat) : State :=
  let o : Op := { o with time := max o.time time, arrived := false, kind := ({ c with next := j + 1 } : Copy).kind }
  if c.pieces ≤ j + 1 then s.opEnd o false else s.opSet o

/-- What the device's own window answers to piece j, where the piece reaches it. -/
def State.pieceWindow (s : State) (c : Copy) (j : Nat) : Chk :=
  let (off, n) := c.piece j
  match s.windowChk [(c.src + off, n)] true false with
  | .ok => s.windowChk [(c.dst + off, n)] false true
  | r => r

/-- The error among the source bytes of piece j. -/
def State.pieceUpset (s : State) (w : Who) (asid : Nat) (c : Copy) (j : Nat) : Option Upset :=
  s.upsetOf w asid (s.dieOfWho w) [(c.src + (c.piece j).1, (c.piece j).2)]

/-- An AMO or CAS with .acq, or an access to the same window bytes, that the context issued before an operation and that is
outstanding (R242). -/
def State.windowsBefore (s : State) (o : Op) (segs : List Seg) : Bool :=
  s.ops.any fun x => x.who == o.who && decide (x.id < o.id) &&
    ((match x.kind with
      | .sysAmo _ _ ord _ _ _ _ _ => ord % 2 == 1
      | _ => false) || x.kind.window.any fun g => segs.any fun h => overlaps g.1 g.2 h.1 h.2)

/-- The window bytes of piece j. -/
def Copy.windows (c : Copy) (j : Nat) : List Seg :=
  let (off, n) := c.piece j
  ([c.src + off, c.dst + off].filter inWindow).map fun va => (va, n)

/-- A copy ends without the piece that it has come to and those above it; one that a window's fence or target has refused it
counts as a failed write of its window (R414). -/
def State.copyEnds (s : State) (o : Op) (w : Who) (c : Copy) (window : Bool) : State :=
  (if window && inWindow c.dst then s.loseWrite w o.id else s).opEnd o true

/-- The copy is suspended at piece j for the first of some pages, each of which starts its service. -/
def State.copyAwaits (s : State) (o : Op) (asid : Nat) (ps : List (Nat × Nat)) (writes : Nat → Bool) : State :=
  (ps.foldl (fun s p => s.needPage asid p.2 (writes p.2)) s).opSet { o with wait := (ps.head?).map fun p => (asid, p.1) }

/-- CPY_PIECE: piece j of an accepted copy, which the engine takes in increasing j (R221, assumption 124). A piece that cannot
be performed suspends or ends the copy, with every piece below it performed. -/
def execCpyPiece (id j : Nat) (s : State) : Out :=
  match s.opWith id OpKind.asCpy with
  | none => .next s
  | some (o, w, c) =>
    let windows := c.windows j
    let held := (windows.any fun g => s.portsHeld g.1) || (windows != [] && s.windowsBefore o windows)
    if !c.accepted || o.wait.isSome || j != c.next || c.pieces ≤ j || held then .next s
    else if o.denied then (s.copyEnds o w c (s.pieceChk w o.asid c j == .ok)).done
    else match s.pieceChk w o.asid c j, s.pieceWindow c j with
      | .ok, .ok =>
        match s.pieceUpset w o.asid c j with
        | some u => ((s.reportUpset u).copyEnds o w c false).done
        | none =>
          let (s, lt) := s.performPiece o w c j
          (s.pieceDone o c j lt).done
      | .ok, .wait ps => .next (s.copyAwaits { o with arrived := true } s.expAsid ps fun _ => inWindow (c.dst + (c.piece j).1))
      | .ok, .trap .. => (s.copyEnds o w c true).done
      | .wait ps, _ =>
        let dst := c.dst + (c.piece j).1
        .next (s.copyAwaits { o with arrived := false } o.asid ps fun a => decide (dst ≤ a) && decide (a < dst + 256))
      | .trap cls _ _ _, _ => (s.copyEnds o w c (cls == 12)).done

/-! ### The application of REDs (R213, R238) -/

/-- The fields of a RED that is to be applied. -/
structure Reduction where
  op : Nat
  wide : Bool
  place : Place
  addr : Nat
  va : Nat
  operand : Nat
  deriving DecidableEq, Repr

def OpKind.asRed : OpKind → Option Reduction
  | .red op wide place addr va operand => some (Reduction.mk op wide place addr va operand)
  | _ => none

/-- A place whose words have a home slice. -/
def Place.homed : Place → Bool
  | .phys => true
  | .cipher _ => true
  | .lscr => true
  | _ => false

/-- REDs that the routers may merge: one address, operation and size, on generic memory or the scratch partition. -/
def Reduction.merges (a b : Reduction) : Bool :=
  a.op == b.op && a.wide == b.wide && a.place == b.place && a.addr == b.addr && a.place.homed

/-- Where a RED acts: its physical word, or the scratchpad that its window names now. -/
def State.redPlace (s : State) (w : Who) (asid : Nat) (r : Reduction) : Place × Nat :=
  if r.place.homed then (r.place, r.addr)
  else match s.region w asid r.va with
    | some g => (g.place, r.va - g.lo)
    | none => (r.place, r.addr)

/-- The logical time of the application: a BANK line and what is not generic memory take no part (R233). -/
def State.redTimes (s : State) (asid : Nat) (r : Reduction) (p : Place) (start a n : Nat) : State × Nat :=
  match p.store, s.walk asid r.va with
  | .phys, .leaf e _ _ => if pteBank e then (s, start) else s.writeTime none start a n
  | .phys, _ => s.writeTime none start a n
  | _, _ => (s, start)

/-- A list of numbers, each once. -/
def distinct : List Nat → List Nat
  | [] => []
  | x :: xs => x :: (distinct xs).filter fun y => y != x

/-- RED_APPLICATION: one application of a RED with the REDs merged into it, one after another in their order of arrival
(assumption 95); each counts once. A word that holds an uncorrectable error is reported and keeps it (R385). -/
def execRedApplication (id : Nat) (merged : List Nat) (s : State) : Out :=
  match s.opWith id OpKind.asRed with
  | none => .next s
  | some (o, w, r) =>
    let others := (distinct merged).filterMap fun k => if k == id then none else s.opWith k OpKind.asRed
    if others.any fun x => !r.merges x.2.2 then .next s
    else
      let n := if r.wide then 8 else 4
      let operand := others.foldl (fun acc x => amoValue r.op (8 * n) acc x.2.2.operand) r.operand
      let (p, a) := s.redPlace w o.asid r
      let m := leNat (s.peek p a n)
      let start := others.foldl (fun t x => max t x.1.time) o.time
      let (s1, lt) := s.redTimes o.asid r p start a n
      let s2 := s1.writeParts [(p, a, leBytes n (amoValue r.op (8 * n) m operand))] lt
      let s3 := match s.upsetIn p a n with
        | some u => { s2.reportUpset u with upsets := s.upsets }
        | none => s2
      ((o :: others.map (·.1)).foldl (fun s x => s.opEnd { x with time := lt } false) s3).done

end Sys2Proof.Machine
end

