-- ==== Sys2Proof/Machine/Page.lean ====
section
/-!
DEFINITION. Page service, replica collapse and replay; the KV pool and the four instructions that act on it (R245 to R264,
R445).
-/
namespace Sys2Proof.Machine

/-! ### What engines do with memory -/

/-- The issuer that stands for no instance. -/
def noWho : Who := graphWho 256 0

/-- The checks of an engine's access on behalf of an instance; engines reach device memory only. -/
def State.reach (s : State) (w : Who) (asid : Nat) (segs : List Seg) (r wr : Bool) : Chk :=
  s.check w asid (s.dieOfWho w) 6 segs r wr RKind.device true 0

/-- An operation waits for the first of some pages, each of which starts its service (R254). -/
def State.opAwait (s : State) (o : Op) (ps : List (Nat × Nat)) (write : Bool) : State :=
  (ps.foldl (fun s p => s.needPage o.asid p.2 write) s).opSet { o with wait := (ps.head?).map fun p => (o.asid, p.1) }

/-- n bytes that an engine reads. -/
def State.fetch (s : State) (w : Who) (asid va n : Nat) : List Byte := s.readSeg w asid (s.dieOfWho w) (va, n)

/-- An engine's read of some ranges: A in their leaves, the errors among them reported, and its logical time. -/
def State.fetchTime (s : State) (w : Who) (asid time : Nat) (segs : List Seg) : State × Nat :=
  let s := segs.foldl (fun s g => match s.upsetOf w asid (s.dieOfWho w) [g] with
    | some u => s.reportUpset u
    | none => s) s
  segs.foldl (fun (r : State × Nat) g =>
    (r.1.mark w asid (r.1.dieOfWho w) [g] false).accessTime none w asid (r.1.dieOfWho w) r.2 [g] false) (s, time)

/-- The logical time of a write of fields that the device keeps, whose page need not carry W (R229, R260). -/
def State.devTime (s : State) (w : Who) (asid time va n : Nat) : State × Nat :=
  if s.kindOf w asid [(va, n)] != .generic then (s, time)
  else (cut (va, n)).foldl (fun (r : State × Nat) c =>
    match r.1.page asid (r.1.dieOfWho w) c.1 true false false with
    | .ok pa e _ _ => if pteBank e then r else r.1.writeTime none r.2 pa c.2
    | _ => r) (s, time)

/-- Writes fields that the device keeps, whether or not their page carries W (R260): no program's write. -/
def State.devPut (s : State) (w : Who) (asid time va : Nat) (bs : List Byte) : State × Nat :=
  let s := s.markRange asid va bs.length true
  let parts := (cut (va, bs.length)).filterMap fun c =>
    (s.resolve w asid (s.dieOfWho w) c.1 false).map fun r => (r.1, r.2, (bs.drop (c.1 - va)).take c.2)
  let (s, time) := s.devTime w asid time va bs.length
  (s.put parts, time)

/-- Writes fields that the device has read and changed: an error among their bytes stays (R385). -/
def State.devKeep (s : State) (w : Who) (asid time va : Nat) (bs : List Byte) : State × Nat :=
  let r := s.devPut w asid time va bs
  ({ r.1 with upsets := s.upsets }, r.2)

/-- The lines of n frames that a slice holds, or of which a core owns a sector. -/
def State.heldLines (s : State) (frame n : Nat) : List Nat :=
  let owned := (s.l1.filter fun e => e.2.owned).map fun e => e.1 % 2 ^ 46 / 4
  let cached := s.lines.map fun e => e.1
  distinct ((cached ++ owned).filter fun l => decide (256 * frame ≤ l) && decide (l < 256 * (frame + n)))

/-- Owned sectors of n frames are recalled, and their lines written back and dropped (R261, R263, Table 10-5). -/
def State.evictFrames (s : State) (frame n : Nat) : State := (s.heldLines frame n).foldl (fun s l => s.evict l) s

/-- The address of the level-4 entry of a page, where pointers lead to it. -/
def pteAddrFrom (m : Mem) (va : Nat) : Nat → Nat → Nat → Option Nat
  | 0, _, _ => none
  | fuel + 1, level, table =>
    let addr := table + 8 * (va / 2 ^ (56 - 10 * level) % 1024)
    if level == 4 then some addr
    else
      let e := Mem.le m addr 8
      if pteV e && !pteLeaf e && !pteMalformed e level then pteAddrFrom m va fuel (level + 1) (pteFrame e * 65536) else none

def State.pteAddr (s : State) (asid va : Nat) : Option Nat :=
  pteAddrFrom s.mem va 4 1 (spaceRoot (s.space asid) * 65536)

/-- Changes bits of the level-4 entry of a page: those of `off` are cleared and then those of `on` set. -/
def State.setPte (s : State) (asid va off on : Nat) : State :=
  match s.pteAddr asid va with
  | none => s
  | some addr =>
    let e := Mem.le s.mem addr 8
    { s with mem := Mem.write s.mem addr (leBytes 8 (Nat.lor (e - Nat.land e off) on)) }

/-- Whether one of k pages from a base is among n pages from p. -/
def pagesMeet (base k p n : Nat) : Bool := (List.range k).any fun j => decide (p ≤ base / 65536 + j) && decide (base / 65536 + j < p + n)

/-- A TBLDEF that has executed fails where one of its instance pages has changed since (R295). -/
def OpKind.losesPages (p n : Nat) : OpKind → OpKind
  | .tbldef desc base logn copies wide changed => .tbldef desc base logn copies wide (changed || pagesMeet base (copies + 1) p n)
  | k => k

/-- An RSET that has executed fails where one of its spill pages has left the BANK state since (R310). -/
def OpKind.losesBank (p n : Nat) : OpKind → OpKind
  | .rset d changed => .rset d (changed || pagesMeet d.spill d.spages p n)
  | k => k

/-- A change of what the commands of an address space name, in those sent and in those that wait for the commit of their
bundle. -/
def State.modCommands (s : State) (asid : Nat) (f : OpKind → OpKind) : State :=
  let pending := fun (e : Nat × Effect) => match e.2 with
    | .cmd tag kind => (e.1, Effect.cmd tag (f kind))
    | _ => e
  { s with
    ops := s.ops.map fun o => if o.asid == asid then { o with kind := f o.kind } else o
    ctxs := s.ctxs.map fun e => if e.2.asid == asid then
      (e.1, { e.2 with inflight := e.2.inflight.map fun b => { b with effects := b.effects.map pending } }) else e }

/-- n pages from p leave the BANK state. -/
def State.leaveBank (s : State) (asid p n : Nat) : State := s.modCommands asid (OpKind.losesBank p n)

/-- PATTR, PFREE or unmap of n pages from p of an address space takes the tables that have an instance among them to UNDEFINED
(Table 12-2, assumption 96). -/
def State.undefineTables (s : State) (asid p n : Nat) : State :=
  { s.modCommands asid (OpKind.losesPages p n) with
    tables := s.tables.filter fun t => !(t.asid == asid && pagesMeet t.base t.frames.length p n) }

/-! ### Replay and the end of a service (R254, R257, R445) -/

/-- A loading kernel that waits for one of n pages from p goes on; `refused` says that the page cannot be served. -/
def State.releaseKernels (s : State) (asid p n : Nat) (refused : Bool) : State :=
  { s with kernels := s.kernels.map fun e =>
      match e.2.wait with
      | some (a, q) =>
        if a == asid && decide (p ≤ q) && decide (q < p + n) then
          (e.1, { e.2 with wait := none, denied := if refused then e.2.denied ++ [q] else e.2.denied })
        else e
      | none => e }

/-- n pages from p leave FAULTING and COLLAPSING: their logged writes are replayed, or dropped, and then the pages are
visible and waiters go on. -/
def State.finishPages (s : State) (asid p n : Nat) (drop : Bool) : State :=
  let s : State := { s with
    faulting := s.faulting.filter fun f => !(f.asid == asid && decide (p ≤ f.page) && decide (f.page < p + n))
    collapsing := s.collapsing.filter fun c => !(c.asid == asid && c.page == p) }
  ((s.replay asid p n drop).releasePages asid p n).releaseKernels asid p n false

/-- The leaf with REPL cleared, FRAME unchanged (R256). -/
def State.unreplicate (s : State) (pte : Nat) : State :=
  let e := Mem.le s.mem pte 8
  { s with mem := Mem.write s.mem pte (leBytes 8 (e - Nat.land e 0x100)) }

/-- Replay of a page that has its leaf: by the device, or after the host's answer to a request of function 1. -/
def State.startReplay (s : State) (asid p n : Nat) : State :=
  let entries := s.logged asid p n
  if s.hwMode 1 || entries == 0 then s.finishPages asid p n false
  else
    let s : State := { s with
      faulting := s.faulting.map fun f => if f.asid == asid && f.page == p then { f with stage := 1 } else f
      collapsing := s.collapsing.map fun c => if c.asid == asid && c.page == p then { c with stage := 2 } else c }
    s.raiseService 1 asid (p * 65536) entries none

/-- The success row: every FAULTING page inside the leaf completes, and the plays that become READY with them stand in one
order (R279, R445). A replicated leaf whose logged writes have W is collapsed to its primary before any agent sees it. -/
def State.pageMapped (s : State) (asid va e level addr : Nat) : State :=
  let (p, n) := leafPages level va
  let s := if pteRepl e && pteW e && s.logged asid p n != 0 then s.unreplicate addr else s
  let pages := (s.faulting.filter fun f => f.asid == asid && f.stage == 0 && decide (p ≤ f.page) && decide (f.page < p + n)).map
    (·.page)
  let t := pages.foldl (fun s q => s.startReplay asid q 1) s
  let new := t.readyPlays.drop s.readyPlays.length
  { t with readyPlays := s.readyPlays ++ t.byTicket (t.ops.filter fun o => new.contains o.id) }

/-- The failure row: waiters fault with cause PAGE, and then logged entries are dropped. -/
def State.pageFailed (s : State) (asid p level : Nat) : State :=
  let s : State := { s with faulting := s.faulting.filter fun f => !(f.asid == asid && f.page == p) }
  ((s.failPage asid p level).releaseKernels asid p 1 true).replay asid p 1 true

def State.serviceGet (s : State) (id : Nat) : Option Service := s.services.find? fun v => v.id == id

/-- A request has been answered and is outstanding no more; requests that waited for room are sent. -/
def State.serviceDrop (s : State) (id : Nat) : State :=
  ({ s with services := s.services.filter fun v => v.id != id } : State).sendWaiting

/-- SERVICE_COMPLETION: the answer of a page-fault service arrives, and the page is walked again (R445). -/
def execServiceCompletion (id : Nat) (ok : Bool) (s : State) : Out :=
  match s.serviceGet id with
  | none => .next s
  | some v =>
    match v.answer with
    | none => .next s
    | some (verdict, _, _) =>
      if v.func != 0 || ok != (verdict == 0) then .next s
      else
        let p := v.addr / 65536
        let s := s.serviceDrop id
        if !s.faulting.any fun f => f.asid == v.asid && f.page == p && f.stage == 0 then s.done
        else if !ok then (s.pageFailed v.asid p 0).done
        else
          let s := s.reportWalk v.asid v.addr
          match s.walk v.asid v.addr with
          | .leaf e level addr => (s.pageMapped v.asid v.addr e level addr).done
          | .malformed level => (s.pageFailed v.asid p level).done
          | _ => (s.pageFailed v.asid p 0).done

/-- The collapse of a page after its last acknowledgement: the leaf maps the primary, and the logged writes follow. -/
def State.collapse (s : State) (c : Collapse) : State := (s.unreplicate c.pte).startReplay c.asid c.page c.count

/-- DIE_ACKNOWLEDGE: a die has dropped its translations of a COLLAPSING page; after the last one the leaf is rewritten, by
the device or by the host (R256, Table 21-8). -/
def execDieAcknowledge (asid page die : Nat) (s : State) : Out :=
  match s.collapsing.find? fun c => c.asid == asid && c.page == page with
  | none => .next s
  | some c =>
    if c.stage != 0 || 4 ≤ die || c.acks.contains die then .next s
    else
      let c : Collapse := { c with acks := die :: c.acks }
      let put := fun (s : State) (c : Collapse) =>
        ({ s with collapsing := s.collapsing.map fun x => if x.asid == asid && x.page == page then c else x } : State)
      if c.acks.length < 4 then (put s c).done
      else if s.hwMode 2 then ((put s c).collapse c).done
      else ((put s { c with stage := 1 }).raiseService 2 asid (page * 65536) 0 none).done

/-! ### The KV pool (R258, Table 10-6) -/

structure Pool where
  desc : Nat
  base : Nat
  npage : Nat
  records : Nat
  bmap : Nat
  low : Nat
  free : Nat
  deriving DecidableEq, Repr

/-- A descriptor as read at `desc`; none where it breaks Table 10-6. -/
def Pool.ofBytes (desc : Nat) (bs : List Byte) : Option Pool :=
  let x := leNat bs
  let p := Pool.mk desc (bits x 63 0) (bits x 95 64) (bits x 191 128) (bits x 255 192) (bits x 287 256) (bits x 319 288)
  if bits x 511 320 != 0 || bits x 127 96 != 0 || p.npage % 2048 != 0 || decide (16777216 < p.npage) || p.base % 65536 != 0
      || decide (2 ^ 55 ≤ p.base) || decide (2 ^ 55 < p.base + 65536 * p.npage) || p.records % 64 != 0 || p.bmap % 64 != 0 then none
  else some p

def Pool.page (p : Pool) (k : Nat) : Nat := p.base + 65536 * k
def Pool.record (p : Pool) (k : Nat) : Nat := p.records + 64 * k
def Pool.bitmapLen (p : Pool) : Nat := p.npage / 2048
def Pool.bitmap (p : Pool) (ch : Nat) : Nat := p.bmap + ch * p.bitmapLen
/-- The byte of slot k's bit in the bitmaps. -/
def Pool.bitAt (p : Pool) (k : Nat) : Nat := p.bitmap (k % 256) + k / 256 / 8
/-- The slot of a page of the pool. -/
def Pool.slotOf (p : Pool) (va : Nat) : Option Nat :=
  if va % 65536 == 0 && decide (p.base ≤ va) && decide (va < p.base + 65536 * p.npage) then some ((va - p.base) / 65536)
  else none

/-- The place of the first set bit among bytes. -/
def firstSet : Nat → List Byte → Option Nat
  | _, [] => none
  | i, b :: bs => if b == 0 then firstSet (i + 8) bs else some (i + trailingZeros 8 b.toNat)

/-- The slot that an allocation from cursor c finds among `left` channels, with the channels it tried. -/
def State.findSlot (s : State) (w : Who) (asid : Nat) (p : Pool) : Nat → Nat → List Nat → Option Nat × List Nat
  | 0, _, tried => (none, tried)
  | left + 1, ch, tried =>
    match firstSet 0 (s.fetch w asid (p.bitmap ch) p.bitmapLen) with
    | some i => (some (256 * i + ch), tried ++ [ch])
    | none => s.findSlot w asid p left ((ch + 1) % 256) (tried ++ [ch])

/-- A record's fields (Table 10-7). -/
def recordAlloc (x : Nat) : Bool := bits x 288 288 == 1
def recordRref (x : Nat) : Nat := bits x 311 296

/-- The home of a metadata record, by which freeing marks are kept (R261). -/
def State.homeKey (s : State) (w : Who) (asid va : Nat) : Nat :=
  match s.resolve w asid (s.dieOfWho w) va false with
  | some (.phys, a) => a
  | some (.cipher _, a) => a
  | some (.scratch k, a) => 2 ^ 52 + k * 2 ^ 24 + a
  | some (_, a) => 2 ^ 62 + a
  | none => 2 ^ 63 + va

def State.isFreeing (s : State) (key : Nat) : Bool := s.freeing.any fun f => f.1 == key

/-! ### The words -/

/-- Device memory as the executing word sees it (R6, R234). -/
def State.view (s : State) : State := (s.curBundle.map fun b => s.mtxView s.focus.ticket b).getD s

/-- The pages of a read that the ADR word of its bundle stores to, and that await mapping or collapse. -/
def State.adrHolds (s : State) (segs : List Seg) : List (Nat × Nat) :=
  (s.curBundle.map fun b => s.adrAwaits s.focus.ticket b segs).getD []

/-- A load access that a word's checks make (R260, R295, R310, R358): a trap, a wait, or the state that has read and the
bytes. -/
def State.checkedRead (s : State) (va n : Nat) (k : State → List Byte → State) : State :=
  match s.chk 6 [(va, n)] true false RKind.device true 0 with
  | .trap cls cause addr level => s.trap cls cause addr level
  | .wait ps => s.awaitPages 6 ps false
  | .ok =>
    if s.adrHolds [(va, n)] != [] then s.awaitPages 6 (s.adrHolds [(va, n)]) false
    else match s.view.upsetOf s.cur.who s.cur.asid s.die [(va, n)] with
      | some u => s.trap 11 u.cause 0 0
      | none => k (s.load [(va, n)]).1 (s.view.readSeg s.cur.who s.cur.asid s.die (va, n))

/-- Reads a pool descriptor for a word. -/
def State.withPool (s : State) (desc : Nat) (k : State → Pool → State) : State :=
  if desc % 64 != 0 then s.engineFault
  else s.checkedRead desc 64 fun s bs =>
    match Pool.ofBytes desc bs with
    | none => s.engineFault
    | some p => k s p

/-- Reads a list of ranges for a word, one after another. -/
def State.checkedReads (k : State → State) : List Seg → State → State
  | [], s => k s
  | g :: gs, s => s.checkedRead g.1 g.2 fun s _ => State.checkedReads k gs s

def execPalloc (d a b : BitVec 6) (s : State) : Out :=
  let pool := (s.rs a).toNat
  let cursor := (s.rs b).toNat
  let s' := s.withPool pool fun s p =>
    match s.chk 6 [(cursor, 1)] true true RKind.device true 0 with
    | .trap cls cause addr level => s.trap cls cause addr level
    | .wait ps => s.awaitPages 6 ps true
    | .ok =>
      let v := s.view
      let c := leNat (v.readSeg s.cur.who s.cur.asid s.die (cursor, 1))
      let (slot, tried) := v.findSlot s.cur.who s.cur.asid p 256 c []
      let maps := tried.map fun ch => (p.bitmap ch, p.bitmapLen)
      let record := match slot with
        | some k => [(p.record k, 64)]
        | none => []
      s.checkedReads (fun s => s.effect (.palloc pool cursor d.toNat)) (maps ++ record)
  s'.ok

/-- The slot checks that PFREE and PSEAL share (R261, R262): the pool, the slot, its record and its freeing mark. -/
def State.withSlot (s : State) (page desc : Nat) (k : State → Pool → Nat → Nat → State) : State :=
  s.withPool desc fun s p =>
    match p.slotOf page with
    | none => s.engineFault
    | some slot => s.checkedRead (p.record slot) 64 fun s bs =>
      let x := leNat bs
      if !recordAlloc x || s.isFreeing (s.homeKey s.cur.who s.cur.asid (p.record slot)) || s.heldPage s.cur.asid page then
        s.engineFault
      else k s p slot x

/-- PFREE: reading RREF and marking the slot freeing are one action; a referenced slot is PAGE_REFERENCED (R261). -/
def execPfree (t a b : BitVec 6) (s : State) : Out :=
  let page := (s.rs a).toNat
  let desc := (s.rs b).toNat
  (s.withSlot page desc fun s p slot x =>
    if recordRref x != 0 then s.trap 10 0 0 0
    else
      let key := s.homeKey s.cur.who s.cur.asid (p.record slot)
      ({ s with freeing := s.freeing ++ [(key, s.cur.who, s.focus.pos)] } : State).effect
        (.cmd (some t.toNat) (.pfree desc page slot))).ok

def execPseal (t a b : BitVec 6) (s : State) : Out :=
  let page := (s.rs a).toNat
  let desc := (s.rs b).toNat
  (s.withSlot page desc fun s _ slot _ => s.effect (.cmd (some t.toNat) (.pseal desc page slot))).ok

/-- PATTR: the page translates as for a load and needs W (R263). -/
def execPattr (t a : BitVec 6) (k : BitVec 1) (s : State) : Out :=
  let va := (s.rs a).toNat
  let s' :=
    if 2 ^ 55 ≤ va then s.trap 6 1 va 0
    else match s.page s.cur.asid s.die va false false false with
      | .awaits => s.awaitPages 6 [(va / 65536, va)] false
      | .cannot level => s.trap 6 4 va level
      | .perm => s.trap 6 3 va 0
      | .ok _ e _ _ =>
        if s.heldPage s.cur.asid va then s.engineFault
        else if !pteW e then s.trap 6 3 va 0
        else if k == 1 && pteEnc e then s.trap 9 0 0 0
        else if pteKv e || pteRepl e then s.engineFault
        else (s.reportWalk s.cur.asid va).effect (.cmd (some t.toNat) (.pattr va (k == 1)))
  s'.ok

/-! ### The operations -/

/-- A refill is requested when none is outstanding for the pool (R259). -/
def State.requestRefill (s : State) (asid desc free : Nat) : State :=
  if s.services.any fun v => v.func == 3 && v.asid == asid && v.addr == desc && v.answer.isNone then s
  else s.raiseService 3 asid desc free none

/-- Sets or clears the bitmap bit of a slot; an error in the byte that holds it is reported. -/
def State.putSlotBit (s : State) (w : Who) (asid time : Nat) (p : Pool) (slot : Nat) (free : Bool) : State × Nat :=
  let x := leNat (s.fetch w asid (p.bitAt slot) 1)
  let m := 2 ^ (slot / 256 % 8)
  let s := match s.upsetOf w asid (s.dieOfWho w) [(p.bitAt slot, 1)] with
    | some u => s.reportUpset u
    | none => s
  s.devKeep w asid time (p.bitAt slot) (leBytes 1 (if free then Nat.lor x m else x - Nat.land x m))

def State.putFree (s : State) (w : Who) (asid time : Nat) (p : Pool) (n : Nat) : State × Nat :=
  s.devPut w asid time (p.desc + 36) (leBytes 4 n)

/-- The record of a slot as PALLOC leaves it. -/
def allocated (x : Nat) : Nat :=
  x / 2 ^ 320 * 2 ^ 320 + bits x 319 314 * 2 ^ 314 + bits x 295 289 * 2 ^ 289 + 2 ^ 288 + bits x 287 256 * 2 ^ 256 + (2 ^ 256 - 1)

/-- PALLOC takes a slot of a pool. -/
def State.takeSlot (s : State) (w : Who) (asid time : Nat) (p : Pool) (slot : Nat) : State × Nat :=
  let (s, time) := s.putSlotBit w asid time p slot false
  let (s, time) := s.putFree w asid time p (p.free - 1)
  let s := s.setPte asid (p.page slot) 0x30 0x207
  let (s, time) := s.devKeep w asid time (p.record slot) (leBytes 64 (allocated (leNat (s.fetch w asid (p.record slot) 64))))
  (if p.free - 1 < p.low then s.requestRefill asid p.desc (p.free - 1) else s, time)

/-- PALLOC at the commit of its bundle, as one indivisible operation that orders as an AMO does (R260): its page address, or
0, and its logical time. -/
def State.palloc (s : State) (w : Who) (asid desc cursor time : Nat) : State × Nat × Nat :=
  match Pool.ofBytes desc (s.fetch w asid desc 64) with
  | none => (s, 0, time)
  | some p =>
    let c := leNat (s.fetch w asid cursor 1)
    let (slot, tried) := s.findSlot w asid p 256 c []
    let (s, time) := s.fetchTime w asid time
      (((desc, 64) :: (cursor, 1) :: tried.map fun ch => (p.bitmap ch, p.bitmapLen)) ++ slot.toList.map fun k => (p.record k, 64))
    let s := s.mark w asid (s.dieOfWho w) [(cursor, 1)] true
    let (s, time) := s.accessTime none w asid (s.dieOfWho w) time [(cursor, 1)] true
    let s := s.put (s.partsOf w asid (s.dieOfWho w) cursor (leBytes 1 (c + 1)))
    match slot with
    | none => (s.requestRefill asid desc p.free, 0, time)
    | some slot =>
      let (s, time) := s.takeSlot w asid time p slot
      (s, p.page slot, time)

/-- PFREE and PSEAL ended, the freeing mark of the operation among the rest (R261). -/
def State.poolEnd (s : State) (o : Op) (failed : Bool) : State :=
  ({ s with freeing := s.freeing.filter fun f => !(o.who == some f.2.1 && f.2.2 == o.pos) } : State).opEnd o failed

/-- The pool of an operation, once every range it needs can be read; `k` goes on, and what cannot be read fails it (assumption
97). In TRIP no engine accepts work. -/
def State.opPool (s : State) (o : Op) (w : Who) (desc slot : Nat) (k : State → Op → Pool → Out) : Out :=
  if o.wait.isSome || !s.powered then .next s
  else if o.denied then (s.poolEnd o true).done
  else match s.reach w o.asid [(desc, 64)] true false with
    | .trap .. => (s.poolEnd o true).done
    | .wait ps => (s.opAwait o ps false).done
    | .ok =>
      match Pool.ofBytes desc (s.fetch w o.asid desc 64) with
      | none => ((s.fetchTime w o.asid o.time [(desc, 64)]).1.poolEnd o true).done
      | some p =>
        match s.reach w o.asid [(p.record slot, 64)] true false with
        | .trap .. => (s.poolEnd o true).done
        | .wait ps => (s.opAwait o ps false).done
        | .ok =>
          let (s, time) := s.fetchTime w o.asid o.time [(desc, 64), (p.record slot, 64)]
          k s { o with time := time } p

def OpKind.asPfree : OpKind → Option (Nat × Nat × Nat)
  | .pfree pool page slot => some (pool, page, slot)
  | _ => none

def OpKind.asPseal : OpKind → Option (Nat × Nat × Nat)
  | .pseal pool page slot => some (pool, page, slot)
  | _ => none

def OpKind.asPattr : OpKind → Option (Nat × Bool)
  | .pattr va bank => some (va, bank)
  | _ => none

/-- The slot of a pool becomes FREE: its leaf is written FREE also where its page was UNMAPPED or FAULTING, of which Table 10-5
has no row (the model's choice, assumption 111). -/
def State.freeSlot (s : State) (w : Who) (asid time : Nat) (p : Pool) (page slot : Nat) : State × Nat :=
  let frame := ((s.pteAddr asid page).map fun a => pteFrame (Mem.le s.mem a 8)).getD 0
  let s := ((s.evictFrames frame 1).undefineTables asid (page / 65536) 1).setPte asid page 0x1 0x200
  let (s, time) := s.putSlotBit w asid time p slot true
  let x := leNat (s.fetch w asid (p.record slot) 64)
  let (s, time) := s.devKeep w asid time (p.record slot) (leBytes 64 (x - Nat.land x (2 ^ 288)))
  s.putFree w asid time p (p.free + 1)

/-- PFREE_SUBOPERATION: the leaf becomes FREE, the bitmap bit is set, ALLOC clears and FREE rises (R261). -/
def execPfreeSuboperation (id : Nat) (s : State) : Out :=
  match s.opWith id OpKind.asPfree with
  | none => .next s
  | some (o, w, desc, page, slot) => s.opPool o w desc slot fun s o p =>
    match s.reach w o.asid [(p.bitAt slot, 1)] true false with
    | .trap .. => (s.poolEnd o true).done
    | .wait ps => (s.opAwait o ps false).done
    | .ok =>
      let (s, time) := s.freeSlot w o.asid o.time p page slot
      (s.poolEnd { o with time := time } false).done

/-- A record with CHECK and SEALED. -/
def sealed (x check : Nat) : Nat := Nat.lor (x - bits x 287 256 * 2 ^ 256 + check * 2 ^ 256) (2 ^ 312)

/-- PSEAL_SUBOPERATION: CHECK and SEALED from the bytes of the page at one order point (R262, R264). -/
def execPsealSuboperation (id : Nat) (s : State) : Out :=
  match s.opWith id OpKind.asPseal with
  | none => .next s
  | some (o, w, desc, page, slot) => s.opPool o w desc slot fun s o p =>
    match s.reach w o.asid [(page, 65536)] true false with
    | .trap .. => (s.poolEnd o true).done
    | .wait ps => (s.opAwait o ps false).done
    | .ok =>
      match s.upsetOf w o.asid (s.dieOfWho w) [(page, 65536)] with
      | some u => ((s.reportUpset u).poolEnd o true).done
      | none =>
        let check := kvChecksum (s.fetch w o.asid page 65536)
        let x := leNat (s.fetch w o.asid (p.record slot) 64)
        let (s, time) := s.fetchTime w o.asid o.time [(page, 65536)]
        let (s, time) := s.devKeep w o.asid time (p.record slot) (leBytes 64 (sealed x check))
        (s.poolEnd { o with time := time } false).done

/-- PATTR_SUBOPERATION: the lines of the page leave the chip, and its leaf takes the new BANK; one that has it already is done
(R263), and one that has become replicated or COLLAPSING since its word executed leaves its leaf as it is (assumption 98). -/
def execPattrSuboperation (id : Nat) (s : State) : Out :=
  match s.opWith id OpKind.asPattr with
  | none => .next s
  | some (o, _, va, bank) =>
    if o.wait.isSome || !s.powered then .next s
    else if o.denied then (s.opEnd o true).done
    else match s.page o.asid 0 va false false false with
      | .awaits => (s.opAwait o [(va / 65536, va)] false).done
      | .ok _ e level addr =>
        if pteBank e == bank then (s.opEnd o false).done
        else if bank && (pteRepl e || pteKv e || (s.collapseOf o.asid va).isSome) then (s.opEnd o true).done
        else
        let e' := if bank then Nat.lor e 0x40 else e - Nat.land e 0x40
        let (p, n) := leafPages level va
        let s := (s.evictFrames (pteFrame e) n).undefineTables o.asid p n
        let s := if bank then s else s.leaveBank o.asid p n
        let s : State := { s with mem := Mem.write s.mem addr (leBytes 8 e') }
        (s.opEnd o false).done
      | _ => (s.opEnd o true).done

/-- A slot whose leaf a refill may populate, and whose record it reads: the leaf has V = 0 and KV = 0, and its page is not
FAULTING (R259). -/
def State.unpopulatedLeaf (s : State) (w : Who) (asid : Nat) (p : Pool) (k : Nat) : Bool :=
  (match s.pteAddr asid (p.page k) with
   | some a => !pteV (Mem.le s.mem a 8) && !pteKv (Mem.le s.mem a 8)
   | none => false)
    && !(s.faulting.any fun f => f.asid == asid && f.page == p.page k / 65536)
    && s.reach w asid [(p.record k, 64)] true false == .ok

/-- A slot that a refill may populate: one that is not allocated either (R338). -/
def State.unpopulated (s : State) (w : Who) (asid : Nat) (p : Pool) (k : Nat) : Bool :=
  s.unpopulatedLeaf w asid p k && !recordAlloc (leNat (s.fetch w asid (p.record k) 64))

/-- KV_POOL_REFILL: while a refill is outstanding and FREE is below LOW, the lowest unpopulated slot takes a frame of its own
pseudo-channel and becomes FREE (R258, R259). -/
def execKvPoolRefill (asid pool frame : Nat) (s : State) : Out :=
  let w := noWho
  if !s.services.any fun v => v.func == 3 && v.asid == asid && v.addr == pool then .next s
  else match s.reach w asid [(pool, 64)] true false with
    | .ok =>
      match Pool.ofBytes pool (s.fetch w asid pool 64) with
      | none => .next s
      | some p =>
        match (List.range p.npage).find? (s.unpopulated w asid p) with
        | none => .next s
        | some k =>
          if p.low ≤ p.free || frame % 256 != k % 256 || s.reach w asid [(p.bitAt k, 1)] true false != .ok then .next s
          else
            let tested := (List.range (k + 1)).filter (s.unpopulatedLeaf w asid p)
            let (s, time) := s.fetchTime w asid s.floor ((pool, 64) :: tested.map fun j => (p.record j, 64))
            let s := s.setPte asid (p.page k) (2 ^ 52 - 1) (0x200 + frame % 2 ^ 36 * 2 ^ 16)
            let (s, time) := s.putSlotBit w asid time p k true
            let (s, time) := s.putFree w asid time p (p.free + 1)
            ({ s with floor := max s.floor time } : State).done
    | _ => .next s

/-! ### The scrubber (R264, R429) -/

/-- The pool in which a slot can be visited: its descriptor and the slot's record and page can be read. -/
def State.scrubbed (s : State) (asid pool slot : Nat) : Option Pool :=
  if s.reach noWho asid [(pool, 64)] true false == .ok then
    (Pool.ofBytes pool (s.fetch noWho asid pool 64)).filter fun p =>
      decide (slot < p.npage) && s.reach noWho asid [(p.record slot, 64)] true false == .ok
        && (s.resolve noWho asid 0 (p.page slot) false).isSome
  else none

/-- A slot whose record is sound and SEALED. -/
def State.isSealed (s : State) (asid : Nat) (p : Pool) (slot : Nat) : Bool :=
  (s.upsetOf noWho asid 0 [(p.record slot, 64)]).isNone && bits (leNat (s.fetch noWho asid (p.record slot) 64)) 312 312 == 1

/-- Physical address of the page of a slot. -/
def State.slotPhys (s : State) (asid : Nat) (p : Pool) (slot : Nat) : Nat :=
  ((s.resolve noWho asid 0 (p.page slot) false).map (·.2)).getD 0

/-- Checks a sealed page against its record (R264). -/
def State.scrubPage (s : State) (asid : Nat) (p : Pool) (slot : Nat) : State :=
  if !s.isSealed asid p slot then s
  else
    let bad := (s.upsetOf noWho asid 0 [(p.page slot, 65536)]).isSome
    let x := leNat (s.fetch noWho asid (p.record slot) 64)
    let same := kvChecksum (s.fetch noWho asid (p.page slot) 65536) == bits x 287 256
    let pa := s.slotPhys asid p slot
    let (s, time) := s.fetchTime noWho asid s.floor [(p.page slot, 65536)]
    if bad || same then { s with floor := max s.floor time }
    else
      let (s, time) := s.devPut noWho asid time (p.record slot) (leBytes 64 (Nat.lor x (2 ^ 313)))
      ({ s with floor := max s.floor time } : State).report 2 (stackOf pa) pa []

/-- SCRUB: one slot of a pool is visited; in host-assisted mode a sealed page is checked once the host has said so. -/
def execScrub (asid pool slot : Nat) (s : State) : Out :=
  match s.scrubbed asid pool slot with
  | none => .next s
  | some p =>
    let (s, time) := s.fetchTime noWho asid s.floor [(pool, 64), (p.record slot, 64)]
    let s : State := { s with floor := max s.floor time }
    if !s.isSealed asid p slot then s.done
    else if s.hwMode 9 then (s.scrubPage asid p slot).done
    else
      let id := s.nextId
      let s := s.opNew (Op.mk 0 none asid 0 0 none 0 none false false [] (.scrub pool slot) [] false)
      (s.raiseService 9 asid (s.slotPhys asid p slot) 0 (some id)).done

/-- The patrol of the scrubber reads the DRAM row of an address and reports the errors that stand there (R429). -/
def State.patrol (s : State) (pa : Nat) : State :=
  if !s.hwMode 9 then s
  else (s.upsets.filter fun u => u.place == .phys && u.cause == 8 && u.addr / 1024 == pa / 1024).foldl (fun s u => s.reportUpset u) s

end Sys2Proof.Machine
end

