-- ==== Sys2Proof/Machine/Barrier.lean ====
section
/-!
DEFINITION. Barriers and wakes: BINIT, BARR, BWAIT, WWATCH, WWAIT, and what happens at a barrier (R368 to R380).
-/
namespace Sys2Proof.Machine

/-! ### Barriers -/

def execBinit (t a : BitVec 6) (c : BitVec 8) (s : State) : Out :=
  let x := (s.rs a).toNat
  if x == 0 || decide (2 ^ 16 ≤ x) then .next s.engineFault
  else (s.effect (.cmd (some t.toNat) (.binit c.toNat x))).ok

def execBinitFree (t : BitVec 6) (c : BitVec 8) (s : State) : Out :=
  (s.effect (.cmd (some t.toNat) (.binitFree c.toNat))).ok

/-- BARR: the arrival is sent at commit, and its result lands two bundles on (R373). -/
def execBarr (d : BitVec 6) (g : BitVec 1) (c : BitVec 8) (s : State) : Out :=
  (s.effect (.barr c.toNat (g == 1) d.toNat)).ok

/-- Column and row of an instance's core in its launch, and its group (R361). -/
def Launch.colOf (l : Launch) (inst : Nat) : Nat := inst / l.c % 2 ^ l.lw
def Launch.rowOf (l : Launch) (inst : Nat) : Nat := inst / l.c / 2 ^ l.lw

def Launch.gidxOf (l : Launch) (inst : Nat) : Nat :=
  l.rowOf inst / 2 ^ l.gh * 2 ^ (l.lw - l.gw) + l.colOf inst / 2 ^ l.gw

/-- The condition of R374. -/
def State.barrierVerdict (s : State) (c : Context) (group : Bool) (b : Nat) (phase : Bool) : Wait.Verdict :=
  if group then (if (s.groupBarrier c).ph != phase then .holds else .awaits 0)
  else
    let x := s.deviceBarrier b
    if x.state == 0 || x.asid != c.asid then .never else if x.ph != phase then .holds else .awaits b

/-- BWAIT, whose bundle has dispatched because the condition of R374 was met: its context took the time of the flip then
(R231), and whatever the barrier does next is nothing to it. -/
def execBwait (_a : BitVec 6) (_g : BitVec 1) (_c : BitVec 8) (s : State) : Out := s.ok

/-- One counted arrival: the barrier after it, and its result word (Tables 17-1, 17-3). -/
def Barrier.arrive (x : Barrier) (time : Nat) : Barrier × Nat :=
  let ph := if x.ph then 1 else 0
  let time := max x.time time
  if x.arrived + 1 == x.count then
    ({ x with state := 2, arrived := 0, ph := !x.ph, time := 0, flipTime := time }, ph + 2)
  else ({ x with state := 1, arrived := x.arrived + 1, time := time }, ph)

def lostArrival : Nat := 2 ^ 63

/-- An arrival at a device barrier in an address space. -/
def State.arriveDevice (s : State) (b asid time : Nat) : State × Nat :=
  let x := s.deviceBarrier b
  if x.state == 0 || x.asid != asid then (s, lostArrival)
  else
    let r := x.arrive time
    ({ s with barriers := SMap.set s.barriers b r.1 }, r.2)

/-- An arrival at the group barrier of an instance; one that was sent counts also where its instance has ended since. -/
def State.arriveGroup (s : State) (w : Who) (time : Nat) : State × Nat :=
  match s.launchOf w with
  | none => (s, lostArrival)
  | some l =>
    let g := l.gidxOf w.inst
    let x := SMap.getD l.groups g Barrier.free
    if x.state == 0 then (s, lostArrival)
    else
      let r := x.arrive time
      ({ s with launches := SMap.set s.launches w.launch { l with groups := SMap.set l.groups g r.1 } }, r.2)

structure Arrival where
  barrier : Nat
  group : Bool
  dest : Nat
  pos : Nat
  deriving DecidableEq, Repr

def OpKind.asBarr : OpKind → Option Arrival
  | .barr barrier group dest land => some (Arrival.mk barrier group dest land)
  | _ => none

/-- BARRIER_ARRIVAL: an arrival reaches its barrier and its result is computed (R370, R373). -/
def execBarrierArrival (id : Nat) (s : State) : Out :=
  match s.opWith id OpKind.asBarr with
  | none => .next s
  | some (o, w, x) =>
    let (s, r) := if x.group then s.arriveGroup w o.time else s.arriveDevice x.barrier o.asid o.time
    let l : Landing := { write := .s x.dest (BitVec.ofNat 64 r), pos := x.pos, src := o.pos }
    (({ s.landWho w id (some l) with floor := max s.floor o.time } : State).opDrop id).done

def OpKind.asBinit : OpKind → Option (Nat × Option Nat)
  | .binit b count => some (b, some count)
  | .binitFree b => some (b, none)
  | _ => none

/-- The trap that a context blocked on a freed barrier takes at its BWAIT (Table 17-1). -/
def freedTrap (raw pos : Nat) : Trap :=
  { cls := 8, cause := 0, slot := 7, addr := 0, aux := raw, level := 0, code := 0, isAsync := false, due := pos }

/-- Each context blocked in BWAIT on barrier b takes ENGINE_FAULT at that bundle, once every earlier bundle has committed. -/
def State.faultWaiters (s : State) (b asid : Nat) : State :=
  s.ctxs.foldl (fun s e =>
    match e.2.block with
    | some (.barrier k _ raw _) =>
      if k == b && e.2.asid == asid && e.2.state == .blocked then
        if e.2.inflight == [] then s.suspend e.1 (freedTrap raw e.2.pos) e.2.pos e.2.pc e.2.pos e.2.pc
        else s.modCtx e.1 fun c => { c with pending := c.pending ++ [freedTrap raw c.pos] }
      else s
    | _ => s) s

/-- BINIT_SUBOPERATION: BINIT or BINIT.free acts by Table 17-1. -/
def execBinitSuboperation (id : Nat) (s : State) : Out :=
  match s.opWith id OpKind.asBinit with
  | none => .next s
  | some (o, _, b, what) =>
    if !s.powered then .next s else
    let x := s.deviceBarrier b
    let own := x.state != 0 && x.asid == o.asid && x.arrived == 0
    match what with
    | some count =>
      if x.state == 0 then
        let x : Barrier := { Barrier.free with state := 1, asid := o.asid, count := count }
        (({ s with barriers := SMap.set s.barriers b x } : State).opEnd o false).done
      else if own then
        (({ s with barriers := SMap.set s.barriers b { x with state := 1, count := count } } : State).opEnd o false).done
      else (s.opEnd o true).done
    | none =>
      if own then
        ((({ s with barriers := SMap.erase s.barriers b } : State).faultWaiters b o.asid).opEnd o false).done
      else (s.opEnd o true).done

/-! ### Wakes -/

/-- The offset of a start address in the caller's own scratchpad (R379). -/
def State.ownOffset (s : State) (va : Nat) : Option Nat :=
  match s.region s.cur.who s.cur.asid va with
  | none => none
  | some r =>
    if r.kind == .own || (r.kind == .cluster && r.place == .scratch (coreOf s.focus.ticket)) then some (va - r.lo) else none

/-- Whether comparator k is FREE or the caller's. -/
def State.compFree (s : State) (t k : Nat) : Bool :=
  match SMap.get? (s.core (coreOf t)).comps k with
  | some q => q.owner == (s.ctx t).who
  | none => true

def execWwatch (k : BitVec 3) (a b : BitVec 6) (s : State) : Out :=
  let len := (s.rs b).toNat
  match s.ownOffset (s.rs a).toNat with
  | none => .next s.engineFault
  | some off =>
    if decide (0x18_0000 < len) || decide (hdrScratch (s.hdrOf s.cur.who) < off + len) ||
        !s.compFree s.focus.ticket k.toNat then .next s.engineFault
    else (s.effect (.wwatch k.toNat off len)).ok

/-- The token word of Table 17-6. -/
def Token.word (x : Token) : Word :=
  BitVec.ofNat 64 (x.comp + (if x.coal then 16 else 0) + x.hits * 2 ^ 8 + x.off * 2 ^ 32)

/-- The condition of R380: a token, or an armed comparator that can still push one. -/
def State.wakeVerdict (s : State) (t mask : Nat) : Wait.Verdict :=
  if (s.token t mask).isSome then .holds
  else if (s.core (coreOf t)).comps.any fun e => e.2.armed && e.2.owner == (s.ctx t).who && selected mask e.1 then .awaits 0
  else .never

/-- The token that the executing bundle has popped. -/
def State.takenToken (s : State) : Option Token :=
  (s.core (coreOf s.focus.ticket)).tokens.find? fun x => x.taken == some (s.focus.ticket, s.focus.pos)

def execWwait (d a : BitVec 6) (s : State) : Out :=
  match s.takenToken with
  | some x => ((s.setS 2 d x.word).afterTime x.time).ok
  | none =>
    match s.wakeVerdict s.focus.ticket (s.rs a).toNat with
    | .never => .next s.engineFault
    | _ => .next s

end Sys2Proof.Machine
end

