-- ==== Sys2Proof/Machine/Group.lean ====
section
/-!
DEFINITION. The group: its geometry and its life, COLL, and the performance of a collective (R361 to R367, R416, R417).
-/
namespace Sys2Proof.Machine

/-! ### Geometry (R361) -/

def Launch.rankOf (l : Launch) (inst : Nat) : Nat :=
  (l.rowOf inst % 2 ^ l.gh * 2 ^ l.gw + l.colOf inst % 2 ^ l.gw) * l.c + inst % l.c

def Launch.instances (l : Launch) : Nat := 2 ^ l.lw * 2 ^ l.lh * l.c

def Launch.ngrp (l : Launch) : Nat := 2 ^ (l.lw - l.gw) * 2 ^ (l.lh - l.gh)

/-- Members of each group. -/
def Launch.groupSize (l : Launch) : Nat := 2 ^ l.gw * 2 ^ l.gh * l.c

/-- CSR GRPB (Table 16-1), from the coordinates assigned at acceptance (R362). -/
def Launch.grpb (l : Launch) (inst : Nat) : Word :=
  BitVec.ofNat 64 (l.gidxOf inst * 2 ^ 32 + l.rankOf inst * 2 ^ 16 + (l.oy + l.rowOf inst / 2 ^ l.gh * 2 ^ l.gh) * 2 ^ 8
    + (l.ox + l.colOf inst / 2 ^ l.gw * 2 ^ l.gw))

/-- CSR GRPS (Table 16-2). -/
def Launch.grps (l : Launch) : Word :=
  BitVec.ofNat 64 (l.oy * 2 ^ 57 + l.ox * 2 ^ 52 + l.c * 2 ^ 48 + l.gh * 2 ^ 44 + l.gw * 2 ^ 40 + l.lh * 2 ^ 36
    + l.lw * 2 ^ 32 + l.ngrp)

/-! ### The end of a member (R96, R363, R369, Table 17-4) -/

/-- A group barrier whose COUNT falls by one. -/
def Barrier.lose (x : Barrier) : Barrier :=
  let n := x.count - 1
  if n == 0 then Barrier.free
  else if x.arrived == n then
    { x with state := 2, count := n, arrived := 0, ph := !x.ph, time := 0, flipTime := x.time }
  else { x with count := n }

/-- The instance of a context ends: its comparators and tokens go, its tiles return, its group barrier loses a member, and
the context becomes EMPTY. -/
def State.endInstance (s : State) (t : Nat) (terminated : Bool) : State :=
  let c := s.ctx t
  let w := c.who
  let s := s.modCore (coreOf t) fun k => { k with
    comps := k.comps.filter fun e => e.2.owner != w
    tokens := k.tokens.filter fun x => x.owner != w }
  let s := s.setCtx t Context.empty
  { s with
    floor := max s.floor c.ltime
    launches := SMap.modify s.launches w.launch fun l => { l with
      ended := l.ended ++ [w.inst]
      faulted := l.faulted || terminated
      time := max l.time c.ltime
      groups := SMap.modify l.groups (l.gidxOf w.inst) Barrier.lose } }

/-! ### COLL (R364, R365) -/

/-- The bytes of an element of a TY code. -/
def collBytes (ty : Nat) : Nat := if ty == 1 then 8 else 4

def execColl (t a b : BitVec 6) (c : BitVec 2) (e : BitVec 1) (z : BitVec 2) (o : BitVec 3) (s : State) : Out :=
  let n := (s.rs b).toNat
  let va := (s.rs a).toNat
  let k := collBytes z.toNat
  let segs := [(va, n * k)]
  if n == 0 || decide (16384 < n) || va % k != 0 || (s.spaceBad s.cur.who s.cur.asid RKind.device segs).isSome then
    .next s.engineFault
  else match s.chk 6 segs true true RKind.device true 0 with
    | .trap cls cause addr level => .next (s.trap cls cause addr level)
    | .wait ps => .next (s.awaitPages 6 ps true)
    | .ok => (s.effect (.cmd (some t.toNat) (.coll (CollArg.mk o.toNat z.toNat (e == 1) c.toNat va n 0) none none))).ok

/-! ### The collective (R366, R367, R416) -/

/-- Device j belongs to the collective set. -/
def State.inSet (s : State) (j : Nat) : Bool := (SMap.getD s.csets (j / 64) 0).getLsbD (j % 64)

/-- The members of the collective set below device j. -/
def State.setBelow (s : State) (j : Nat) : Nat := ((List.range j).filter s.inSet).length

/-- One participant's contribution: its key, when it arrived, what it asks, and its elements. -/
structure Part where
  key : Nat
  arrived : Nat
  op : Nat
  ty : Nat
  tree : Bool
  data : List Nat
  deriving DecidableEq, Repr

/-- The COLLs of one collective that have been sent here and whose result is still to be computed. -/
def State.collOps (s : State) (l : Launch) (launch scope gidx index : Nat) : List (Op × Who × CollArg) :=
  s.ops.filterMap fun o =>
    match o.who, o.kind with
    | some w, .coll a _ none =>
      if w.launch == launch && a.scope == scope && a.index == index && (scope != 0 || l.gidxOf w.inst == gidx) then
        some (o, w, a)
      else none
    | _, _ => none

/-- The key of a participant (R366). -/
def State.collKey (s : State) (l : Launch) (scope inst : Nat) : Nat :=
  if scope == 0 then l.rankOf inst
  else if scope == 1 then inst
  else s.setBelow s.fabid * l.instances + inst

/-- The elements of a participant's buffer, as numbers. -/
def State.collData (s : State) (w : Who) (asid : Nat) (a : CollArg) : List Nat :=
  let k := collBytes a.ty
  elems (8 * k) a.count (leNat (s.fetch w asid a.addr (a.count * k)))

def FabArrival.part (stamp : Nat) (f : FabArrival) : Part := Part.mk f.key stamp f.op f.ty f.tree f.data

/-- One combination of two elements; .w and .d follow the AMO codes of the same numbers. -/
def collCombine (op ty x y : Nat) : Nat :=
  if ty == 2 then
    (match op with
     | 0 => fpAdd .fp32 .rne x y
     | 1 => fpMin .fp32 x y
     | _ => fpMax .fp32 x y)
  else amoValue op (8 * collBytes ty) x y

/-- Puts parts in order of a number. -/
def insertPart (f : Part → Nat) (x : Part) : List Part → List Part
  | [] => [x]
  | y :: ys => if f y ≤ f x then y :: insertPart f x ys else x :: y :: ys

def sortParts (f : Part → Nat) (ps : List Part) : List Part := ps.foldl (fun acc p => insertPart f p acc) []

/-- Element e of the result: the tree of R42 over keys, or a combination in arrival order (R366). -/
def collElem (op ty : Nat) (tree : Bool) (byKey byTime : List Part) (e : Nat) : Nat :=
  let at_ := fun (p : Part) => p.data.getD e 0
  if op == 7 then (byKey.head?.map at_).getD 0
  else if ty == 2 && op == 0 && tree then
    treeResult .fp32 .rne (treeRoot (Nat.log2 byKey.length + 1) (byKey.map fun p => some (at_ p)))
  else match byTime.map at_ with
    | [] => 0
    | x :: xs =>
      let r := xs.foldl (collCombine op ty) x
      if ty == 2 then treeResult .fp32 .rne (some r) else r

/-- What stands between a collective and its performance. -/
inductive CollVerdict where
  | fails | awaits | ready
  deriving DecidableEq, Repr

/-- The instances that take part, on this device. -/
def Launch.members (l : Launch) (scope gidx : Nat) : List Nat :=
  (List.range l.instances).filter fun i => scope != 0 || l.gidxOf i == gidx

/-- Contributions of other devices to a .fab collective. -/
def State.fabParts (s : State) (taskid index : Nat) : List (Nat × FabArrival) :=
  s.fabArrivals.filter fun f => f.2.taskid == taskid && f.2.index == index

/-- A .fab collective of a TASKID has lost a link, a member device or a participant there (R367, R417). -/
def State.fabFails (s : State) (taskid index : Nat) : Bool :=
  s.fabLost.any fun f => f.1 == taskid && decide (f.2.1 ≤ index) && decide (index < f.2.2)

/-- The verdict of R366, R367 and R416; a COLL that came after a member of its scope had ended has failed. -/
def State.collVerdict (s : State) (l : Launch) (launch scope gidx index : Nat) : CollVerdict :=
  let here := s.collOps l launch scope gidx index
  let missing := (l.members scope gidx).filter fun i => !here.any fun x => x.2.1.inst == i
  let away := if scope == 2 then s.fabParts (recTaskId l.task.record) index else []
  let odd := match here with
    | [] => false
    | (_, _, a) :: _ =>
      here.any (fun x => x.2.2.op != a.op || x.2.2.ty != a.ty || x.2.2.tree != a.tree || x.2.2.count != a.count)
        || away.any fun f => f.2.op != a.op || f.2.ty != a.ty || f.2.tree != a.tree || f.2.data.length != a.count
  let outside := scope == 2 && (!s.inSet s.fabid
    || s.launches.any (fun x => decide (x.1 < launch) && recTaskId x.2.task.record == recTaskId l.task.record)
    || away.any (fun f => f.2.instances != l.instances) || s.fabFails (recTaskId l.task.record) index)
  if outside || missing.any l.ended.contains || here.any (fun x => x.1.failed) then .fails
  else if missing != [] || (scope == 2 && away.length != (s.setBelow 256 - 1) * l.instances) then .awaits
  else if odd then .fails
  else .ready

/-- A COLL with what it has read of its buffer, and the result that it is to write there. -/
structure CollStep where
  arg : CollArg
  got : Option (List Nat)
  result : Option (List Nat)
  deriving DecidableEq, Repr

def OpKind.asColl : OpKind → Option CollStep
  | .coll a got result => some (CollStep.mk a got result)
  | _ => none

/-- The buffer of a contribution. -/
def CollArg.segs (a : CollArg) : List Seg := [(a.addr, a.count * collBytes a.ty)]

/-- Every COLL of the collective ends with TERR. -/
def State.collFail (s : State) (here : List (Op × Who × CollArg)) : State :=
  here.foldl (fun s x => s.opEnd x.1 true) s

/-- What a participant on this device contributes, once its buffer has been read. -/
def State.collPart (s : State) (l : Launch) (scope : Nat) (x : Op × Who × CollArg) : Option Part :=
  match x.1.kind with
  | .coll a (some data) _ => some (Part.mk (s.collKey l scope x.2.1.inst) x.1.id a.op a.ty a.tree data)
  | _ => none

/-- The result of a collective whose buffers have all been read. -/
def collResult (a : CollArg) (parts : List Part) : List Nat :=
  (List.range a.count).map (collElem a.op a.ty a.tree (sortParts Part.key parts) (sortParts Part.arrived parts))

/-- Once every buffer has been read, the result is ready to be written into each, at a logical time that follows every read
(R366). -/
def State.collCombineAll (s : State) (l : Launch) (launch : Nat) (a : CollArg) (gidx : Nat) : State :=
  let here := s.collOps l launch a.scope gidx a.index
  let away := if a.scope == 2 then s.fabParts (recTaskId l.task.record) a.index else []
  let mine := here.filterMap (s.collPart l a.scope)
  if mine.length != here.length then s
  else
    let result := collResult a (mine ++ away.map fun f => FabArrival.part f.1 f.2)
    let time := here.foldl (fun t x => max t x.1.time) 0
    let ids := here.map fun x => x.1.id
    { s with
      ops := s.ops.map fun o => match o.kind with
        | .coll b got _ => if ids.contains o.id then { o with time := time, kind := .coll b got (some result) } else o
        | _ => o
      fabArrivals := s.fabArrivals.filter fun f => !away.contains f }

/-- The read of a participant's buffer, at its own order point. -/
def State.collRead (s : State) (o : Op) (w : Who) (a : CollArg) (l : Launch) : State :=
  let data := s.collData w o.asid a
  let (s, time) := s.fetchTime w o.asid o.time a.segs
  (s.opSet { o with time := time, kind := .coll a (some data) none }).collCombineAll l w.launch a (l.gidxOf w.inst)

/-- The write of a participant's buffer, at its own order point; its tag is then set. -/
def State.collWrite (s : State) (o : Op) (w : Who) (a : CollArg) (result : List Nat) : State :=
  let die := s.dieOfWho w
  let k := collBytes a.ty
  let s := s.mark w o.asid die a.segs true
  let (s, time) := s.accessTime none w o.asid die o.time a.segs true
  let s := s.writeAtomic (s.partsOf w o.asid die a.addr (leBytes (a.count * k) (joined (8 * k) result))) time
  s.opEnd { o with time := time } false

/-- One participant's read in a collective that is complete: its buffer is read, or its page is waited for, or the collective
fails. -/
def State.collReady (s : State) (o : Op) (w : Who) (a : CollArg) (l : Launch) (here : List (Op × Who × CollArg)) : Out :=
  if here.any fun x => x.1.denied then (s.collFail here).done
  else match s.reach w o.asid a.segs true true with
    | .wait ps => (s.opAwait o ps true).done
    | .trap .. => (s.collFail here).done
    | .ok =>
      match s.upsetOf w o.asid (s.dieOfWho w) a.segs with
      | some u => ((s.reportUpset u).collFail here).done
      | none => (s.collRead o w a l).done

/-- COLLECTIVE: one sub-operation of one sent COLL: the collective fails or waits, its buffer is read, or the result is
written there (R366). In TRIP none begins, and one of which a buffer has been read completes (Table 21-4). -/
def execCollective (id : Nat) (s : State) : Out :=
  match s.opWith id OpKind.asColl with
  | none => .next s
  | some (o, w, x) =>
    if o.wait.isSome then .next s
    else match s.launchOf w, x.result with
      | none, _ => .next s
      | some _, some result =>
        if o.denied then (s.opEnd o true).done
        else match s.reach w o.asid x.arg.segs false true with
          | .wait ps => (s.opAwait o ps true).done
          | .trap .. => (s.opEnd o true).done
          | .ok => (s.collWrite o w x.arg result).done
      | some l, none =>
        let gidx := l.gidxOf w.inst
        let here := s.collOps l w.launch x.arg.scope gidx x.arg.index
        if !s.powered && !here.any fun y => (OpKind.asColl y.1.kind).any fun z => z.got.isSome then .next s
        else match s.collVerdict l w.launch x.arg.scope gidx x.arg.index with
        | .awaits => .next s
        | .fails => (s.collFail here).done
        | .ready => if x.got.isSome then .next s else s.collReady o w x.arg l here

end Sys2Proof.Machine
end

