-- ==== Sys2Proof/Machine/Trap.lean ====
section
/-!
DEFINITION. Faults: the fault record, its notice, asynchronous traps, and the commands of FCMD (R381 to R389). Taking a trap
and the return from one are `State.suspend` and `State.resumeAt`.
-/
namespace Sys2Proof.Machine

/-! ### The fault record (R382, Table 18-3) -/

/-- The sixteen doublewords of the record. -/
def faultRecord (t : Nat) (c : Context) (f : FaultInfo) : List Nat :=
  let tr := f.trap
  [ 0
  , tr.cls + tr.cause * 2 ^ 8 + tr.slot * 2 ^ 16 + (if tr.isAsync then 2 ^ 20 else 0) + tr.level * 2 ^ 21 + tr.code * 2 ^ 32
  , f.pc
  , f.pos
  , tr.addr
  , tr.aux
  , cstatOf 5 0 0 (t % 4) c.handler
  , f.ltime
  , c.core.toNat % 2 ^ 32 + t * 2 ^ 32
  , c.inst.toNat
  , f.rpc
  , 0, 0, 0, 0, 0 ]

/-- How far the delivery of a context's record has come: its notice is raised in the mode in force now (R424). -/
def State.faultStage (s : State) (t stage : Nat) (norec : Bool) : State :=
  s.modCtx t fun c => { c with fault := c.fault.map fun f =>
    { f with stage := stage, norec := norec, hw := if stage == 1 then s.hwMode 8 else f.hw, wait := none, refused := none } }

/-- Starts what the pages of a device access wait for. -/
def State.needPages (s : State) (asid : Nat) (ps : List (Nat × Nat)) (write : Bool) : State :=
  ps.foldl (fun s p => s.needPage asid p.2 write) s

/-- The delivery of a context's record waits for the first of some pages, each of which starts its service. -/
def State.faultAwait (s : State) (t asid : Nat) (ps : List (Nat × Nat)) (write : Bool) : State :=
  (s.needPages asid ps write).modCtx t fun c => { c with fault := c.fault.map fun f => { f with wait := (ps.head?).map (·.1) } }

/-- Whether a page that the delivery needs has been refused it. -/
def FaultInfo.refuses (f : FaultInfo) (ps : List (Nat × Nat)) : Bool := ps.any fun p => f.refused == some p.1

/-- FAULT_RECORD_WRITE: one write at one order point, once the page at FLTP is mapped; a page that cannot be written leaves
the context FAULTED without a record. -/
def execFaultRecordWrite (t : Nat) (s : State) : Out :=
  let c := s.ctx t
  match c.fault with
  | none => .next s
  | some f =>
    if c.state != .faulted || f.stage != 0 || f.wait.isSome then .next s
    else
      let va := c.fltp.toNat
      match s.reach c.who c.asid [(va, 128)] false true with
      | .wait ps => (if f.refuses ps then s.faultStage t 1 true else s.faultAwait t c.asid ps true).done
      | .trap .. => (s.faultStage t 1 true).done
      | .ok =>
        let die := dieOf (coreOf t)
        let s := s.mark c.who c.asid die [(va, 128)] true
        let (s, lt) := s.accessTime none c.who c.asid die f.ltime [(va, 128)] true
        let s := s.put (s.partsOf c.who c.asid die va ((faultRecord t c f).flatMap (leBytes 8)))
        (({ s with floor := max s.floor lt } : State).faultStage t 1 false).done

/-! ### The notice (R387) -/

/-- The 16-byte word pair of Table 18-6. -/
def noticeBytes (seq : Nat) (fallback : Bool) (t : Nat) (c : Context) (f : FaultInfo) : List Byte :=
  leBytes 8 c.fltp.toNat ++
  leBytes 8 (c.asid + t * 2 ^ 16 + f.trap.cls * 2 ^ 32 + f.trap.cause * 2 ^ 40 + (if f.norec then 2 ^ 48 else 0)
    + (if fallback then 2 ^ 49 else 0) + seq * 2 ^ 56)

/-- A notice to the host: one host-window write in the ring of FTRIAGE, whose SEQ then advances. -/
def State.hostNotice (s : State) (t : Nat) (c : Context) (f : FaultInfo) (fallback : Bool) : State :=
  let x := s.ftriage.toNat
  let seq := bits x 63 56
  let s := s.hostWrite (bits x 55 12 * 4096 + 16 * seq) (noticeBytes seq fallback t c f) []
  { s with ftriage := BitVec.ofNat 64 (x % 2 ^ 56 + (seq + 1) % 256 * 2 ^ 56) }

/-- The handler record at FAULTB − 64 of a launch. -/
def Launch.handlerRecord (l : Launch) : Nat := (recFaultB l.task.record + 2 ^ 64 - 64) % 2 ^ 64

/-- NOTICE: the handler is spawned in hardware mode; otherwise, or where that cannot be done, the host is told. -/
def execNotice (t : Nat) (s : State) : Out :=
  let c := s.ctx t
  match c.fault, s.launchOf c.who with
  | some f, some l =>
    if c.state != .faulted || f.stage != 1 || f.wait.isSome then .next s
    else
      let tell := fun (s : State) (fallback : Bool) => ((s.hostNotice t c f fallback).faultStage t 2 f.norec).done
      if f.norec || c.handler || !f.hw then tell s false
      else
        let segs := [(l.handlerRecord, 64)]
        match s.reach c.who c.asid segs true false with
        | .wait ps => if f.refuses ps then tell s true else (s.faultAwait t c.asid ps false).done
        | .trap .. => tell s true
        | .ok =>
          let die := dieOf (coreOf t)
          match s.upsetOf c.who c.asid die segs with
          | some u => tell (s.reportUpset u) true
          | none =>
            let record := leNat (s.readSeg c.who c.asid die (l.handlerRecord, 64))
            let (s, lt) := (s.mark c.who c.asid die segs false).accessTime none c.who c.asid die f.ltime segs false
            let q := bits s.ftriage.toNat 5 0
            if (taskReason record).isSome || !(s.queue q).handler || !s.accepts q record c.asid true then tell s true
            else
              let task := Task.ofRecord 0 (recSet record 1 c.fltp.toNat) (some c.asid) lt
              ((s.enterTask q task).faultStage t 2 false).done
  | _, _ => .next s

/-! ### Asynchronous traps (R381, R384) -/

/-- ASYNCHRONOUS_TRAP: a RUNNING context takes its first pending trap at the boundary before its next bundle dispatches,
every earlier bundle having committed; a waiting context takes it at once at its first uncommitted bundle. -/
def execAsynchronousTrap (t : Nat) (s : State) : Out :=
  let c := s.ctx t
  match c.inflight with
  | [] =>
    match firstDue c.pos c.pending with
    | some tr => if (c.state == .running && c.block != some .drain) || c.waits then (s.takePending t tr c.pos c.pc).done else .next s
    | none => .next s
  | b :: _ =>
    match firstDue 0 c.pending with
    | some tr => if c.waits then (s.takePending t tr b.pos b.pc).done else .next s
    | none => .next s

/-! ### Commands (R388, R389) -/

/-- A write of register FCMD: the writable fields, with ERR cleared by a one. -/
def State.fcmdWrite (s : State) (v : Word) : State :=
  let err := bits s.fcmd.toNat 3 3 * (1 - bits v.toNat 3 3)
  { s with fcmd := BitVec.ofNat 64 (bits v.toNat 63 48 * 2 ^ 48 + bits v.toNat 42 32 * 2 ^ 32 + err * 8 + bits v.toNat 2 0) }

def State.fcmdErr (s : State) : State := { s with fcmd := s.fcmd ||| 8 }

/-- The FAULTED context with a ticket in an address space. -/
def State.faulted (s : State) (asid t : Nat) : Option FaultInfo :=
  let c := s.ctx t
  if c.state == .faulted && c.asid == asid then c.fault else none

/-- RESUME_AT: RPC is read from the record, after a wait for its page if need be. -/
def State.resumeFromRecord (s : State) (asid t time : Nat) : State :=
  let c := s.ctx t
  let va := c.fltp.toNat + 80
  match s.faulted asid t with
  | none => s.fcmdErr
  | some _ =>
    match s.reach c.who asid [(va, 8)] true false with
    | .trap .. => s.fcmdErr
    | .wait ps =>
      (s.needPages asid ps false).opNew
        { id := 0, who := none, asid := asid, pos := 0, pc := 0, tag := none, time := time,
          wait := (ps.head?).map (fun p => (asid, p.1)), denied := false, failed := false, ports := [], kind := .resumeAt t }
    | .ok =>
      let die := dieOf (coreOf t)
      match s.upsetOf c.who asid die [(va, 8)] with
      | some u => (s.reportUpset u).fcmdErr
      | none =>
        let rpc := leNat (s.readSeg c.who asid die (va, 8))
        let (s, time) := (s.mark c.who asid die [(va, 8)] false).accessTime none c.who asid die time [(va, 8)] false
        s.resumeAt t (bits rpc 55 2 * 4) time

/-- One command at its order point, with the LTIME of the handler that gives it. -/
def State.command (s : State) (cmd asid t time : Nat) : State :=
  match cmd, s.faulted asid t with
  | 1, some f => s.resumeAt t f.rpc time
  | 2, _ => s.resumeFromRecord asid t time
  | 3, some _ => s.endInstance t true
  | 1, none => s.fcmdErr
  | 3, none => s.fcmdErr
  | _, _ => s

/-- A write of register FCMD that carries command `cmd`. -/
def State.fcmdRegister (s : State) (cmd : Nat) (v : Word) : Out :=
  if bits v.toNat 2 0 != cmd then .next s
  else ((s.fcmdWrite v).command cmd (bits v.toNat 63 48) (bits v.toNat 42 32) 0).done

def execResume (v : BitVec 64) (s : State) : Out := s.fcmdRegister 1 v

/-- A RESUME_AT that has waited for the page of its record goes on, once that has been served or refused. -/
def State.goResume (s : State) (o : Op) (t : Nat) : State :=
  let s := s.opDrop o.id
  if o.denied then s.fcmdErr else s.resumeFromRecord o.asid t o.time

def execResumeAt (v : BitVec 64) (s : State) : Out := s.fcmdRegister 2 v

def execTerminate (v : BitVec 64) (s : State) : Out := s.fcmdRegister 3 v

end Sys2Proof.Machine
end

