-- ==== Sys2Proof/Machine/Commit.lean ====
section
/-!
DEFINITION. BUNDLE_COMMIT: what the words of a bundle do when it commits (R87), and what follows a TRAP or DONE (R96, R125,
R127).
-/
namespace Sys2Proof.Machine

/-! ### Whether the effects can still take place -/

/-- Whether a range can be accessed now. -/
def Chk.isOk : Chk → Bool
  | .ok => true
  | _ => false

def StoreChk.isOk : StoreChk → Bool
  | .ok _ => true
  | _ => false

/-- Everything PALLOC reads and writes can be reached (R260). -/
def State.pallocOk (s : State) (w : Who) (asid desc cursor : Nat) : Bool :=
  (s.reach w asid [(desc, 64)] true false).isOk && (s.reach w asid [(cursor, 1)] true true).isOk &&
  match Pool.ofBytes desc (s.fetch w asid desc 64) with
  | none => false
  | some p =>
    let (slot, tried) := s.findSlot w asid p 256 (leNat (s.fetch w asid cursor 1)) []
    (tried.all fun ch => (s.reach w asid [(p.bitmap ch, p.bitmapLen)] true false).isOk) &&
      (slot.all fun k => (s.reach w asid [(p.record k, 64)] true false).isOk)

/-- The checks of an AMO or CAS at its commit. -/
def State.atomicOk (s : State) (c : Context) (die va : Nat) (wide : Bool) : Bool :=
  let segs := [(va, if wide then 8 else 4)]
  (s.check c.who c.asid die 6 segs true true (fun k => k != .host) true va).isOk &&
    (s.upsetOf c.who c.asid die segs).isNone

/-- Whether an effect can take place now: pages may have changed since its word executed, and the word then runs again. -/
def State.effectOk (s : State) (t : Nat) : Effect → Bool
  | .store segs tile =>
    let c := s.ctx t
    let ranges := segs.map fun g => (g.1, g.2.length)
    if tile then (s.check c.who c.asid (dieOf (coreOf t)) 7 ranges false true (fun _ => true) true 0).isOk
    else (s.storeChk c.who c.asid (dieOf (coreOf t)) (coreOf t) ranges (fun _ => true) true 0).isOk
  | .red _ wide va _ =>
    let c := s.ctx t
    (s.storeChk c.who c.asid (dieOf (coreOf t)) (coreOf t) [(va, if wide then 8 else 4)] RKind.device true va).isOk
  | .amo _ wide _ va _ _ => s.atomicOk (s.ctx t) (dieOf (coreOf t)) va wide
  | .cas wide _ va _ _ _ => s.atomicOk (s.ctx t) (dieOf (coreOf t)) va wide
  | .palloc pool cursor _ => s.pallocOk (s.ctx t).who (s.ctx t).asid pool cursor
  | .wwatch k _ _ => s.compFree t k
  | _ => true

/-- Whether an effect must still wait: a tag that counts 255 commands (R214), or a window access behind an .acq (R242) or
behind a change of its window's links (R412). -/
def State.effectWaits (s : State) (t : Nat) : Effect → Bool
  | .cmd (some g) _ => decide (255 ≤ ((s.ctx t).tag g).count)
  | .store segs _ => (segs.head?).any fun g => held g.1
  | .amo _ _ _ va _ _ => held va
  | .cas _ _ va _ _ _ => held va
  | _ => false
where
  held (va : Nat) : Bool :=
    let k := s.kindOf (s.ctx t).who (s.ctx t).asid [(va, 1)]
    (k == .peer || k == .host) && (s.acqPending (s.ctx t).who || s.portsHeld va)

/-! ### Atomics and REDs at commit -/

/-- The register value of an old word: sign-extended, or zero-extended for .minn and .maxn (R211, R212). -/
def oldWord (wide unsigned : Bool) (m : Nat) : Word :=
  if wide || unsigned then BitVec.ofNat 64 m else BitVec.ofInt 64 (sext m 32)

/-- An operation that a bundle of a context starts now. -/
def Context.newOp (c : Context) (b : Bundle) (tag : Option Nat) (kind : OpKind) : Op :=
  { id := 0, who := some c.who, asid := c.asid, pos := b.pos, pc := b.pc, tag := tag, time := c.ltime, wait := none,
    denied := false, failed := false, ports := [], kind := kind }

/-- Starts an operation whose result lands later. `awaited` says that the landing position is waited for: by a register, or
since a failure is reported there (R386). -/
def State.sendFor (s : State) (t : Nat) (b : Bundle) (kind : OpKind) (awaited : Bool) (land : Nat) : State :=
  let id := s.nextId
  let s := s.opNew ((s.ctx t).newOp b none kind)
  if !awaited then s else s.modCtx t fun c => { c with awaited := c.awaited ++ [Awaited.mk id land b.pos] }

/-! ### Accesses on links (R242, R410, R412, R414) -/

/-- A write aimed at a window: a store, AMO or CAS, or a copy whose pieces are. -/
def OpKind.windowWrite : OpKind → Bool
  | .sysWrite .. => true
  | .sysAmo .. => true
  | .cpy dst .. => inWindow dst
  | _ => false

/-- An AMO or CAS on a link fails: the trap is reported at its landing position, and its destination keeps its value. -/
def State.amoFails (s : State) (o : Op) (w : Who) (land cls cause addr : Nat) : State :=
  (((s.opDrop o.id).landWho w o.id none).loseWrite w o.id).pend w (asyncTrap cls cause addr o.pc land)

/-- An AMO or CAS leaves on its link: with .rel not before every earlier write of its context to a window has been
acknowledged, and not at all if one has failed (R414). -/
def State.sendAmo (s : State) (o : Op) (w : Who) (ord va land : Nat) : State :=
  let rel := decide (2 ≤ ord)
  if rel && s.ops.any (fun x => x.who == o.who && decide (x.id < o.id) && x.kind.windowWrite) then s
  else if rel && ((s.whoCtx w).bind (·.lostWrite)).any (fun k => decide (k < o.id)) then s.amoFails o w land 12 9 0
  else if s.portsHeld va then s
  else if s.portsFor va == [] then s.amoFails o w land 12 9 0
  else s.opSet { o with ports := s.portsFor va }

/-- Sends what can be sent of an operation that waits to be. -/
def State.sendOne (s : State) (id : Nat) : State :=
  match s.opGet id with
  | none => s
  | some o =>
    if o.ports != [] then s
    else match o.kind, o.who with
      | .sysAmo _ _ ord va _ _ _ land, some w => s.sendAmo o w ord va land
      | .hostWrite off _ _, _ =>
        if s.portsHeld hostBase then s
        else if s.portsFor hostBase == [] then (s.opEnd o true).report 4 0 0 [off]
        else s.opSet { o with ports := s.portsFor hostBase }
      | _, _ => s

/-- Sends everything that waited for an earlier access on links to end, in order. -/
def State.sendHeld (s : State) : State := s.ops.foldl (fun s o => s.sendOne o.id) s

/-- An AMO (`op` given) or CAS at its order point: one indivisible read and write of device memory whose old value lands at
n + 6, or an access sent on a link. -/
def State.commitAtomic (s : State) (t : Nat) (b : Bundle) (op : Option Nat) (wide : Bool)
    (ord va operand expected dest : Nat) : State :=
  let c := s.ctx t
  let die := dieOf (coreOf t)
  let n := if wide then 8 else 4
  let segs := [(va, n)]
  let land := b.pos + 6
  let kind := s.kindOf c.who c.asid segs
  if kind == .peer || kind == .host then
    (s.sendFor t b (.sysAmo op wide ord va operand expected dest land) true land).sendHeld
  else
    let m := leNat (s.readSeg c.who c.asid die (va, n))
    let s := s.mark c.who c.asid die segs true
    let (s, lt) := s.accessTime none c.who c.asid die c.ltime segs false
    let new := match op with
      | some f => some (amoValue f (8 * n) m operand)
      | none => if m == expected then some operand else none
    let (s, lt) := if new.isSome then s.accessTime none c.who c.asid die lt segs true else (s, lt)
    let s := match new with
      | some x => s.writeAtomic (s.partsOf c.who c.asid die va (leBytes n x)) lt
      | none => s
    s.modCtx t fun c =>
      let c : Context := { c with ltime := max c.ltime lt }
      c.land1 { write := .s dest (oldWord wide (op == some 3 || op == some 4) m), pos := land, src := b.pos }

/-- A RED is sent at commit; one whose page awaits mapping goes to the side log (R238, R255). -/
def State.commitRed (s : State) (t : Nat) (b : Bundle) (op : Nat) (wide : Bool) (va operand : Nat) : State :=
  let c := s.ctx t
  let die := dieOf (coreOf t)
  let n := if wide then 8 else 4
  if s.kindOf c.who c.asid [(va, n)] == .generic && s.page c.asid die va false true false == .awaits then
    (s.needPage c.asid va true).logWrite t b (.red op wide operand) [(va / 65536, [(va % 65536, leBytes n operand)])]
  else
    let s := s.mark c.who c.asid die [(va, n)] true
    match s.resolve c.who c.asid die va true with
    | some (p, a) => s.opNew (c.newOp b none (.red op wide p a va operand))
    | none => s

/-! ### Commands at commit -/

/-- The j of a contribution: how many COLLs of its scope the participant has issued before (R366). -/
def State.numberColl (s : State) (w : Who) (a : CollArg) : State × CollArg :=
  match s.launchOf w with
  | none => (s, a)
  | some l =>
    let key := w.inst * 3 + a.scope
    let j := SMap.getD l.colls key 0
    (({ s with launches := SMap.set s.launches w.launch { l with colls := SMap.set l.colls key (j + 1) } } : State),
     { a with index := j })

/-- Whether a command has nothing to do: a copy of no bytes (R219), or a PATTR that leaves BANK unchanged (R263). -/
def State.instant (s : State) (t : Nat) : OpKind → Bool
  | .cpy _ _ len _ _ => len == 0
  | .pattr va bank =>
    match s.page (s.ctx t).asid (dieOf (coreOf t)) va false false false with
    | .ok _ e _ _ => pteBank e == bank
    | _ => false
  | _ => false

/-- Whether a command fails from the start: a COLL in a scope that holds an ended member (R367). -/
def State.lateColl (s : State) (w : Who) : OpKind → Bool
  | .coll a _ _ => (s.launchOf w).any fun l => (l.members a.scope (l.gidxOf w.inst)).any l.ended.contains
  | _ => false

/-- An engine command is sent: it joins its tag, and begins or completes at once. -/
def State.commitCommand (s : State) (t : Nat) (b : Bundle) (tag : Option Nat) (kind : OpKind) : State :=
  let (s, kind) := match kind with
    | .coll a got result => let r := s.numberColl (s.ctx t).who a
                            (r.1, OpKind.coll r.2 got result)
    | k => (s, k)
  let s := match tag with
    | some g => s.modCtx t fun c => c.joinTag g
    | none => s
  let c := s.ctx t
  let id := s.nextId
  let done := s.instant t kind
  let s := s.opNew { c.newOp b tag kind with failed := s.lateColl c.who kind }
  match s.opGet id with
  | some o => if done then s.opEnd o false else s
  | none => s

/-- What one effect does (R87). TRAP and DONE act after the bundle has committed. -/
def State.applyEffect (s : State) (t : Nat) (b : Bundle) : Effect → State
  | .store segs _ => s.commitStore t b segs
  | .red op wide va operand => s.commitRed t b op wide va operand
  | .amo op wide ord va operand dest => s.commitAtomic t b (some op) wide ord va operand 0 dest
  | .cas wide ord va expected new dest => s.commitAtomic t b none wide ord va new expected dest
  | .palloc pool cursor dest =>
    let c := s.ctx t
    let (s, page, time) := s.palloc c.who c.asid pool cursor c.ltime
    s.modCtx t fun c => ({ c with ltime := max c.ltime time } : Context).land1
      { write := .s dest (BitVec.ofNat 64 page), pos := b.pos + 2, src := b.pos }
  | .cmd tag kind => s.commitCommand t b tag kind
  | .barr barrier group dest => s.sendFor t b (.barr barrier group dest (b.pos + 2)) (dest != 0) (b.pos + 2)
  | .tclr mask => s.modCtx t fun c => c.clearTags mask
  | .wwatch k start len =>
    s.modCore (coreOf t) fun x => { x with
      comps := SMap.set x.comps k (Comparator.mk (s.ctx t).who (decide (0 < len)) start len) }
  | .plst x => s.modCtx t fun c => { c with plst := x }
  | .fcmd x =>
    let c := s.ctx t
    let s : State := if x.getLsbD 3 then { s with fcmd := s.fcmd &&& ~~~8 } else s
    s.command (bits x.toNat 2 0) c.asid (bits x.toNat 42 32) c.ltime
  | .progTrap _ => s
  | .done => s

/-! ### The commit -/

/-- The bundle leaves the uncommitted ones: its pops are final and its landed results are registers. -/
def State.retire (s : State) (t : Nat) (b : Bundle) : State :=
  let s := s.modCtx t fun c =>
    let c : Context := { c with
      inflight := c.inflight.filter fun x => x.pos != b.pos
      queues := c.queues.map fun q => (q.1, q.2.filter fun e =>
        match e.taken with
        | some (p, _, _) => p != b.pos
        | none => true) }
    c.settle b.pos
  s.modCore (coreOf t) fun k => { k with tokens := k.tokens.filter fun x => x.taken != some (t, b.pos) }

/-- TRAP suspends the context after its bundle, to resume at the following one (R125). -/
def State.programTrap (s : State) (t : Nat) (b : Bundle) (code : Nat) : State :=
  let tr : Trap :=
    { cls := 13, cause := 0, slot := 0, addr := 0, aux := 0, level := 0, code := code, isAsync := false, due := 0 }
  s.suspend t tr b.pos b.pc (b.pos + 1) b.following

/-- DONE: the context dispatches no further bundle and drains (R96). -/
def State.startDrain (s : State) (t : Nat) (b : Bundle) : State :=
  let s := s.discard t (b.pos + 1) b.following
  let s := if (s.ctx t).state == .running then s.modCore (coreOf t) fun k => { k with last := t % 4 } else s
  s.modCtx t fun c => { c with state := .blocked, reason := 6, arg := 0, block := some .drain }

/-- The end of a commit: TRAP or DONE among its words. -/
def State.afterCommit (s : State) (t : Nat) (b : Bundle) : State :=
  b.effects.foldl (fun s e =>
    match e.2 with
    | .progTrap code => s.programTrap t b code
    | .done => s.startDrain t b
    | _ => s) s

/-- The words whose effects can no longer take place run again. -/
def Bundle.requeue (b : Bundle) (slots : List Nat) : Bundle :=
  { b with
    effects := b.effects.filter fun e => !slots.contains e.1
    words := b.words.map fun w => if slots.contains w.slot then
      { w with progress := .queued, wait := none, refused := [] } else w }

/-- A bundle that ends or suspends its context commits only in a state from which it may do so (Table 4-3). -/
def Bundle.endsIn (b : Bundle) (x : CtxState) : Bool :=
  b.effects.all fun e => match e.2 with
    | .done => x == .running
    | .progTrap _ => x.traps
    | _ => true

/-- BUNDLE_COMMIT: the oldest bundle of a context commits once every word of it has executed; its effects take place at
once, in slot order. -/
def execBundleCommit (t : Nat) (s : State) : Out :=
  let c := s.ctx t
  match c.inflight with
  | [] => .next s
  | b :: _ =>
    if c.state == .empty || c.state == .faulted || c.state == .saved then .next s
    else if b.traps != [] || !b.words.all (fun w => w.progress == .executed) || !b.endsIn c.state then .next s
    else
      let stale := (b.effects.filter fun e => !s.effectOk t e.2).map (·.1)
      if stale != [] then (s.modBundle t b.pos fun b => b.requeue stale).done
      else if b.effects.any fun e => s.effectWaits t e.2 then .next s
      else
        let s := b.effects.foldl (fun s e => s.applyEffect t b e.2) s
        (((s.retire t b).afterCommit t b).takeTraps t).done

end Sys2Proof.Machine
end

