-- ==== Sys2Proof/Machine/Table.lean ====
section
/-!
DEFINITION. The bank table: TBLDEF, TREPL, TQ, TQP and their sub-operations (R288 to R300).
-/
namespace Sys2Proof.Machine

/-! ### Descriptors and the registry (R289, R291, R292) -/

structure TableDesc where
  base : Nat
  logn : Nat
  wide : Bool
  copies : Nat
  deriving DecidableEq, Repr

/-- A descriptor of Table 12-1; none where a field breaks it or the instances leave generic memory. -/
def TableDesc.ofBytes (bs : List Byte) : Option TableDesc :=
  let x := leNat bs
  let d := TableDesc.mk (bits x 63 0) (bits x 67 64) (bits x 72 72 == 1) (bits x 82 80)
  if bits x 255 83 != 0 || bits x 79 73 != 0 || bits x 71 68 != 0 || decide (d.logn < 4) || decide (12 < d.logn)
      || d.base % 65536 != 0 || decide (2 ^ 55 < d.base + 65536 * (d.copies + 1)) then none
  else some d

/-- The bytes of an entry, and the rows of the table. -/
def Table.width (t : Table) : Nat := if t.wide then 2 else 1
def Table.nrow (t : Table) : Nat := (t.width * 2 ^ t.logn + 1023) / 1024

def State.tableAt (s : State) (asid desc : Nat) : Option Table := s.tables.find? fun t => t.asid == asid && t.desc == desc

def State.dropTable (s : State) (asid desc : Nat) : State :=
  { s with tables := s.tables.filter fun t => !(t.asid == asid && t.desc == desc) }

/-- Check 1 of R295. -/
def descBad (desc : Nat) : Bool := desc % 32 != 0 || decide (2 ^ 55 ≤ desc)

/-! ### The words -/

/-- Check 3 of R295, instance by instance; a held page is refused by R306. It sets no A or D in the instances' leaves, and
neither do TREPL and TQ, which reach the table by the frames that TBLDEF has kept (the model's choice, assumption 116). -/
def State.instancesChk (s : State) : List Nat → State → State
  | [], fin => fin
  | va :: rest, fin =>
    if s.heldPage s.cur.asid va then s.engineFault
    else match s.page s.cur.asid s.die va true false false with
    | .awaits => s.awaitPages 6 [(va / 65536, va)] false
    | .cannot level => s.trap 6 4 va level
    | .perm => s.trap 6 3 va 0
    | .ok _ e _ _ =>
      if !pteW e then s.trap 6 3 va 0
      else if pteEnc e then s.trap 9 0 0 0
      else if !pteBank e || pteKv e then s.engineFault
      else s.instancesChk rest fin

def execTbldef (t a : BitVec 6) (s : State) : Out :=
  let desc := (s.rs a).toNat
  let s' :=
    if descBad desc then s.engineFault
    else s.checkedRead desc 32 fun s bs =>
      match TableDesc.ofBytes bs with
      | none => s.engineFault
      | some d =>
        let pages := (List.range (d.copies + 1)).map fun j => d.base + 65536 * j
        s.instancesChk pages
          ((s.reportWalks pages).effect (.cmd (some t.toNat) (.tbldef desc d.base d.logn d.copies d.wide false)))
  s'.ok

/-- A word that makes check 1 alone. -/
def State.descWord (s : State) (t a : BitVec 6) (k : Nat → OpKind) : Out :=
  let desc := (s.rs a).toNat
  (if descBad desc then s.engineFault else s.effect (.cmd (some t.toNat) (k desc))).ok

def execTbldefDrop (t a : BitVec 6) (s : State) : Out := s.descWord t a .tbldefDrop
def execTrepl (t a : BitVec 6) (s : State) : Out := s.descWord t a .trepl

def execTq (t a b : BitVec 6) (e n : BitVec 1) (s : State) : Out :=
  let x := (s.rv 1 b.toNat).toNat
  let idx := if n == 1 then elems 16 64 x else elems 8 128 x
  (s.effect (.cmd (some t.toNat) (.tq (Query.mk (s.rs a).toNat idx (n == 1) (e == 1) s.focus.slot none 0 0 0 [])))).ok

/-- A pop of a result queue: the data and the status word land at n + 2, and the entry's time is applied (R231). -/
def State.popResult (s : State) (d a : BitVec 6) : State :=
  match s.popped 0 with
  | none => s
  | some e => ((s.vres 2 d.toNat 1024 e.data).setS 2 a e.status).afterTime e.time

def execTqp (d a : BitVec 6) (s : State) : Out := (s.popResult d a).ok

/-! ### Definition and replication (R293, R295, R296) -/

/-- The frame of an instance page that is BANK now. -/
def State.bankFrame (s : State) (asid va : Nat) : Option Nat :=
  match s.walk asid va with
  | .leaf e level _ => if pteBank e then some (leafPhys e level va / 65536) else none
  | _ => none

/-- The registry slice has room for a table besides those with other keys (R292). -/
def State.registryRoom (s : State) (asid desc : Nat) : Bool :=
  let slice := homeSlice (desc / 256)
  decide ((s.tables.filter fun t => homeSlice (t.desc / 256) == slice && !(t.asid == asid && t.desc == desc)).length < 16)

/-- TBLDEF at the registry slice (Table 12-2), and whether it fails; `changed` says that an instance page has changed since
issue. -/
def State.defineTable (s : State) (asid desc : Nat) (d : TableDesc) (changed : Bool) : State × Bool :=
  let frames := (List.range (d.copies + 1)).filterMap fun j => s.bankFrame asid (d.base + 65536 * j)
  let ok := !changed && frames.length == d.copies + 1 && s.registryRoom asid desc
  let s := s.dropTable asid desc
  if ok then
    let t : Table :=
      { asid := asid, desc := desc, base := d.base, logn := d.logn, wide := d.wide, frames := frames, ready := false }
    ({ s with tables := s.tables ++ [t] }, false)
  else (s, true)

structure TableOp where
  desc : Nat
  define : Option TableDesc
  changed : Bool
  deriving DecidableEq, Repr

def OpKind.asTableOp : OpKind → Option TableOp
  | .tbldef desc base logn copies wide changed => some (TableOp.mk desc (some (TableDesc.mk base logn wide copies)) changed)
  | .tbldefDrop desc => some (TableOp.mk desc none false)
  | _ => none

/-- TBLDEF_SUBOPERATION: TBLDEF or TBLDEF.drop acts by Table 12-2. -/
def execTbldefSuboperation (id : Nat) (s : State) : Out :=
  match s.opWith id OpKind.asTableOp with
  | none => .next s
  | some (o, _, x) =>
    if !s.powered then .next s
    else match x.define with
    | none => ((s.dropTable o.asid x.desc).opEnd o false).done
    | some d =>
      let r := s.defineTable o.asid x.desc d x.changed
      (r.1.opEnd o r.2).done

def OpKind.asTrepl : OpKind → Option Nat
  | .trepl desc => some desc
  | _ => none

/-- The writes of TREPL: home rows to the other instances, and row k of every instance to its frame row 8k (R296). -/
def treplWrites (t : Table) (home : List Byte) : List (Nat × List Byte) :=
  let others := (t.frames.drop 1).map fun f => (f * 65536, home)
  let spread := t.frames.flatMap fun f => ((List.range t.nrow).drop 1).map fun k =>
    (f * 65536 + 8192 * k, (home.drop (1024 * k)).take 1024)
  others ++ spread

/-- TREPL at the registry slice (R296), and whether it fails. -/
def State.replicate (s : State) (asid desc : Nat) : State × Bool :=
  match s.tableAt asid desc with
  | none => (s, true)
  | some t =>
    let base := t.frames.headD 0 * 65536
    let n := 1024 * t.nrow
    match s.upsetIn .phys base n with
    | some u => (s.reportUpset u, true)
    | none =>
      let s := (treplWrites t (Mem.bytes s.mem base n)).foldl
        (fun s w => (s.poke .phys w.1 w.2).heal .phys w.1 w.2.length) s
      ({ s with tables := s.tables.map fun x =>
        if x.asid == asid && x.desc == desc then { x with ready := true } else x }, false)

/-- TREPL_SUBOPERATION: the table's home rows are copied to every instance and spread row. -/
def execTreplSuboperation (id : Nat) (s : State) : Out :=
  match s.opWith id OpKind.asTrepl with
  | none => .next s
  | some (o, _, desc) =>
    if !s.powered then .next s else
    let r := s.replicate o.asid desc
    (r.1.opEnd o r.2).done

/-! ### Queries (R297 to R300) -/

def OpKind.asTq : OpKind → Option Query
  | .tq q => some q
  | _ => none

/-- The result entries of a query. -/
def Query.parts (q : Query) : Nat := if q.e16 then 2 else 1

/-- Indices that do not fit the table. -/
def Query.masked (q : Query) : Nat := (q.idx.filter fun x => decide (2 ^ q.logn ≤ x)).length

/-- Fills the entries of a query and completes it. -/
def State.answer (s : State) (o : Op) (w : Who) (q : Query) (status nm : Nat) (data : Nat → Nat) (bad : Nat → Option Nat)
    (failed : Bool) : State :=
  let s := s.modWho w fun c => (List.range q.parts).foldl (fun c k =>
    c.fill tableQ o.pos q.slot k fun e => { e with
      filled := true, width := 1024, data := BitVec.ofNat 1024 (data k),
      status := BitVec.ofNat 64 (status + k * 8 + nm * 256), time := o.time, bad := bad k }) c
  s.opEnd o failed

/-- The distinct rows that some indices fall in, rising. -/
def rowsOf (width : Nat) (xs : List Nat) : List Nat :=
  (List.range 8).filter fun r => xs.any fun x => width * x / 1024 == r

/-- One activation of a DEFINED table: the entries in a row of instance 0. -/
def State.activate (s : State) (q : Query) (row : Nat) : Query :=
  { q with got := (q.idx.zip q.got).map fun g =>
      let a := q.width * (g.1 % 2 ^ q.logn)
      if a / 1024 == row then
        (Mem.le s.mem (q.frame * 65536 + a) q.width, (s.upsetIn .phys (q.frame * 65536 + a) q.width).map (·.cause))
      else g.2 }

/-- Where a byte of the table is latched with its spread rows (R290). -/
def spreadOffset (a : Nat) : Nat := a / 1024 * 8192 + a % 1024

/-- The activation of a READY table: every entry at once, as instance 0 holds it, from the spread rows of one instance, whose
errors it meets (R297, R300). -/
def State.activateAll (s : State) (q : Query) (frame : Nat) : Query :=
  { q with got := q.idx.map fun i =>
      let a := q.width * (i % 2 ^ q.logn)
      (Mem.le s.mem (q.frame * 65536 + a) q.width, (s.upsetIn .phys (frame * 65536 + spreadOffset a) q.width).map (·.cause)) }

/-- Successive queries of a READY table rotate over its instances, from instance 0 at each TBLDEF (where the rotation begins is
the model's choice, assumption 115). -/
def State.turnTable (s : State) (asid desc : Nat) : State :=
  { s with tables := s.tables.map fun t =>
      if t.asid == asid && t.desc == desc then { t with turn := (t.turn + 1) % t.frames.length } else t }

/-- A query all of whose rows have been activated is answered. -/
def State.finishQuery (s : State) (o : Op) (w : Who) (q : Query) : State :=
  let per := 1024 / (8 * q.width)
  let part := fun (k : Nat) => (q.got.drop (k * per)).take per
  s.answer o w q (if q.masked == 0 then 0 else 1) q.masked (fun k => joined (8 * q.width) ((part k).map (·.1)))
    (fun k => (part k).findSome? (·.2)) (q.masked != 0)

/-- TABLE_QUERY: the query arrives, or one more activation of it answers; a READY table needs one activation in all, a
DEFINED one an activation for each row, in increasing row. -/
def execTableQuery (id : Nat) (s : State) : Out :=
  match s.opWith id OpKind.asTq with
  | none => .next s
  | some (o, w, q) =>
    if !s.powered && q.rows.isNone then .next s
    else match q.rows with
    | none =>
      match s.tableAt o.asid q.desc with
      | none => (s.answer o w q 2 0 (fun _ => 0) (fun _ => none) true).done
      | some t =>
        if !q.n16 && q.e16 != t.wide then (s.answer o w q 3 0 (fun _ => 0) (fun _ => none) true).done
        else
          let q : Query := { q with
            frame := t.frames.headD 0, logn := t.logn, width := t.width, got := q.idx.map fun _ => (0, none) }
          if t.ready then ((s.finishQuery o w (s.activateAll q (t.frames.getD t.turn 0))).turnTable o.asid q.desc).done
          else
            match rowsOf t.width (q.idx.map (· % 2 ^ t.logn)) with
            | r :: rest =>
              let q := s.activate q r
              if rest == [] then (s.finishQuery o w q).done
              else (s.opSet { o with kind := .tq { q with rows := some rest } }).done
            | [] => (s.finishQuery o w q).done
    | some [] => (s.finishQuery o w q).done
    | some (r :: rest) =>
      let q := s.activate q r
      if rest == [] then (s.finishQuery o w q).done
      else (s.opSet { o with kind := .tq { q with rows := some rest } }).done

end Sys2Proof.Machine
end

