-- ==== Sys2Proof/Machine/Play.lean ====
section
/-!
DEFINITION. The play: PBSET, PLAY, PLAYP, playbooks, validation and the play engine (R265 to R287).
-/
namespace Sys2Proof.Machine

/-! ### The words (R268, R282, R284) -/

def execPbset (t a : BitVec 6) (s : State) : Out :=
  let va := (s.rs a).toNat
  let set := fun (s : State) (book : Option Nat) =>
    (s.land 1 (.pbk (s.rs a))).effect (.cmd (some t.toNat) (.pbset book))
  let s' :=
    if va == 0 then set s none
    else if va % 64 != 0 || decide (2 ^ 55 ≤ va) || decide (57088 < va % 65536) then s.engineFault
    else match s.page s.cur.asid s.die va true false false with
      | .awaits => s.awaitPages 6 [(va / 65536, va)] false
      | .cannot level => s.trap 6 4 va level
      | .perm => s.trap 6 3 va 0
      | .ok pa e _ leaf => set (s.readThrough s.cur.asid va leaf) (some ((s.leafPlace s.cur.asid e).code pa))
  s'.ok

/-- The checks of the line address of a PLAY (R282, steps 1 to 3); none when they pass. -/
def State.lineTrap (s : State) (va : Nat) : Option State :=
  if va % 256 != 0 then some (s.trap 6 2 va 0)
  else match (s.region s.cur.who s.cur.asid va).map Region.kind with
    | some RKind.lscr => none
    | some RKind.generic =>
      match s.page s.cur.asid s.die va true false false with
      | .perm => some (s.trap 6 3 va 0)
      | .ok _ e _ _ => if !pteW e then some (s.trap 6 3 va 0) else if pteBank e then some s.engineFault else none
      | _ => none
    | _ => some (s.trap 6 1 va 0)

/-- PLAY: the checks of R282. The translation of the playbook page, through which the slice reads the image, sets A in its
leaf (assumption 99). -/
def execPlay (p a b : BitVec 6) (s : State) : Out :=
  let va := (s.rs a).toNat
  let arg := (s.rv 1 b.toNat).toNat % 2 ^ 512
  let send := fun (s : State) (book : Option Nat) => s.effect (.cmd none (.play .sent p.toNat va arg book [] s.focus.slot))
  let s' := match s.lineTrap va with
    | some s => s
    | none =>
      let pbk := (s.cur.readPbk s.focus.pos).toNat
      if pbk == 0 then send s none
      else match s.page s.cur.asid s.die pbk true false false with
        | .awaits => s.awaitPages 6 [(pbk / 65536, pbk)] false
        | .cannot level => s.trap 6 4 pbk level
        | .perm => s.trap 6 3 pbk 0
        | .ok pa e _ leaf => send (s.readThrough s.cur.asid pbk leaf) (some ((s.leafPlace s.cur.asid e).code pa))
  s'.ok

/-- PLAYP pops as TQP does; at commit its status word goes to PLST. -/
def execPlayp (d a : BitVec 6) (s : State) : Out :=
  match s.popped 0 with
  | none => .next s
  | some e => ((s.popResult d a).effect (.plst e.status)).ok

/-! ### Play words (R57, R270, Table 11-3) -/

def playOp (w : Nat) : Nat := bits w 31 27
def playWd (w : Nat) : Nat := bits w 26 24
def playWa (w : Nat) : Nat := bits w 23 21
def playWb (w : Nat) : Nat := bits w 20 18
def playEs (w : Nat) : Nat := bits w 17 16
def playImm (w : Nat) : Nat := bits w 15 0

/-- Bits of an element. -/
def playBits (w : Nat) : Nat := 8 * 2 ^ playEs w

/-- KBCL with a constant. -/
def playConst (w : Nat) : Bool := playOp w == 0x15 && bits w 15 15 == 1

/-- Whether a word reads WA, reads WB, reads WD, and writes WD. -/
structure PlayRoles where
  a : Bool
  b : Bool
  d : Bool
  writes : Bool
  deriving DecidableEq, Repr

def playRoles (w : Nat) : PlayRoles :=
  let op := playOp w
  if op == 0x00 || op == 0x02 || playConst w then PlayRoles.mk false false false true
  else if op == 0x01 || op == 0x16 || op == 0x17 then PlayRoles.mk true false false false
  else if op == 0x0C || op == 0x0D || op == 0x14 || op == 0x15 then PlayRoles.mk true false false true
  else if op == 0x11 then PlayRoles.mk true true true true
  else if op == 0x18 then PlayRoles.mk false false false false
  else PlayRoles.mk true true false true

/-- The work registers that a word reads. -/
def playReads (w : Nat) : List Nat :=
  let r := playRoles w
  (if r.a then [playWa w] else []) ++ (if r.b then [playWb w] else []) ++ (if r.d then [playWd w] else [])

/-- Limits of IMM16 (Table 11-3): it lies below this bound; a constant of KBCL is free. -/
def playImmBound (w : Nat) : Nat :=
  let op := playOp w
  if playConst w then 65536
  else if op ≤ 0x01 then 8
  else if op == 0x02 || op == 0x16 then 2
  else if op == 0x0C || op == 0x0D then playBits w
  else if op == 0x15 || op == 0x17 then 256 / playBits w
  else 1

/-- Reason 2 of Table 11-4. -/
def playWordBad (w : Nat) : Bool :=
  let op := playOp w
  let r := playRoles w
  decide (0x18 < op)
    || (!r.a && playWa w != 0) || (!r.b && playWb w != 0) || (!(r.d || r.writes) && playWd w != 0)
    || ((op ≤ 0x02 || op == 0x16 || op == 0x18) && playEs w != 0)
    || ((op == 0x12 || op == 0x13) && playEs w != 2)
    || decide (playImmBound w ≤ playImm w)

/-! ### Validation (R272) -/

/-- LEN and OFFSET of a directory entry. -/
def playLen (e : Nat) : Nat := bits e 23 16
def playOffset (e : Nat) : Nat := bits e 15 0

/-- Reasons 1 and 5: the entry alone. -/
def entryReason (e : Nat) : Option Nat :=
  if 32 < playLen e then some 1
  else if bits e 31 24 != 0 || playOffset e < 64 || 2112 < playOffset e + playLen e then some 5
  else none

/-- The place of the first word at which a condition holds. -/
def firstWord (f : Nat → Bool) : Nat → List Nat → Option Nat
  | _, [] => none
  | i, w :: ws => if f w then some i else firstWord f (i + 1) ws

/-- Reason 4: the first word that reads a register which no earlier word writes. -/
def firstUnwritten : Nat → List Nat → List Nat → Option Nat
  | _, _, [] => none
  | i, done, w :: ws =>
    if (playReads w).any fun r => !done.contains r then some i
    else firstUnwritten (i + 1) (if (playRoles w).writes then playWd w :: done else done) ws

/-- REASON and WORD of a play that fails, in the order 1, 5, 2, 3, 4. -/
def playFails (entry : Nat) (ws : List Nat) : Option (Nat × Nat) :=
  match entryReason entry with
  | some r => some (r, 0)
  | none =>
    match firstWord playWordBad 0 ws with
    | some i => some (2, i)
    | none =>
      if (ws.getLast?).map playOp != some 0x18 || ws.dropLast.any (fun w => playOp w == 0x18) then some (3, 0)
      else (firstUnwritten 0 [] ws).map fun i => (4, i)

/-! ### The play engine (R269, R271, R273, R275) -/

/-- What a play holds while it runs. -/
structure Engine where
  line : Nat
  work : SMap Nat
  result : Nat
  ok : Bool
  deriving DecidableEq, Repr

/-- A work register; one that no word has written holds 0, and R272 lets no play read it (assumption 103). -/
def Engine.reg (x : Engine) (n : Nat) : Nat := SMap.getD x.work n 0

def Engine.put (x : Engine) (n v : Nat) : Engine := { x with work := SMap.set x.work n (v % 2 ^ 256) }

/-- Replaces 256 bits of a number at a multiple of 256. -/
def putChunk (x k v : Nat) : Nat := x - bits x (256 * k + 255) (256 * k) * 2 ^ (256 * k) + v % 2 ^ 256 * 2 ^ (256 * k)

/-- The element functions of Table 11-3, on elements of e bits; `d` is the old destination, `k` the shift. -/
def playElem (op e a b d k : Nat) : Nat :=
  match op with
  | 0x03 => (a + b) % 2 ^ e
  | 0x04 => (a + 2 ^ e - b) % 2 ^ e
  | 0x05 => if sext a e ≤ sext b e then a else b
  | 0x06 => if sext b e ≤ sext a e then a else b
  | 0x07 => min a b
  | 0x08 => max a b
  | 0x09 => Nat.land a b
  | 0x0A => Nat.lor a b
  | 0x0B => Nat.xor a b
  | 0x0C => a * 2 ^ k % 2 ^ e
  | 0x0D => a / 2 ^ k
  | 0x0E => if a == b then 2 ^ e - 1 else 0
  | 0x0F => if sext a e < sext b e then 2 ^ e - 1 else 0
  | 0x10 => if a < b then 2 ^ e - 1 else 0
  | 0x11 => if d != 0 then a else b
  | 0x12 => fpAdd .fp32 .rne a b
  | 0x13 => fpMax .fp32 a b
  | _ => popcount e a

/-- One word of a play with argument `arg`. -/
def Engine.word (x : Engine) (arg w : Nat) : Engine :=
  let op := playOp w
  let e := playBits w
  let n := 256 / e
  let imm := playImm w
  let a := x.reg (playWa w)
  let b := x.reg (playWb w)
  let d := playWd w
  if op == 0x00 then x.put d (bits x.line (256 * imm + 255) (256 * imm))
  else if op == 0x01 then { x with line := putChunk x.line imm a }
  else if op == 0x02 then x.put d (bits arg (256 * imm + 255) (256 * imm))
  else if op == 0x15 then
    let v := if playConst w then wrap e (sext (imm % 2 ^ 15) 15) else a / 2 ^ (e * imm) % 2 ^ e
    x.put d (joined e (List.replicate n v))
  else if op == 0x16 then { x with result := putChunk x.result imm a }
  else if op == 0x17 then { x with ok := x.ok && a / 2 ^ (e * imm) % 2 ^ e != 0 }
  else if op == 0x18 then x
  else
    let as_ := elems e n a
    let bs := elems e n b
    let ds := elems e n (x.reg d)
    x.put d (joined e ((as_.zip (bs.zip ds)).map fun y => playElem op e y.1 y.2.1 y.2.2 imm))

/-- A play on a line. -/
def runPlay (line arg : Nat) (ws : List Nat) : Engine :=
  ws.foldl (fun x w => x.word arg w) { line := line, work := [], result := 0, ok := true }

/-! ### A PLAY at its slice (Table 11-8) -/

structure PlayOp where
  state : PlayState
  num : Nat
  va : Nat
  arg : Nat
  book : Option Nat
  words : List Nat
  slot : Nat
  deriving DecidableEq, Repr

def OpKind.asPlay : OpKind → Option PlayOp
  | .play state num va arg book words slot => some (PlayOp.mk state num va arg book words slot)
  | _ => none

def PlayOp.kind (p : PlayOp) : OpKind := .play p.state p.num p.va p.arg p.book p.words p.slot

/-- Where a line lies, whatever may be done with its page now; none while no leaf maps it. -/
def State.lineAt (s : State) (w : Who) (asid va : Nat) : Option (Place × Nat) :=
  match s.region w asid va with
  | none => none
  | some r =>
    if r.kind != .generic then some (r.place, va - r.lo)
    else match s.walk asid va with
      | .leaf e level _ => some (s.leafPlace asid e, leafPhys e level va)
      | _ => none

/-- The home slice of a line (R226, R227); none while its page has none. -/
def State.sliceOf (s : State) (w : Who) (asid va : Nat) : Option Nat :=
  (s.lineAt w asid va).map fun x => if x.1 == .lscr then lscrSlice x.2 else homeSlice (x.2 / 256)

/-- Fills the entry of a PLAY and completes it (R277, R283). -/
def State.playDone (s : State) (o : Op) (w : Who) (p : PlayOp) (status reason word result : Nat) : State :=
  let s := s.modWho w fun c => c.fill playQ o.pos p.slot 0 fun e => { e with
    filled := true, width := 1024, data := BitVec.ofNat 1024 (result % 2 ^ 512),
    status := BitVec.ofNat 64 (status + reason * 2 ^ 8 + p.num * 2 ^ 16 + word * 2 ^ 24), time := o.time }
  { s.opEnd o false with readyPlays := s.readyPlays.filter fun k => k != o.id }

/-- A play moves on to another state of Table 11-8; one that becomes READY stands behind those that are (R279). -/
def State.playGo (s : State) (o : Op) (p : PlayOp) : State :=
  let s : State := { s.opSet { o with kind := p.kind } with readyPlays := s.readyPlays.filter fun k => k != o.id }
  if p.state == .ready then s.playsReady [o] else s

/-- The physical address of an image, by which the slices know its plays (R267). -/
def bookPhys (book : Nat) : Nat := (placeAt book).2

/-- The directory entry and, where it is sound, the words of a play, read at one point. -/
def State.fetchPlay (s : State) (book num : Nat) : List Nat :=
  let (place, a) := placeAt book
  let e := leNat (s.peek place (a + 4 * num) 4)
  e :: if (entryReason e).isSome then []
       else (List.range (playLen e)).map fun i => leNat (s.peek place (a + 4 * (playOffset e + i)) 4)

/-- The ranges of an image that a fetch reads. -/
def fetchedSegs (a num e : Nat) : List Seg :=
  (a + 4 * num, 4) :: if (entryReason e).isSome || playLen e == 0 then [] else [(a + 4 * playOffset e, 4 * playLen e)]

/-- The fetch of a play as one read of device memory: errors among the bytes are reported, and its logical time. -/
def State.fetchPlayTime (s : State) (book num time e : Nat) : State × Nat :=
  let (place, a) := placeAt book
  (fetchedSegs a num e).foldl (fun (r : State × Nat) g =>
    let s := match r.1.upsetIn place g.1 g.2 with
      | some u => r.1.reportUpset u
      | none => r.1
    s.homeTime r.2 g.1 g.2 false) (s, time)

/-- PLAY_ARRIVAL: a sent PLAY reaches its home slice; no earlier PBSET of its context is outstanding (R268). In host-assisted
mode the host is told which play to validate (assumption 100). -/
def execPlayArrival (id : Nat) (s : State) : Out :=
  match s.opWith id OpKind.asPlay with
  | none => .next s
  | some (o, w, p) =>
    let flushing := s.ops.any fun x => x.who == some w && decide (x.id < id) && (match x.kind with
      | .pbset _ => true
      | _ => false)
    if p.state != .sent || !s.powered || flushing then .next s
    else match p.book with
      | none => (s.playDone o w p 4 0 0 0).done
      | some book =>
        match s.plays.find? fun c => some c.slice == s.sliceOf w o.asid p.va && c.book == bookPhys book && c.num == p.num with
        | some c => (s.playGo o { p with state := .ready, words := c.words }).done
        | none =>
          let ws := s.fetchPlay book p.num
          let (s, time) := s.fetchPlayTime book p.num o.time (ws.headD 0)
          let s := s.playGo { o with time := time } { p with state := .fetching, words := ws }
          if s.hwMode 5 || playLen (ws.headD 0) == 0 then s.done
          else (s.raiseService 5 o.asid (bookPhys book) p.num (some id)).done

/-- The answer of the host to a validation request. -/
def State.validationAnswer (s : State) (id : Nat) : Option Service :=
  s.services.find? fun v => v.func == 5 && v.op == some id && v.answer.isSome

/-- A slice keeps a validated play, of up to 128, and drops its oldest one for it (R267, assumption 30); a line without a home
slice has none that keeps it. -/
def State.cachePlay (s : State) (slice : Option Nat) (book num : Nat) (ws : List Nat) : State :=
  match slice with
  | none => s
  | some k =>
    let full := decide (128 ≤ (s.plays.filter fun c => c.slice == k).length)
    let kept := if full then s.plays.eraseP fun c => c.slice == k else s.plays
    { s with plays := kept ++ [Cached.mk k book num ws] }

/-- PLAY_VALIDATION: a fetched play passes, and is cached, or fails (R272). -/
def execPlayValidation (id : Nat) (s : State) : Out :=
  match s.opWith id OpKind.asPlay with
  | none => .next s
  | some (o, w, p) =>
    if p.state != .fetching then .next s
    else
      let entry := p.words.headD 0
      let ws := p.words.drop 1
      let pass := fun (s : State) =>
        (s.cachePlay (s.sliceOf w o.asid p.va) (bookPhys (p.book.getD 0)) p.num ws).playGo o { p with state := .ready, words := ws }
      if playLen entry == 0 then (s.playDone o w p 4 0 0 0).done
      else
        let own := fun (s : State) => match playFails entry ws with
          | some r => s.playDone o w p 3 r.1 r.2 0
          | none => pass s
        if s.services.any fun v => v.func == 5 && v.op == some id then
          match s.validationAnswer id with
          | none => .next s
          | some v =>
            let s := s.serviceDrop v.id
            match v.answer with
            | some (0, _, _) => (own s).done
            | some (_, reason, arg) => (s.playDone o w p 3 (reason % 16) (arg % 32) 0).done
            | none => .next s
        else (own s).done

/-- Earlier plays of the same context on the same slice (R280); a play whose line has no home yet holds back and is held
back (assumption 101). -/
def State.playHeldBack (s : State) (o : Op) (w : Who) (p : PlayOp) : Bool :=
  let slice := s.sliceOf w o.asid p.va
  s.ops.any fun x => x.who == some w && decide (x.id < o.id) && (match x.kind with
    | .play _ _ va _ _ _ _ => slice.isNone || (s.sliceOf w x.asid va).isNone || s.sliceOf w x.asid va == slice
    | _ => false)

/-- A play that is ready to start on a slice. -/
def State.startsOn (s : State) (slice : Option Nat) (id : Nat) : Bool :=
  match s.opWith id OpKind.asPlay with
  | some (o, w, p) => p.state == .ready && s.sliceOf w o.asid p.va == slice && !s.playHeldBack o w p
  | none => false

/-- Plays start on a slice in the order in which they became ready (R279). -/
def State.playTurn (s : State) (id : Nat) (slice : Option Nat) : Bool :=
  ((s.readyPlays.find? (s.startsOn slice)).map fun k => k == id).getD true

/-- The event of a play that is aborted by a parity error (R276): its slice, the line's address and the play's status. -/
def State.reportAbort (s : State) (place : Place) (addr : Nat) : State :=
  let slice := if place == .lscr then lscrSlice addr else homeSlice (addr / 256)
  s.report 7 slice (if place.store == .phys then addr else 0) [slice, 2, 1]

/-- A play reads its line at its order point, runs, and writes or leaves it. -/
def State.performPlay (s : State) (o : Op) (w : Who) (p : PlayOp) (place : Place) (addr : Nat) (parity : Option Nat) : State :=
  let die := s.dieOfWho w
  let segs := [(p.va, 256)]
  match s.upsetIn place addr 256 with
  | some u => (s.reportUpset u).playDone o w p 2 2 0 0
  | none =>
    let s := s.markRange o.asid p.va 256 false
    let x := runPlay (leNat (s.peek place addr 256)) p.arg p.words
    let (s, lt) := s.accessTime none w o.asid die o.time segs false
    if parity.any fun r => p.words.any fun word => (playReads word).contains r then
      (s.reportAbort place addr).playDone { o with time := lt } w p 2 1 0 0
    else if !x.ok then s.playDone { o with time := lt } w p 1 0 0 x.result
    else
      let s := s.mark w o.asid die segs true
      let (s, lt) := s.accessTime none w o.asid die lt segs true
      (s.put [(place, addr, leBytes 256 x.line)]).playDone { o with time := lt } w p 0 0 0 x.result

/-- A READY play whose turn it is: it parks for its page, fails, or is performed as one step. -/
def State.playReady (s : State) (o : Op) (w : Who) (p : PlayOp) (parity : Option Nat) : Out :=
  match s.region w o.asid p.va with
  | none => (s.playDone o w p 5 0 0 0).done
  | some r =>
    if r.kind != .generic then (s.performPlay o w p r.place (p.va - r.lo) parity).done
    else match s.page o.asid (s.dieOfWho w) p.va true true false with
      | .awaits =>
        let p : PlayOp := { p with state := .parked }
        ((s.playGo o p).opAwait { o with kind := p.kind } [(p.va / 65536, p.va)] true).done
      | .ok pa e _ _ =>
        if pteBank e then (s.playDone o w p 5 0 0 0).done
        else (s.performPlay o w p (s.leafPlace o.asid e) pa parity).done
      | _ => (s.playDone o w p 5 0 0 0).done

/-- A PARKED play whose page has been served: READY again, or PAGE_FAIL (Table 11-8). -/
def State.playParked (s : State) (o : Op) (w : Who) (p : PlayOp) : Out :=
  match s.page o.asid (s.dieOfWho w) p.va true true false with
  | .awaits => (s.opAwait o [(p.va / 65536, p.va)] true).done
  | .ok _ e _ _ => if pteBank e then (s.playDone o w p 5 0 0 0).done else (s.playGo o { p with state := .ready }).done
  | _ => (s.playDone o w p 5 0 0 0).done

/-- PLAY_PERFORM: a ready play starts in its turn: it waits for its page, fails, or reads its line, runs its words and writes
or leaves the line, as one step. `parity` names a work register that is found faulty when it is read (R276). -/
def execPlayPerform (id : Nat) (parity : Option Nat) (s : State) : Out :=
  match s.opWith id OpKind.asPlay with
  | none => .next s
  | some (o, w, p) =>
    if o.wait.isSome || s.playHeldBack o w p then .next s
    else if o.denied then (s.playDone o w p 5 0 0 0).done
    else match p.state with
      | .ready => if s.playTurn id (s.sliceOf w o.asid p.va) then s.playReady o w p parity else .next s
      | .parked => s.playParked o w p
      | _ => .next s

def OpKind.asPbset : OpKind → Option (Option Nat)
  | .pbset book => some book
  | _ => none

/-- A play of a playbook that has fetched its words and is not over: it may still run them (R267). -/
def OpKind.runsFrom (book : Option Nat) : OpKind → Bool
  | .play .sent _ _ _ _ _ _ => false
  | .play _ _ _ _ (some b) _ _ => book.map bookPhys == some (bookPhys b)
  | _ => false

/-- PBSET_FLUSH: every slice drops the cached plays of the playbook, once no play that it has fetched before is left to run
(R267, R268, assumption 102). -/
def execPbsetFlush (id : Nat) (s : State) : Out :=
  match s.opWith id OpKind.asPbset with
  | none => .next s
  | some (o, _, book) =>
    if s.ops.any (fun x => x.kind.runsFrom book) || !s.powered then .next s
    else (({ s with plays := s.plays.filter fun c => some c.book != book.map bookPhys } : State).opEnd o false).done

end Sys2Proof.Machine
end

