-- ==== Sys2Proof/Machine/Roster.lean ====
section
/-!
DEFINITION. The Roster: RSET, RINS, RDEL, RAGE, RSEL, RSELP and their sub-operations at a set's home block (R301 to R325,
R448).
-/
namespace Sys2Proof.Machine

/-! ### Set descriptors and handles (R302, R304, R310) -/

/-- A descriptor of Table 13-2 as an address space reads it; none where check 2 of R310 fails. -/
def SetDesc.ofBytes (asid : Nat) (bs : List Byte) : Option SetDesc :=
  let x := leNat bs
  let cap8 := bits x 44 32
  let d : SetDesc :=
    { asid := asid, home := bits x 20 16, id := bits x 15 0, cap := 8 * cap8, sinks := bits x 54 48,
      recents := bits x 62 56, enc := bits x 63 63 == 1, amask := bits x 79 64, amatch := bits x 95 80,
      spages := bits x 127 96, spill := bits x 191 128, pool := bits x 255 192 }
  let mbz := bits x 511 256 != 0 || bits x 55 55 != 0 || bits x 47 45 != 0 || bits x 31 21 != 0
  let spillBad := d.spages != 0 && (d.spill % 65536 != 0 || decide (2 ^ 55 < d.spill + 65536 * d.spages))
  let poolBad := d.pool != 0 && (d.pool % 64 != 0 || decide (2 ^ 55 < d.pool + 64))
  if mbz || cap8 == 0 || decide (4096 < cap8) || decide (64 < d.sinks + d.recents) || decide (1024 < d.spages)
      || (d.enc && d.spages != 0) || spillBad || poolBad then none
  else some d

/-- The spill pages of a set. -/
def SetDesc.pages (d : SetDesc) : List Nat := (List.range d.spages).map fun j => d.spill + 65536 * j

def SetDesc.handle (d : SetDesc) : Nat := d.home * 65536 + d.id

/-- Bits [31:21] of a set handle (R309). -/
def handleBad (h : Nat) : Bool := bits h 31 21 != 0

/-- The set that a handle names in an address space. -/
def State.setAt (s : State) (asid handle : Nat) : Option RSet :=
  s.sets.find? fun r => r.desc.asid == asid && r.desc.handle == handle

def State.putSet (s : State) (r : RSet) : State :=
  { s with sets := s.sets.map fun x => if x.desc.asid == r.desc.asid && x.desc.handle == r.desc.handle then r else x }

def State.dropSet (s : State) (asid handle : Nat) : State :=
  { s with sets := s.sets.filter fun r => !(r.desc.asid == asid && r.desc.handle == handle) }

/-! ### The words -/

/-- Check 3 of R310, page by page. -/
def State.spillChk (s : State) : List Nat → State → State
  | [], fin => fin
  | va :: rest, fin =>
    match s.page s.cur.asid s.die va false false false with
    | .awaits => s.awaitPages 6 [(va / 65536, va)] false
    | .cannot level => s.trap 6 4 va level
    | .perm => s.trap 6 3 va 0
    | .ok _ e _ _ =>
      if s.heldPage s.cur.asid va then s.engineFault
      else if !pteR e || !pteW e then s.trap 6 3 va 0
      else if pteEnc e then s.trap 9 0 0 0
      else if !pteBank e || pteKv e then s.engineFault
      else s.spillChk rest fin

def execRset (t a : BitVec 6) (s : State) : Out :=
  let va := (s.rs a).toNat
  let s' :=
    if va % 64 != 0 || decide (2 ^ 55 ≤ va) then s.engineFault
    else s.checkedRead va 64 fun s bs =>
      match SetDesc.ofBytes s.cur.asid bs with
      | none => s.engineFault
      | some d => s.spillChk d.pages ((s.reportWalks d.pages).effect (.cmd (some t.toNat) (.rset d false)))
  s'.ok

/-- A word whose scalar is a set handle alone (R309). -/
def State.handleWord (s : State) (t a : BitVec 6) (k : Nat → OpKind) : Out :=
  let x := (s.rs a).toNat
  (if bits x 63 32 != 0 || handleBad x then s.engineFault else s.effect (.cmd (some t.toNat) (k x))).ok

def execRsetDrop (t a : BitVec 6) (s : State) : Out := s.handleWord t a .rsetDrop

def execRins (t a b : BitVec 6) (s : State) : Out :=
  let row := (s.rv 1 b.toNat).toNat % 2 ^ 337
  s.handleWord t a (.rins · row)

def execRdel (t a b : BitVec 6) (s : State) : Out :=
  let lidx := (s.rs b).toNat % 2 ^ 32
  s.handleWord t a (.rdel · lidx)

def execRage (t a b : BitVec 6) (s : State) : Out :=
  let delta := sext ((s.rs b).toNat % 2 ^ 8) 8
  s.handleWord t a (.rage · delta)

def execRsel (n : BitVec 3) (a b : BitVec 6) (f : BitVec 1) (k : BitVec 7) (s : State) : Out :=
  let x := (s.rs a).toNat
  let v := (s.rv 1 b.toNat).toNat
  let filter := if f == 1 then some (bits v 271 256, bits v 287 272) else none
  (if handleBad (bits x 63 32) then s.engineFault
   else s.effect (.cmd none (.rsel (bits x 63 32) (bits x 31 0) (v % 2 ^ 256) filter k.toNat (n.toNat + 1) s.focus.slot))).ok

def execRselInfo (a : BitVec 6) (s : State) : Out :=
  let x := (s.rs a).toNat
  (if handleBad (bits x 63 32) then s.engineFault
   else s.effect (.cmd none (.rselInfo (bits x 63 32) s.focus.slot))).ok

def execRselp (d a : BitVec 6) (s : State) : Out := (s.popResult d a).ok

/-! ### The order of sub-operations (R321) -/

/-- The set that an operation acts on. -/
def OpKind.setOf : OpKind → Option Nat
  | .rset d _ => some d.handle
  | .rsetDrop h => some h
  | .rins h _ => some h
  | .rdel h _ => some h
  | .rage h _ => some h
  | .rsel h _ _ _ _ _ _ => some h
  | .rselInfo h _ => some h
  | _ => none

/-- An earlier command of the same context on the set has not been performed, or another operation has arrived there and has
not been performed. -/
def State.setHeldBack (s : State) (o : Op) : Bool :=
  s.ops.any fun x => x.id != o.id && x.asid == o.asid && x.kind.setOf == o.kind.setOf &&
    (x.arrived || (x.who == o.who && decide (x.id < o.id)))

/-- The logical time of the set that an operation acts on (Table 9-4). -/
def State.setTime (s : State) (o : Op) : Nat :=
  ((s.sets.find? fun r => r.desc.asid == o.asid && some r.desc.handle == o.kind.setOf).map (·.time)).getD 0

/-- An operation of a kind that may act on its set now, with the time at which it stands there. In TRIP no engine accepts
work (R423). -/
def State.setOp {α : Type} (s : State) (id : Nat) (f : OpKind → Option α) : Option (Op × Who × α) :=
  match s.opWith id f with
  | none => none
  | some (o, w, x) =>
    if o.wait.isSome || s.setHeldBack o || (!s.powered && !o.arrived) then none
    else some ({ o with arrived := true, time := max o.time (s.setTime o) }, w, x)

/-- An operation that has arrived at its set waits there, and the set's later operations behind it. -/
def State.setWait (s : State) (o : Op) : Out := (s.opSet o).done

/-- A set after an operation on it. -/
def RSet.at (r : RSet) (o : Op) : RSet := { r with time := max r.time o.time }

/-- An operation that has changed its set ends. -/
def State.setEnd (s : State) (o : Op) (r : RSet) (failed : Bool) : State := (s.putSet (r.at o)).opEnd o failed

/-! ### Reference counts (R305, R448) -/

/-- The pool descriptor at an address, whose NPAGE and RECORDS the Roster uses. -/
def poolFields (desc : Nat) (bs : List Byte) : Pool :=
  let x := leNat bs
  Pool.mk desc (bits x 63 0) (bits x 95 64) (bits x 191 128) (bits x 255 192) (bits x 287 256) (bits x 319 288)

/-- The metadata record of a slot, or what stands in the way of it; a slot at NPAGE or above has none. -/
def State.metadata (s : State) (w : Who) (asid pool slot : Nat) : Chk × Option Nat :=
  match s.reach w asid [(pool, 64)] true false with
  | .ok =>
    let p := poolFields pool (s.fetch w asid pool 64)
    if p.npage ≤ slot then (.ok, none) else (s.reach w asid [(p.record slot, 64)] true false, some (p.record slot))
  | r => (r, none)

/-- The count of a record becomes n, at the logical time of the operation, which the access raises (R231). -/
def State.putRref (s : State) (w : Who) (o : Op) (pool record n : Nat) : State × Op :=
  let (s, time) := s.fetchTime w o.asid o.time [(pool, 64), (record, 64)]
  let (s, time) := s.devPut w o.asid time (record + 37) (leBytes 2 n)
  (s, { o with time := time })

def State.rref (s : State) (w : Who) (asid record : Nat) : Nat := recordRref (leNat (s.fetch w asid record 64))

/-- Where an increment is refused (R311). -/
def State.refuses (s : State) (w : Who) (asid record : Nat) : Bool :=
  let x := leNat (s.fetch w asid record 64)
  !recordAlloc x || s.isFreeing (s.homeKey w asid record) || recordRref x == 65535

/-- What is read of the metadata of a slot: the pool descriptor, and the record where it can be reached. -/
def State.metadataRead (s : State) (w : Who) (asid pool slot : Nat) : List Seg :=
  if s.reach w asid [(pool, 64)] true false == .ok then
    (pool, 64) :: match s.metadata w asid pool slot with
      | (.ok, some record) => [(record, 64)]
      | _ => []
  else []

/-- A lost decrement, with the metadata address: that of the record, or of the pool descriptor where it cannot be read (R448).
ADDR and SRC give its physical address and home slice, or 0 where no leaf maps it (Table 21-2). -/
def State.lostDecrement (s : State) (w : Who) (asid : Nat) (record : Option Nat) (pool : Nat) : State :=
  let va := record.getD pool
  let pa := match s.lineAt w asid va with
    | some (p, a) => if p.store == .phys then a else 0
    | none => 0
  s.report 10 (homeSlice (pa / 256)) pa [va]

/-- Some page of a list has been refused an operation. -/
def Op.refusedOf (o : Op) (ps : List (Nat × Nat)) : Bool := ps.any fun p => o.refused.contains p.1

/-- The pages that the counts of some handles must wait for; a page that has been refused is waited for no more. -/
def State.countWaits (s : State) (o : Op) (w : Who) (pool : Nat) : List Nat → List (Nat × Nat)
  | [] => []
  | h :: hs =>
    match s.metadata w o.asid pool h with
    | (.wait ps, _) => if o.refusedOf ps then s.countWaits o w pool hs else ps
    | _ => s.countWaits o w pool hs

/-- The decrement for a removed row; where the metadata cannot be reached it is lost. -/
def State.lowerRref (s : State) (o : Op) (w : Who) (pool slot : Nat) : State × Op :=
  match s.metadata w o.asid pool slot with
  | (.ok, some r) => s.putRref w o pool r (s.rref w o.asid r - 1)
  | (_, r) =>
    let (s, time) := s.fetchTime w o.asid o.time (s.metadataRead w o.asid pool slot)
    (s.lostDecrement w o.asid r pool, { o with time := time })

/-- The decrements for some removed rows. -/
def State.lowerAll (s : State) (o : Op) (w : Who) (pool : Nat) (slots : List Nat) : State × Op :=
  if pool == 0 then (s, o) else slots.foldl (fun r h => r.1.lowerRref r.2 w pool h) (s, o)

/-- The pages that an operation must wait for before it changes the counts of some handles. -/
def State.rrefWaits (s : State) (o : Op) (w : Who) (pool : Nat) (slots : List Nat) : List (Nat × Nat) :=
  if pool == 0 then [] else s.countWaits o w pool slots

/-! ### RSET and RSET.drop (R310, R307) -/

def OpKind.asRset : OpKind → Option (SetDesc × Bool)
  | .rset d changed => some (d, changed)
  | _ => none

/-- A spill page may still be held by a new set. -/
def State.spillPageOk (s : State) (asid va : Nat) : Bool :=
  match s.page asid 0 va false false false with
  | .ok _ e _ _ => pteBank e && !pteEnc e && !pteKv e && !s.heldPage asid va
  | _ => false

/-- RSET_SUBOPERATION: the set becomes LIVE, or nothing changes. -/
def execRsetSuboperation (id : Nat) (s : State) : Out :=
  match s.setOp id OpKind.asRset with
  | none => .next s
  | some (o, _, d, changed) =>
    let block := s.sets.filter fun r => r.desc.home == d.home
    let ok := (s.setAt o.asid d.handle).isNone && decide (block.length < 64)
      && decide ((block.map fun r => r.desc.cap).sum + d.cap ≤ 32768) && !changed && d.pages.all (s.spillPageOk o.asid)
    if ok then
      let r : RSet := { desc := d, rows := [], fails := 0, lastCode := 0, lastIdx := 0, time := o.time }
      (({ s with sets := s.sets ++ [r] } : State).opEnd o false).done
    else (s.opEnd o true).done

/-- Every byte of a page is written zero; Table 12-2 does not count it. -/
def State.zeroPage (s : State) (pa : Nat) : State :=
  ({ s with mem := Mem.clear s.mem pa 65536 } : State).heal .phys pa 65536

/-- The end of a set: its pages zeroed and released, its capacity returned. A held page that has been unmapped, or mapped anew,
while the set was LIVE is zeroed as its leaf stands now, or not at all (the model's choice, assumption 117). -/
def State.endSet (s : State) (r : RSet) : State :=
  let s := r.desc.pages.foldl (fun s va =>
    match s.walk r.desc.asid va with
    | .leaf e level _ => s.zeroPage (leafPhys e level va)
    | _ => s) s
  s.dropSet r.desc.asid r.desc.handle

def OpKind.asRsetDrop : OpKind → Option Nat
  | .rsetDrop h => some h
  | _ => none

/-- Whether a spill of a set is still in flight (R322). -/
def RSet.spilling (r : RSet) : Bool := r.rows.any (·.writing)

def execRsetDropSuboperation (id : Nat) (s : State) : Out :=
  match s.setOp id OpKind.asRsetDrop with
  | none => .next s
  | some (o, w, h) =>
    match s.setAt o.asid h with
    | none => (s.opEnd o true).done
    | some r =>
      let handles := r.rows.map (·.handle)
      if r.spilling then s.setWait o
      else match s.rrefWaits o w r.desc.pool handles with
        | [] =>
          let (s, o) := s.lowerAll o w r.desc.pool handles
          ((s.endSet r).opEnd o false).done
        | ps => (s.opAwait o ps true).done

/-! ### RINS (R311, R312) -/

/-- The row that a RINS carries. -/
def Row.ofBits (x : Nat) : Row :=
  { sig := bits x 255 0, lidx := bits x 287 256, handle := bits x 319 288, attr := bits x 335 320, age := 0,
    pin := bits x 336 336 == 1, spilled := false, writing := false }

def RSet.row (r : RSet) (lidx : Nat) : Option Row := r.rows.find? fun x => x.lidx == lidx

/-- The victim: the greatest AGE among on-chip rows without PIN, ties to the lowest LIDX. -/
def victimOf : List Row → Option Row
  | [] => none
  | x :: xs =>
    let x? := if !x.spilled && !x.pin then some x else none
    match x?, victimOf xs with
    | none, v => v
    | some x, none => some x
    | some x, some v => if v.age < x.age || (v.age == x.age && decide (x.lidx < v.lidx)) then some x else some v

/-- The room for a new row: in place or in a free row (no victim), by a victim, or none (FULL). -/
def RSet.place (r : RSet) (old : Option Row) : Option (Option Row) :=
  match old with
  | some x => if x.spilled then free else some none
  | none => free
where
  free : Option (Option Row) :=
    if (r.rows.filter fun x => !x.spilled).length < r.desc.cap then some none
    else
      let spilled := r.rows.filter fun x => x.spilled && old.map Row.lidx != some x.lidx
      match victimOf r.rows with
      | none => none
      | some v => if r.desc.enc || spilled.length == 1024 * r.desc.spages then none else some (some v)

/-- A failed RINS or RDEL is counted (R315). -/
def RSet.failing (r : RSet) (code lidx : Nat) : RSet :=
  { r with fails := min (r.fails + 1) (2 ^ 32 - 1), lastCode := code, lastIdx := lidx }

/-- The contents after an insertion. -/
def RSet.insert (r : RSet) (x : Row) (victim : Option Row) : RSet :=
  let rows := (r.rows.filter fun y => y.lidx != x.lidx).map fun y =>
    if victim.map Row.lidx == some y.lidx then { y with spilled := true, writing := true } else y
  { r with rows := rows ++ [x] }

def OpKind.asRins : OpKind → Option (Nat × Row)
  | .rins h x => some (h, Row.ofBits x)
  | _ => none

/-- The change of a successful insertion, which lowers the count of the handle that it replaces; a spill of function 4 in
host-assisted mode asks the host for its place. -/
def State.inserted (s : State) (o : Op) (w : Who) (r : RSet) (x : Row) (victim : Option Row) (lost : List Nat) : Out :=
  let (s, o) := s.lowerAll o w r.desc.pool lost
  let s := s.setEnd o (r.insert x victim) false
  match victim with
  | some v => if s.hwMode 4 then s.done else (s.raiseService 4 o.asid r.desc.spill r.desc.handle (some v.lidx)).done
  | none => s.done

/-- RINS_SUBOPERATION: the row is inserted or rewritten, waits for metadata, or fails. -/
def execRinsSuboperation (id : Nat) (s : State) : Out :=
  match s.setOp id OpKind.asRins with
  | none => .next s
  | some (o, w, h, x) =>
    match s.setAt o.asid h with
    | none => (s.opEnd o true).done
    | some r =>
      let old := r.row x.lidx
      let pool := r.desc.pool
      let fail := fun (code : Nat) => (s.setEnd o (r.failing code x.lidx) true).done
      let refuse :=
        let (s, time) := s.fetchTime w o.asid o.time (s.metadataRead w o.asid pool x.handle)
        (s.setEnd { o with time := time } (r.failing 2 x.lidx) true).done
      if (old.any fun y => y.spilled) && r.spilling then s.setWait o
      else match r.place old with
        | none => fail 1
        | some victim =>
          if pool == 0 || old.map Row.handle == some x.handle then s.inserted o w r x victim []
          else match s.metadata w o.asid pool x.handle with
            | (.wait ps, _) => if o.refusedOf ps then refuse else (s.opAwait o ps true).done
            | (.ok, some record) =>
              let lost := (old.map Row.handle).toList
              if s.refuses w o.asid record then refuse
              else match s.rrefWaits o w pool lost with
                | [] =>
                  let (s, o) := s.putRref w o pool record (s.rref w o.asid record + 1)
                  s.inserted o w r x victim lost
                | ps => (s.opAwait o ps true).done
            | _ => refuse

/-- SPILL_WRITE: a spilled row has been written to its region and registered; in host-assisted mode once the host has
placed it. -/
def execSpillWrite (asid set lidx : Nat) (s : State) : Out :=
  match s.setAt asid set with
  | none => .next s
  | some r =>
    let asked := s.services.any fun v => v.func == 4 && v.asid == asid && v.aux == set && v.op == some lidx
    if asked then .next s
    else (s.putSet { r with rows := r.rows.map fun x => if x.lidx == lidx then { x with writing := false } else x }).done

/-- The spill page that the host names for a spilled row (Table 21-8). -/
def State.placeSpill (s : State) (asid set lidx page : Nat) : State :=
  match s.setAt asid set with
  | none => s
  | some r => s.putSet { r with rows := r.rows.map fun x =>
      if x.lidx == lidx && x.spilled then { x with place := some (page % 1024) } else x }

/-! ### RDEL and RAGE (R313, R314) -/

def OpKind.asRdel : OpKind → Option (Nat × Nat)
  | .rdel h lidx => some (h, lidx)
  | _ => none

def execRdelSuboperation (id : Nat) (s : State) : Out :=
  match s.setOp id OpKind.asRdel with
  | none => .next s
  | some (o, w, h, lidx) =>
    match s.setAt o.asid h with
    | none => (s.opEnd o true).done
    | some r =>
      if r.spilling then s.setWait o
      else match r.row lidx with
        | none => (s.setEnd o (r.failing 3 lidx) true).done
        | some x =>
          match s.rrefWaits o w r.desc.pool [x.handle] with
          | [] =>
            let (s, o) := s.lowerAll o w r.desc.pool [x.handle]
            (s.setEnd o { r with rows := r.rows.filter fun y => y.lidx != lidx } false).done
          | ps => (s.opAwait o ps true).done

def OpKind.asRage : OpKind → Option (Nat × Int)
  | .rage h delta => some (h, delta)
  | _ => none

/-- AGE after a RAGE (R314). -/
def agedBy (age : Nat) (delta : Int) : Nat := (min 255 (max 0 ((age : Int) + delta))).toNat

def execRageSuboperation (id : Nat) (s : State) : Out :=
  match s.setOp id OpKind.asRage with
  | none => .next s
  | some (o, _, h, delta) =>
    match s.setAt o.asid h with
    | none => (s.opEnd o true).done
    | some r =>
      if r.spilling then s.setWait o
      else (s.setEnd o { r with rows := r.rows.map fun x => { x with age := agedBy x.age delta } } false).done

/-! ### The select (R316 to R319) -/

/-- The score of a row. -/
def Row.score (x : Row) (q : Nat) : Nat := 256 - popcount 256 (Nat.xor q x.sig)

/-- Puts a row into a list in an order. -/
def insertRow (before : Row → Row → Bool) (x : Row) : List Row → List Row
  | [] => [x]
  | y :: ys => if before x y then x :: y :: ys else y :: insertRow before x ys

def sortRows (before : Row → Row → Bool) (xs : List Row) : List Row := xs.foldl (fun acc x => insertRow before x acc) []

def byLidx (x y : Row) : Bool := decide (x.lidx < y.lidx)

/-- Score descending, then LIDX ascending. -/
def byScore (q : Nat) (x y : Row) : Bool :=
  decide (y.score q < x.score q) || (x.score q == y.score q && decide (x.lidx < y.lidx))

structure Select where
  handle : Nat
  horizon : Nat
  query : Nat
  filter : Option (Nat × Nat)
  k : Nat
  n : Nat
  slot : Nat
  deriving DecidableEq, Repr

def OpKind.asRsel : OpKind → Option Select
  | .rsel handle horizon query filter k n slot => some (Select.mk handle horizon query filter k n slot)
  | _ => none

/-- The selection list. -/
def RSet.select (r : RSet) (x : Select) : List Row :=
  let f := x.filter.getD (r.desc.amask, r.desc.amatch)
  let eligible := r.rows.filter fun y => decide (y.lidx < x.horizon) && Nat.land y.attr f.1 == f.2
  let low := x.horizon - r.desc.recents
  let sink := eligible.filter fun y => decide (y.lidx < r.desc.sinks)
  let others := eligible.filter fun y => decide (r.desc.sinks ≤ y.lidx)
  let recent := others.filter fun y => decide (low ≤ y.lidx)
  let rest := others.filter fun y => decide (y.lidx < low)
  sortRows byLidx sink ++ (sortRows (byScore x.query) rest).take x.k ++ sortRows byLidx recent

/-- The pairs of an entry as one number. -/
def pairs (xs : List Row) : Nat := joined 64 (xs.map fun x => x.lidx + x.handle * 2 ^ 32)

/-- Fills one entry of the select result queue. -/
def State.fillSelect (s : State) (o : Op) (w : Who) (slot i data status : Nat) : State :=
  s.modWho w fun c => c.fill selectQ o.pos slot i fun e => { e with
    filled := true, width := 1024, data := BitVec.ofNat 1024 data, status := BitVec.ofNat 64 (status + i * 16), time := o.time }

/-- Delivers a selection list into the n entries. -/
def State.deliver (s : State) (o : Op) (w : Who) (x : Select) (rows : List Row) : State :=
  let total := rows.length
  (List.range x.n).foldl (fun s i =>
    let part := (rows.drop (16 * i)).take 16
    s.fillSelect o w x.slot i (pairs part) ((if 16 * x.n < total then 1 else 0) + part.length * 2 ^ 8 + total * 2 ^ 16)) s

def execRselSuboperation (id : Nat) (s : State) : Out :=
  match s.setOp id OpKind.asRsel with
  | none => .next s
  | some (o, w, x) =>
    match s.setAt o.asid x.handle with
    | none => (((List.range x.n).foldl (fun s i => s.fillSelect o w x.slot i 0 2) s).opEnd o false).done
    | some r =>
      if r.spilling then s.setWait o
      else
        let rows := r.select x
        let r : RSet := { r with rows := r.rows.map fun y => if rows.contains y then { y with age := 0 } else y }
        ((s.deliver o w x rows).setEnd o r false).done

def OpKind.asRselInfo : OpKind → Option (Nat × Nat)
  | .rselInfo h slot => some (h, slot)
  | _ => none

/-- The entry of Table 13-7. -/
def RSet.info (r : RSet) : Nat :=
  (r.rows.filter fun x => !x.spilled).length + (r.rows.filter fun x => x.spilled).length * 2 ^ 32
    + (r.rows.filter fun x => x.pin).length * 2 ^ 64 + r.desc.cap * 2 ^ 96 + r.fails * 2 ^ 128 + r.lastCode * 2 ^ 160
    + r.lastIdx * 2 ^ 192

def execRselInfoSuboperation (id : Nat) (s : State) : Out :=
  match s.setOp id OpKind.asRselInfo with
  | none => .next s
  | some (o, w, h, slot) =>
    match s.setAt o.asid h with
    | none => ((s.fillSelect o w slot 0 0 2).opEnd o false).done
    | some r => ((s.fillSelect o w slot 0 r.info 3).setEnd o r false).done

end Sys2Proof.Machine
end

