-- ==== Sys2Proof/Machine/Queue.lean ====
section
/-!
DEFINITION. The queues: ring records, task entry, TSPAWN, the queue registers, aging, readiness, choice and placement,
and the fixture list (R344 to R360, R398 to R403).
-/
namespace Sys2Proof.Machine

/-! ### Graph nodes that become ready (R341) -/

/-- The item of a node: a KERNEL node is a task whose DEPS the edges have met. -/
def nodeTask (asid time g n record : Nat) : Task :=
  { id := 0, record := record, asid := some asid, time := time, deps := 0, service := none, node := some (g, n), resume := none }

/-- The nodes of a graph that may enter its queue, in increasing index. -/
def Graph.readyNodes (g : Graph) : List Nat :=
  (g.nodes.filter fun e => e.2.status == 0 && e.2.preds == 0).map (·.1)

/-- Ready nodes enter the graph's queue, in increasing index, as far as its task list has room (R341, R346, assumption 33); a
DISABLED queue lets none in, and an ARMED graph whose first root enters is RUNNING. Those of a graph that has FAULTED since they
became ready still enter (Table 14-12). -/
def State.enterNodes (s : State) (h : Nat) : State :=
  match SMap.get? s.graphs h with
  | none => s
  | some g =>
    let going := g.state == .armed || g.state == .running || (g.state == .faulted && !g.reported)
    let open_ := going && (s.queue g.queue).state != .disabled
    let enter := g.readyNodes.take (256 - (s.queue g.queue).waiting)
    if !open_ || enter == [] then s
    else
      let s := enter.foldl (fun s n =>
        let record := ((SMap.get? g.nodes n).map (·.record)).getD 0
        s.enterTask g.queue (nodeTask g.asid s.floor h n record)) s
      let nodes := g.nodes.map fun e => if enter.contains e.1 then (e.1, { e.2 with status := 1 }) else e
      { s with graphs := SMap.set s.graphs h { g with
        state := if g.state == .faulted then .faulted else .running, nodes := nodes } }

/-- The nodes that wait for a place in a queue's list. -/
def State.enterAll (s : State) (q : Nat) : State :=
  s.graphs.foldl (fun s e => if e.2.queue == q then s.enterNodes e.1 else s) s

/-! ### Records from the ring (R345, R330) -/

def State.queueError (s : State) (q reason : Nat) : State :=
  s.modQueue q fun x => { x with state := .error, reason := reason }

/-- Once all dispatched items of a draining queue have completed it is DRAINED (Table 15-6). -/
def State.drainCheck (s : State) (q : Nat) : State :=
  s.modQueue q fun x =>
    if x.drain && (x.state == .enabled || x.state == .error) && x.outstanding == [] then { x with state := .drained } else x

/-- The ring record at HEAD, where the queue may take it now. -/
def State.pendingRecord (s : State) (q : Nat) : Option Nat :=
  let x := s.queue q
  if x.state == .enabled && !x.drain && x.head != x.tail && decide (x.waiting < 256) then some (x.base * 64 + 64 * x.head)
  else none

/-- RECORD_TAKE: the record at HEAD enters the task list, or puts the queue into ERROR. -/
def execRecordTake (q : Nat) (s : State) : Out :=
  match s.pendingRecord q with
  | none => .next s
  | some pa =>
    match s.upsetIn .phys pa 64 with
    | some u => ((s.reportUpset u).queueError q 9).drainCheck q |>.done
    | none =>
      let record := Mem.le s.mem pa 64
      match recordReason record with
      | some reason => ((s.queueError q reason).drainCheck q).done
      | none =>
        let s := s.modQueue q fun x => { x with head := (x.head + 1) % (x.sizem1 + 1) }
        (s.enterTask q (Task.ofRecord 0 record none 0)).done

/-- LAUNCH: the ring record at HEAD is a LAUNCH record and is taken as a task. -/
def execLaunch (q : Nat) (s : State) : Out :=
  match s.pendingRecord q with
  | none => .next s
  | some pa => if recType (Mem.le s.mem pa 64) == 1 then execRecordTake q s else .next s

/-! ### TSPAWN (R357 to R360) -/

def execTspawn (t a b q : BitVec 6) (s : State) : Out :=
  let va := (s.rs a).toNat
  let argp := (s.rs b).toNat
  let s' :=
    if va % 64 != 0 || (s.spaceBad s.cur.who s.cur.asid RKind.device [(va, 64)]).isSome then s.engineFault
    else s.checkedRead va 64 fun s bs =>
      let record := leNat bs
      if (taskReason record).isSome || (b != 0 && argp % 8 != 0) then s.engineFault
      else
        let record := if b != 0 then recSet record 1 argp else record
        s.effect (.cmd (some t.toNat)
          (.tspawn q.toNat s.cur.handler (Task.ofRecord 0 record (some s.cur.asid) 0)))
  s'.ok

def OpKind.asTspawn : OpKind → Option (Nat × Bool × Task)
  | .tspawn q handler task => some (q, handler, task)
  | _ => none

/-- TASK_ENTRY: the spawned task enters, after earlier spawns of its context to the queue, or fails with TERR. -/
def execTaskEntry (id : Nat) (s : State) : Out :=
  match s.opWith id OpKind.asTspawn with
  | none => .next s
  | some (o, w, q, handler, task) =>
    let earlier := s.ops.any fun x => x.who == some w && decide (x.id < id) &&
      (x.kind.asTspawn.map fun y => y.1) == some q
    if earlier then .next s
    else if s.accepts q task.record o.asid handler then
      ((s.enterTask q { task with time := o.time }).opEnd o false).done
    else (s.opEnd o true).done

/-! ### The queue registers (R344, R347, R350, R398) -/

def Queue.idle (x : Queue) : Bool := x.run == [] && x.head == x.tail

/-- The items that stay when a queue is enabled or disabled: pre-empted launches, which are dispatched tasks. -/
def Queue.kept (x : Queue) : List Task := x.run.filter fun t => t.resume.isSome

/-- The write of QCTL that Table 15-6 ignores. -/
def Queue.ignores (x : Queue) (v : Nat) : Bool := x.state == .disabled && bits v 0 0 == 1 && bits v 51 32 == 0

/-- What a write of QCTL does. -/
def Queue.ctl (x : Queue) (v : Nat) : Queue :=
  if x.ignores v then x else
  let prio := bits v 18 16
  let x : Queue := { x with
    eprio := if prio == x.prio then x.eprio else prio
    prio := prio
    ord := bits v 8 8 == 1
    pre := bits v 3 3 == 1
    drain := bits v 1 1 == 1 }
  let en := bits v 0 0 == 1
  match x.state with
  | .disabled =>
    let fix := bits v 11 10
    let x : Queue := { x with sizem1 := bits v 51 32, handler := bits v 9 9 == 1, fix := if fix == 3 then 0 else fix }
    if en then
      { x with
        state := .enabled, reason := 0, head := 0, tail := 0, cursor := 0, eprio := prio, run := x.kept, pool := [],
        credits := [], fixnext := 0 }
    else x
  | .enabled =>
    if !en && x.idle then { x with state := .disabled, run := x.kept, pool := [], credits := [] } else x
  | .drained =>
    if !en then { x with state := .disabled, reason := 0, run := x.kept, pool := [], credits := [] }
    else if x.drain then x else { x with state := .enabled, reason := 0 }
  | .error => x

/-- A write of QCTL; a queue that leaves DISABLED takes in the ready nodes of its graphs. -/
def State.qctl (s : State) (q v : Nat) : State :=
  let was := (s.queue q).state
  let s := (s.modQueue q fun x => x.ctl v).drainCheck q
  if was == .disabled && (s.queue q).state != .disabled then s.enterAll q else s

/-- A QCTL write whose event is the one named; another write of the register is no such event. -/
def State.qctlEvent (s : State) (q : Nat) (v : Word) (f : Queue → Nat → Bool) : Out :=
  if q < 64 && f (s.queue q) v.toNat then (s.qctl q v.toNat).done else .next s

def execQueueEnable (q : Nat) (v : BitVec 64) (s : State) : Out :=
  s.qctlEvent q v fun x v => x.state == .disabled && bits v 0 0 == 1

def execQueueDisable (q : Nat) (v : BitVec 64) (s : State) : Out :=
  s.qctlEvent q v fun x v => x.state != .disabled && bits v 0 0 == 0

def execDrainSet (q : Nat) (v : BitVec 64) (s : State) : Out :=
  s.qctlEvent q v fun x v => !x.drain && bits v 1 1 == 1

def execDrainClear (q : Nat) (v : BitVec 64) (s : State) : Out :=
  s.qctlEvent q v fun x v => x.drain && bits v 1 1 == 0

def execPrioChange (q : Nat) (v : BitVec 64) (s : State) : Out :=
  s.qctlEvent q v fun x v => x.prio != bits v 18 16

/-- QTAIL: records up to TAIL become available, or a TAIL outside the ring is an error (Table 15-7). -/
def State.qtailWrite (s : State) (q v : Nat) : State :=
  let x := s.queue q
  let tail := bits v 19 0
  if x.state == .disabled then s
  else if x.sizem1 < tail then (if x.state == .enabled then (s.queueError q 8).drainCheck q else s)
  else s.setQueue q { x with tail := tail }

def execQtail (q : Nat) (v : BitVec 64) (s : State) : Out :=
  if q < 64 then (s.qtailWrite q v.toNat).done else .next s

/-- EPRIO_AGING: a queue that has been ACTIVE or BLOCKED for 65,536 cycles without dispatching (R350). -/
def execEprioAging (q : Nat) (s : State) : Out :=
  let x := s.queue q
  if x.state == .enabled && !x.idle then (s.setQueue q { x with eprio := min 7 (x.eprio + 1) }).done else .next s

/-! ### Placement (R352 to R354) -/

/-- The aligned positions of a shape in row-major order. -/
def alignedPositions (lw lh : Nat) : List (Nat × Nat) :=
  (List.range (16 / 2 ^ lh)).flatMap fun j => (List.range (32 / 2 ^ lw)).map fun i => (i * 2 ^ lw, j * 2 ^ lh)

def positionIndex (p : Nat × Nat) : Nat := p.2 * 32 + p.1

/-- The order in which an unpinned task tries them. -/
def searchOrder (lw lh cursor : Nat) : List (Nat × Nat) :=
  let ps := alignedPositions lw lh
  ps.filter (fun p => decide (cursor ≤ positionIndex p)) ++ ps.filter fun p => decide (positionIndex p < cursor)

/-- CURSOR after a placement. -/
def nextCursor (lw lh : Nat) (p : Nat × Nat) : Nat :=
  (((alignedPositions lw lh).find? fun q => decide (positionIndex p < positionIndex q)).map positionIndex).getD 0

/-- The cores of a rectangle in increasing relative index. -/
def rectangle (lw lh : Nat) (p : Nat × Nat) : List Nat :=
  (List.range (2 ^ lh)).flatMap fun j => (List.range (2 ^ lw)).map fun i => (p.2 + j) * 32 + p.1 + i

/-- The EMPTY contexts of a core, as tickets. -/
def State.emptyContexts (s : State) (k : Nat) : List Nat :=
  ((List.range 4).map fun c => 4 * k + c).filter fun t => (s.ctx t).state == .empty

/-- The instances on a core. -/
def State.residents (s : State) (k : Nat) : List Context :=
  ((List.range 4).map fun c => s.ctx (4 * k + c)).filter fun c => c.state != .empty

/-- The tiles of a core that no context owns, lowest first (R80). -/
def State.freeTiles (s : State) (k : Nat) : List Nat :=
  (List.range 12).filter fun j => (s.residents k).all fun c => !c.grants.getLsbD j

/-- A kernel that declares tiles or scratchpad. -/
def heavy (hdr : Nat) : Bool := decide (0 < hdrTiles hdr) || decide (0 < hdrScratch hdr)

/-- A core kept for a head other than an item (R351); of two heads that may pre-empt, the one that came first has it
(assumption 123). -/
def State.claimed (s : State) (item k : Nat) : Bool := (s.claims.takeWhile fun c => c.item != item).any fun c => c.cores.contains k

/-- A core can take C contexts of a kernel for an item. -/
def State.coreFits (s : State) (item c hdr k : Nat) : Bool :=
  decide (c ≤ (s.emptyContexts k).length) && decide (c * hdrTiles hdr ≤ (s.freeTiles k).length)
    && !(heavy hdr && (s.residents k).any fun x => heavy (s.hdrOf x.who)) && !s.claimed item k

def State.fits (s : State) (item c hdr lw lh : Nat) (p : Nat × Nat) : Bool := (rectangle lw lh p).all (s.coreFits item c hdr)

/-- Contexts of an address space can be placed (R244). -/
def State.placeable (s : State) (asid : Nat) : Bool := s.astb.getLsbD 0 && spaceValid (s.space asid)

/-! ### The fixture list (R399 to R403) -/

/-- Where record i lies, and the link that carries it in host-assisted mode; none while no host link can. -/
def State.fixtureAt (s : State) (x : Queue) (i : Nat) : Option (Place × Nat) :=
  let a := x.fixb * 32 + 32 * i
  if s.hwMode 6 then some (.phys, a)
  else (s.carrier (hostBase + a)).map fun _ => (.remote, hostBase + a)

/-- A fixture record (Table 19-4). -/
def fixtureRecord (seq kind c : Nat) (p : Nat × Nat) (t : Task) : Nat :=
  let r := t.record
  let placed := kind == 0
  let shaped := kind != 2
  recTaskId r + seq * 2 ^ 64 + recKernel r * 2 ^ 128
    + (if shaped then recLw r * 2 ^ 144 + recLh r * 2 ^ 148 else 0)
    + (if placed then c * 2 ^ 152 + p.1 * 2 ^ 156 + p.2 * 2 ^ 161 else 0)
    + (if shaped && recPin r then 2 ^ 165 else 0) + kind * 2 ^ 166

/-- A set MBZ bit of a fixture record. -/
def fixtureMbz (f : Nat) : Bool :=
  bits f 255 168 != 0 || bits f 155 155 != 0 || bits f 151 151 != 0 || bits f 147 147 != 0 || bits f 143 140 != 0

/-! ### Readiness (R348, R355, R401) -/

/-- What the head of a queue needs: nothing more, an error instead, cores at one of some positions, or that it is not
ready. A task ends at once with a status where it cannot be placed at all. -/
inductive Need where
  | waits
  | error (reason : Nat)
  | command (t : Task)
  | ends (t : Task) (status : Nat)
  | cores (t : Task) (c hdr : Nat) (places : List (Nat × Nat))
  deriving DecidableEq, Repr

/-- The need of an item, without regard to a fixture list; `places` replaces the search. -/
def State.itemNeed (s : State) (x : Queue) (t : Task) (places : Option (List (Nat × Nat))) : Need :=
  let r := t.record
  if recType r != 1 then .command t
  else
    let search := places.getD (if recPin r then [(recX0 r, recY0 r)] else searchOrder (recLw r) (recLh r) x.cursor)
    match t.resume.bind (SMap.get? s.launches ·) with
    | some l =>
      let hdr := ((s.kernelOf l).map Kernel.hdr).getD 0
      .cores t l.c hdr (if !s.placeable l.asid then [] else if x.fix == 0 then search else [(l.ox, l.oy)])
    | none =>
      match SMap.get? s.kernels (recKernel r) with
      | none => .ends t 2
      | some k =>
        match k.state with
        | .unloading => .ends t 2
        | .loading => .waits
        | .resident =>
          let c := effC r k.hdr
          if 12 < c * hdrTiles k.hdr then .ends t 6 else .cores t c k.hdr (if s.placeable k.asid then search else [])

/-- The kind of fixture record that a need writes, and its contexts per core. -/
def Need.fixture : Need → Option (Task × Nat × Nat)
  | .command t => some (t, 2, 0)
  | .ends t _ => some (t, 1, 0)
  | .cores t c _ _ => some (t, 0, c)
  | _ => none

/-- A replayed item against its record: the fields that must agree. A record of KIND 1 or 2 holds 0 in C. -/
def fixtureAgrees (f kind c : Nat) (t : Task) : Bool :=
  let r := t.record
  bits f 167 166 == kind && bits f 139 128 == recKernel r &&
    (if kind == 2 then true
     else bits f 146 144 == recLw r && bits f 150 148 == recLh r && (bits f 165 165 == 1) == recPin r &&
       (kind == 1 || (bits f 154 152 == c && (!recPin r || (bits f 160 156 == recX0 r && bits f 164 161 == recY0 r)))))

/-- The error in the fixture record that a queue follows. -/
def State.fixtureUpset (s : State) (x : Queue) : Option Upset :=
  (s.fixtureAt x x.fixnext).bind fun e => s.upsetIn e.1 e.2 32

/-- The need of the item that the fixture list names; one whose kernel is LOADING is waited for (R330, R401). A record that cannot
be read without error is an error of reading a record (assumption 125). -/
def State.replayNeed (s : State) (x : Queue) : Need :=
  if x.fixnext == x.fixcap then .error 12
  else match s.fixtureAt x x.fixnext with
    | none => .waits
    | some (p, a) =>
      let f := leNat (s.peek p a 32)
      if (s.upsetIn p a 32).isSome then .error 9
      else if fixtureMbz f then .error 11
      else match x.run.find? fun t => recTaskId t.record == bits f 63 0 with
        | none => .waits
        | some t =>
          let p := (bits f 160 156, bits f 164 161)
          let places := (alignedPositions (recLw t.record) (recLh t.record)).filter (fun x => x == p)
          let need := s.itemNeed x t (some places)
          match need.fixture with
          | none => .waits
          | some (_, kind, c) => if fixtureAgrees f kind c t then need else .error 11

/-- The need of a queue's head. A pre-empted launch that resumes does not wait for the task dispatched before it, also where ORD
has been set since (the model's choice, assumption 121). -/
def State.headNeed (s : State) (q : Nat) : Need :=
  let x := s.queue q
  match x.run with
  | [] => .waits
  | t :: _ =>
    if x.state != .enabled || x.drain then .waits
    else if t.resume.isSome then s.itemNeed x t none
    else if x.ord && x.lastItem.any x.outstanding.contains then .waits
    else if x.fix == 2 then s.replayNeed x
    else s.itemNeed x t none

/-- What TASK_DISPATCH does with a ready head. -/
inductive Ready where
  | error (reason : Nat)
  | command (t : Task)
  | ends (t : Task) (status : Nat)
  | place (t : Task) (c hdr : Nat) (p : Nat × Nat)
  deriving DecidableEq, Repr

/-- The head of a queue, where it is ready. -/
def State.ready (s : State) (q : Nat) : Option Ready :=
  let x := s.queue q
  let fresh := fun (t : Task) (r : Ready) =>
    if x.fix == 1 && t.resume.isNone then
      (if x.fixnext == x.fixcap then some (.error 12)
       else if (s.fixtureAt x x.fixnext).isNone then none else some r)
    else some r
  match s.headNeed q with
  | .waits => none
  | .error reason => some (.error reason)
  | .command t => fresh t (.command t)
  | .ends t status => fresh t (.ends t status)
  | .cores t c hdr places =>
    match places.find? (s.fits t.id c hdr (recLw t.record) (recLh t.record)) with
    | none => none
    | some p => fresh t (.place t c hdr p)

/-! ### The choice (R349) -/

/-- The queues in the order in which a level considers them. -/
def State.levelOrder (s : State) (level : Nat) : List Nat :=
  let start := match SMap.get? s.lastQueue level with
    | some q => (q + 1) % 64
    | none => 0
  (List.range 64).map fun i => (start + i) % 64

/-- The first ready queue of the highest level. -/
def State.chosen (s : State) : Option (Nat × Ready) :=
  [7, 6, 5, 4, 3, 2, 1, 0].findSome? fun level =>
    (s.levelOrder level).findSome? fun q =>
      if (s.queue q).eprio == level then (s.ready q).map fun r => (q, r) else none

/-- The head leaves the run list as dispatched: EPRIO and the round-robin order follow, and a fixture record is written or
passed. -/
def State.dispatched (s : State) (q : Nat) (t : Task) (kind c : Nat) (p : Nat × Nat) : State :=
  let x := s.queue q
  let s := if x.fix == 1 && t.resume.isNone then
      (match s.fixtureAt x x.fixnext with
       | some (place, a) => s.writeParts [(place, a, leBytes 32 (fixtureRecord x.fixnext kind c p t))] 0
       | none => s)
    else s
  let s := s.setQueue q { x with
    run := x.run.filter fun y => y.id != t.id
    eprio := x.prio
    fixnext := if x.fix != 0 && t.resume.isNone then x.fixnext + 1 else x.fixnext
    outstanding := if t.resume.isSome then x.outstanding else x.outstanding ++ [t.id]
    lastItem := if t.resume.isSome then x.lastItem else some t.id }
  ({ s with lastQueue := SMap.set s.lastQueue x.eprio q } : State).enterAll q

/-- The cursor after a placement (R353). Under FIXTURE-RECORD a pre-empted launch that resumes at its first origin leaves it
unchanged (the model's choice, assumption 122). -/
def State.moveCursor (s : State) (q : Nat) (t : Task) (p : Nat × Nat) : State :=
  s.modQueue q fun x =>
    if recPin t.record || x.fix == 2 || (x.fix == 1 && t.resume.isSome) then x
    else { x with cursor := nextCursor (recLw t.record) (recLh t.record) p }

/-! ### Launches on cores (R78, R80, R333, R336, R369) -/

/-- The n lowest-numbered free tiles of a core, as OWN. -/
def State.grant (s : State) (k n : Nat) : List Nat := (s.freeTiles k).take n

def ownMask (ts : List Nat) : Word := BitVec.ofNat 64 ((ts.map (2 ^ ·)).sum)

/-- A new context of an instance (R78). -/
def Launch.context (l : Launch) (id inst asid base hdr floor k : Nat) (tiles : List Nat) : Context :=
  { Context.empty with
    who := { launch := id, inst := inst }
    state := .ready
    handler := l.handler
    asid := asid
    pc := base + hdrEntry hdr
    nbv := BitVec.ofNat 64 (hdrNbv hdr)
    pbk := BitVec.ofNat 64 (if hdrPboff hdr == 0 then 0 else base + hdrPboff hdr)
    ltime := max floor l.task.time
    town := ownMask tiles
    grants := ownMask tiles
    core := coreCsr k
    inst := BitVec.ofNat 64 inst
    grpb := l.grpb inst
    grps := l.grps
    argp := BitVec.ofNat 64 (bits (recArgp l.task.record) 55 3 * 8)
    fltp := BitVec.ofNat 64 (bits (recFaultB l.task.record + 256 * hdrFslot hdr * inst) 55 8 * 256) }

/-- A launch whose kernel declares tiles or scratchpad takes a core: planes, scale memory and scratchpad are zero. -/
def State.takeCore (s : State) (k : Nat) : State :=
  let s := s.modCore k fun c => { c with active := Plane.zero, shadow := Plane.zero, scale := [], scratch := [], badMtx := c.badMtx.filter (· < 16) }
  { s with upsets := s.upsets.filter fun u => u.place != .scratch k }

/-- Puts one instance of a launch on a context with granted tiles, zero at grant. -/
def State.putInstance (s : State) (l : Launch) (id inst asid base hdr k t : Nat) : State :=
  let tiles := s.grant k (hdrTiles hdr)
  let s := s.modCore k fun c => { c with
    tiles := tiles.foldl (fun m j => SMap.erase m j) c.tiles
    badMtx := c.badMtx.filter fun x => !tiles.contains x }
  s.setCtx t (l.context id inst asid base hdr s.floor k tiles)

/-- Places a task: a live launch with every instance READY. -/
def State.placeTask (s : State) (q : Nat) (t : Task) (c : Nat) (p : Nat × Nat) : State :=
  let r := t.record
  match SMap.get? s.kernels (recKernel r) with
  | none => s
  | some kn =>
    let id := s.nextId
    let l : Launch :=
      { task := t, kernel := recKernel r, asid := kn.asid, queue := q, handler := (s.queue q).handler, c := c,
        lw := recLw r, lh := recLh r, gw := recGw r, gh := recGh r, x0 := p.1, y0 := p.2, ox := p.1, oy := p.2,
        ended := [], faulted := false, preempted := false, saved := [], savedCores := [], area := 0, areaLen := 0,
        groups := [], colls := [], time := 0 }
    let l : Launch := { l with
      groups := (List.range l.ngrp).map fun g =>
        (g, { Barrier.free with state := 1, asid := kn.asid, count := l.groupSize }) }
    let s : State := { s with
      nextId := id + 1
      launches := SMap.set s.launches id l
      kernels := SMap.set s.kernels (recKernel r) { kn with live := kn.live + 1 } }
    ((List.range (2 ^ l.lw * 2 ^ l.lh)).zip (rectangle l.lw l.lh p)).foldl (fun s e =>
      let s := if heavy kn.hdr then s.takeCore e.2 else s
      ((List.range c).zip (s.emptyContexts e.2)).foldl (fun s x =>
        s.putInstance l id (e.1 * c + x.1) kn.asid kn.base kn.hdr e.2 x.2) s) s

end Sys2Proof.Machine
end

