-- ==== Sys2Proof/Machine/Kernel.lean ====
section
/-!
DEFINITION. Kernels, launches and task graphs: the commands of the rings, loading, the dispatch of tasks, the completion of
launches and nodes, KICK and UNMAP (R326 to R342).
-/
namespace Sys2Proof.Machine

/-! ### What the device reads and writes for an address space -/

/-- Memory that a task's address space names without an instance. -/
def RKind.shared : RKind → Bool
  | .generic => true
  | .lscr => true
  | _ => false

/-- The checks of a device access in an address space. -/
def State.spaceReach (s : State) (asid : Nat) (segs : List Seg) (r w : Bool) : Chk :=
  s.check noWho asid 0 6 segs r w RKind.shared true 0

def State.spaceRead (s : State) (asid va n : Nat) : List Byte := s.readSeg noWho asid 0 (va, n)

/-- The bytes of a device read: absent where they cannot be reached, with the pages to wait for, or that an error lies
among them. -/
inductive Fetch where
  | bytes (x : Nat)
  | waits (pages : List (Nat × Nat))
  | refused
  | bad (u : Upset)
  deriving DecidableEq, Repr

def State.spaceFetch (s : State) (asid va n : Nat) : Fetch :=
  match s.spaceReach asid [(va, n)] true false with
  | .trap .. => .refused
  | .wait ps => .waits ps
  | .ok =>
    match s.upsetOf noWho asid 0 [(va, n)] with
    | some u => .bad u
    | none => .bytes (leNat (s.spaceRead asid va n))

/-! ### Completion (R331, R334, R335) -/

/-- A completion record as one host-window write; offset 0 asks for none. -/
def State.completion (s : State) (off taskid status reason handle node : Nat) (after : List Who) : State :=
  if off == 0 then s
  else s.hostWrite off (leBytes 8 taskid ++ leBytes 8 (status + reason * 2 ^ 8 + handle * 2 ^ 16 + node * 2 ^ 32)) after

/-- A dispatched item has completed. -/
def State.itemDone (s : State) (q item : Nat) : State :=
  (s.modQueue q fun x => { x with outstanding := x.outstanding.filter fun i => i != item }).drainCheck q

/-- A LOAD, UNLOAD, GRAPH or GRAPH_DROP completes. -/
def State.commandDone (s : State) (q : Nat) (t : Task) (status reason : Nat) : State :=
  (s.completion (recWord t.record 2) (recTaskId t.record) status reason (recKernel t.record) 0 []).itemDone q t.id

/-! ### The end of a node (R341) -/

/-- A graph with no ready, entered or running node left reports its end. -/
def State.graphCheck (s : State) (h : Nat) : State :=
  match SMap.get? s.graphs h with
  | none => s
  | some g =>
    let busy := g.nodes.any fun e => e.2.status == 1 || e.2.status == 2 || 5 ≤ e.2.status || (e.2.status == 0 && e.2.preds == 0)
    if busy || (g.state != .running && g.state != .faulted) || g.reported then s
    else match g.failed with
      | some n =>
        ({ s with graphs := SMap.set s.graphs h { g with state := .faulted, reported := true } } : State).completion
          g.off g.taskid 1 0 h n []
      | none =>
        if g.nodes.all fun e => e.2.status == 3 then
          ({ s with graphs := SMap.set s.graphs h { g with state := .complete, reported := true } } : State).completion
            g.off g.taskid 0 0 h 0 []
        else s

/-- Node n of graph h completes: its successors may become ready, or the graph fails, and none becomes ready any more. -/
def State.nodeEnds (s : State) (h n : Nat) (failed : Bool) : State :=
  match SMap.get? s.graphs h with
  | none => s
  | some g =>
    let nodes := SMap.modify g.nodes n fun x => { x with status := if failed then 4 else 3 }
    let next := (g.edges.filter fun e => e.1 == n).map (·.2)
    let g : Graph :=
      if failed then { g with nodes := nodes, state := .faulted, failed := some (g.failed.getD n) }
      else if g.failed.isSome then { g with nodes := nodes }
      else { g with nodes := nodes.map fun e => if next.contains e.1 then (e.1, { e.2 with preds := e.2.preds - 1 }) else e }
    (({ s with graphs := SMap.set s.graphs h g } : State).enterNodes h).graphCheck h

/-- A node that runs on an engine completes, and its queue counts it complete. -/
def State.nodeDone (s : State) (h n : Nat) (failed : Bool) : State :=
  match SMap.get? s.graphs h with
  | none => s
  | some g => (s.nodeEnds h n failed).itemDone g.queue (((SMap.get? g.nodes n).map (·.item)).getD 0)

/-! ### Completion actions (R335) -/

/-- The answer that a service task gives by its completion (R426). A refill is over; a page fault goes on by
SERVICE_COMPLETION. -/
def State.serviceTask (s : State) (id : Nat) (ok : Bool) : State :=
  match s.serviceGet id with
  | none => s
  | some v =>
    if v.func == 3 then s.serviceDrop id
    else { s with services := s.services.map fun x => if x.id == id then { x with answer := some (if ok then 0 else 1, 0, 0) } else x }

/-- A status by which a KERNEL node fails (R341): FAULTED or NO_KERNEL. -/
def nodeFails (status : Nat) : Bool := status == 1 || status == 2

/-- The end of a task's node waits for an ACT 3 of the task under ORD (R335). -/
def State.heldNode (s : State) (q : Nat) (t : Task) (status : Nat) : Option (Nat × Nat × Bool) :=
  if (s.queue q).ord then t.node.map fun x => (x.1, x.2, nodeFails status) else none

/-- The completion action of a task, in an address space if it has one; ACT 3 goes on as an operation of its own, with the
rights of a handler where the completing launch was one. -/
def State.action (s : State) (q : Nat) (t : Task) (asid : Option Nat) (handler : Bool) (status time : Nat)
    (after : List Who) : State :=
  let r := t.record
  match recAct r, asid with
  | 1, some a => (s.arriveDevice (recActArg r) a time).1
  | 1, none => s.report 8 0 0 [q, 1, recActArg r]
  | 2, _ => s.completion (recActAddr r) (recTaskId r) status 0 (recKernel r) 0 after
  | 3, some a =>
    let op : Op :=
      { id := 0, who := none, asid := a, pos := 0, pc := 0, tag := none, time := time, wait := none, denied := false,
        failed := false, ports := [], kind := .act3 (recActArg r) (recActAddr r) q t.id handler (s.heldNode q t status) }
    s.opNew op
  | 3, none => s.report 8 0 0 [q, 3, recActAddr r]
  | 4, _ => s.release (recActArg r) (recActVal r)
  | _, _ => s

/-- A task ends with a status: its service, its action and its node follow. Its queue counts it complete once an ACT 3 has
been carried out, and under ORD its node is complete only then too (R335). -/
def State.taskDone (s : State) (q : Nat) (t : Task) (asid : Option Nat) (handler : Bool) (status time : Nat)
    (after : List Who) : State :=
  let held := recAct t.record == 3 && asid.isSome
  let late := held && (s.queue q).ord
  let s := match t.service with
    | some id => s.serviceTask id (status == 0)
    | none => s
  let s := s.action q t asid handler status time after
  let s := match t.node with
    | some (h, n) => if late then s else s.nodeEnds h n (nodeFails status)
    | none => s
  if held then s else s.itemDone q t.id

structure Spawn where
  queue : Nat
  addr : Nat
  home : Nat
  item : Nat
  handler : Bool
  node : Option (Nat × Nat × Bool)
  deriving DecidableEq, Repr

def OpKind.asAct3 : OpKind → Option Spawn
  | .act3 queue addr home item handler held => some (Spawn.mk queue addr home item handler held)
  | _ => none

/-- An ACT 3 has been carried out, or has been lost: the node that has waited for it completes, and then its task. -/
def State.spawnEnds (s : State) (x : Spawn) : State :=
  (match x.node with
   | some (h, n, failed) => s.nodeEnds h n failed
   | none => s).itemDone x.home x.item

/-- TASK_RECORD_ENQUEUE: the record of an ACT 3 is read and enters its queue, or is lost with an event. -/
def execTaskRecordEnqueue (id : Nat) (s : State) : Out :=
  match (s.opGet id).bind fun o => (o.kind.asAct3).map fun x => (o, x) with
  | none => .next s
  | some (o, x) =>
    let lost := fun (s : State) => (((s.opDrop id).report 8 0 0 [x.queue, 3, x.addr]).spawnEnds x).done
    if o.wait.isSome then .next s
    else if o.denied then lost s
    else match s.spaceFetch o.asid x.addr 64 with
      | .waits ps => (s.opAwait o ps false).done
      | .refused => lost s
      | .bad u => lost (s.reportUpset u)
      | .bytes r =>
        let s := s.mark noWho o.asid 0 [(x.addr, 64)] false
        if (taskReason r).isSome || !s.accepts x.queue r o.asid x.handler then lost s
        else
          let (s, time) := s.accessTime none noWho o.asid 0 o.time [(x.addr, 64)] false
          (((s.opDrop id).enterTask x.queue (Task.ofRecord 0 r (some o.asid) time)).spawnEnds x).done

/-- One live launch fewer; the last one of an UNLOADING kernel lets its UNLOAD complete (Table 14-2). -/
def State.kernelLess (s : State) (h : Nat) : State :=
  match SMap.get? s.kernels h with
  | none => s
  | some k =>
    let k : Kernel := { k with live := k.live - 1 }
    if k.state == KState.unloading && k.live == 0 then
      ((({ s with kernels := SMap.erase s.kernels h } : State).completion k.off k.taskid 0 0 h 0 []).itemDone k.queue k.item)
    else { s with kernels := SMap.set s.kernels h k }

/-- An access or sub-operation of an instance of a launch is still to be done, the replay of what it has logged included
(R335, R389). -/
def State.launchBusy (s : State) (l : Nat) : Bool :=
  (s.ops.any fun o => o.who.any fun w => w.launch == l) || s.cores.any fun k => k.2.log.any fun e => e.who.launch == l

/-- LAUNCH_COMPLETION: every instance of a launch is EMPTY and nothing that one of them did is outstanding. -/
def execLaunchCompletion (l : Nat) (s : State) : Out :=
  match SMap.get? s.launches l with
  | none => .next s
  | some x =>
    if x.ended.length != x.instances || s.launchBusy l then .next s
    else
      let s : State := { s with
        launches := SMap.erase s.launches l
        floor := max s.floor x.time
        fabArrivals := s.fabArrivals.filter fun f => f.2.taskid != recTaskId x.task.record
        fabLost := s.fabLost.filter fun f => f.1 != recTaskId x.task.record }
      let after := (List.range x.instances).map fun i => Who.mk l i
      let asid := x.task.asid.getD x.asid
      let status := if x.faulted then 1 else 0
      ((s.taskDone x.queue x.task (some asid) x.handler status x.time after).kernelLess x.kernel).done

/-! ### LOAD, LOADING_CHECK, UNLOAD (R326 to R329) -/

/-- A LOAD is accepted: the handle's entry is LOADING, or the command completes BUSY. -/
def State.startLoad (s : State) (q : Nat) (t : Task) : State :=
  let h := recKernel t.record
  if (SMap.get? s.kernels h).isSome then s.commandDone q t 4 0
  else
    let k : Kernel :=
      { state := .loading, asid := recBits t.record 0 47 32, base := recWord t.record 1, hdr := 0, code := [], captured := false, live := 0,
        item := t.id, queue := q, off := recWord t.record 2, taskid := recTaskId t.record, wait := none, denied := [] }
    { s with kernels := SMap.set s.kernels h k }

/-- The limits and MBZ fields of Table 14-1 (check 5). -/
def hdrBad (h : Nat) : Bool :=
  bits h 1023 376 != 0 || bits h 367 352 != 0 || bits h 63 60 != 0 || bits h 55 51 != 0
    || hdrFslot h == 0 || hdrDataOff h % 64 != 0
    || hdrCodeLen h == 0 || hdrCodeLen h % 4 != 0 || hdrCodeOff h % 65536 != 0
    || hdrEntry h % 4 != 0 || decide (hdrEntry h < hdrCodeOff h) || decide (hdrCodeOff h + hdrCodeLen h ≤ hdrEntry h)
    || hdrPboff h % 64 != 0 || decide (65536 < hdrArgs h) || hdrArgs h % 8 != 0
    || decide (1572864 < hdrScratch h) || hdrScratch h % 256 != 0
    || decide (12 < hdrTiles h) || hdrCtx h == 0 || decide (4 < hdrCtx h) || decide (12 < hdrTiles h * hdrCtx h)

/-- The 64 KiB pages of the code segment, by their addresses. -/
def codePages (base hdr : Nat) : List Nat :=
  (List.range ((hdrCodeLen hdr + 65535) / 65536)).map fun i => base + hdrCodeOff hdr + 65536 * i

/-- What the checks of LOADING find: success, a reason, or pages to wait for. -/
inductive Loading where
  | ok
  | fails (reason : Nat)
  | waits (pages : List (Nat × Nat))
  deriving DecidableEq, Repr

/-- A byte range that LOADING reads; a page that was refused fails the check. -/
def State.loadFetch (s : State) (k : Kernel) (va n : Nat) : Fetch :=
  if 2 ^ 55 < va + n then .refused
  else match s.spaceFetch k.asid va n with
    | .waits ps => if ps.any fun p => k.denied.contains p.1 then .refused else .waits ps
    | r => r

/-- The code pages of check 6, in order. -/
def State.codeChk (s : State) (k : Kernel) : List Nat → Loading
  | [] => .ok
  | va :: rest =>
    if 2 ^ 55 ≤ va then .fails 4
    else match s.page k.asid 0 va true false false with
      | .ok _ _ level _ => if level == 4 then s.codeChk k rest else .fails 4
      | .awaits => if k.denied.contains (va / 65536) then .fails 4 else .waits [(va / 65536, va)]
      | _ => .fails 4

/-- The extent of the playbook image: its directory and the words that the entries name. -/
def State.playbookChk (s : State) (k : Kernel) : Loading :=
  let pb := hdrPboff k.hdr
  if pb == 0 then .ok
  else if 2 ^ 32 < pb + 256 then .fails 4
  else match s.loadFetch k (k.base + pb) 256 with
    | .waits ps => .waits ps
    | .bytes x =>
      if (elems 32 64 x).any fun e => playLen e != 0 && decide (2 ^ 32 < pb + 4 * (playOffset e + playLen e)) then .fails 4 else .ok
    | _ => .fails 4

/-- The reason for which a header fails before its playbook is read (R329). -/
def headerReason (h : Nat) : Option Nat :=
  if hdrMagic h != 0x4B564B48 then some 1
  else if hdrNbv h != 1 then some 2
  else if hdrBad h then some 3
  else if 2 ^ 32 < hdrCodeOff h + hdrCodeLen h || 2 ^ 32 < hdrDataOff h + hdrDataLen h then some 4
  else none

/-- The checks of R329 in order, for a kernel whose header has been captured. -/
def State.imageChk (s : State) (k : Kernel) : Loading :=
  match headerReason k.hdr with
  | some r => .fails r
  | none =>
    match s.playbookChk k with
    | .ok => s.codeChk k (codePages k.base k.hdr)
    | r => r

/-- A code page takes X = 1 and W = 0 (R62). -/
def State.makeCode (s : State) (asid va : Nat) : State := s.setPte asid va 0x4 0x8

/-- The code segment of a kernel as it stands in memory, by offset (R62). -/
def State.codeOf (s : State) (k : Kernel) : Mem :=
  (pagesOf [(k.base + hdrCodeOff k.hdr, hdrCodeLen k.hdr)]).foldl (fun m p =>
    let off := p.2 - (k.base + hdrCodeOff k.hdr)
    match s.resolvePage k.asid 0 p.2 false with
    | some (place, a) => Mem.write m off (s.peek place a (min 65536 (hdrCodeLen k.hdr - off)))
    | none => m) []

/-- LOADING ends: a RESIDENT kernel has captured its code segment. -/
def State.loadEnd (s : State) (h : Nat) (k : Kernel) (reason : Option Nat) : State :=
  let s : State := match reason with
    | none =>
      let s := (codePages k.base k.hdr).foldl (fun s va => s.makeCode k.asid va) s
      let code := s.codeOf k
      { s with kernels := SMap.set s.kernels h { k with state := .resident, code := code, wait := none, denied := [] } }
    | some _ => { s with kernels := SMap.erase s.kernels h }
  (s.completion k.off k.taskid (if reason.isSome then 3 else 0) (reason.getD 0) h 0 []).itemDone k.queue k.item

/-- A loading kernel waits for the first of some pages. -/
def State.loadAwait (s : State) (h : Nat) (k : Kernel) (ps : List (Nat × Nat)) : State :=
  let s := s.needPages k.asid ps false
  { s with kernels := SMap.set s.kernels h { k with wait := (ps.head?).map fun p => (k.asid, p.1) } }

/-- A for what the device has read of an address space for itself (R249). -/
def State.seen (s : State) (asid va n : Nat) : State := s.mark noWho asid 0 [(va, n)] false

/-- A for the directory of a kernel's playbook, where LOADING reads it (R249); an error there is reported. -/
def State.markPlaybook (s : State) (k : Kernel) : State :=
  let va := k.base + hdrPboff k.hdr
  if (headerReason k.hdr).isSome || hdrPboff k.hdr == 0 || 2 ^ 32 < hdrPboff k.hdr + 256 then s
  else match s.loadFetch k va 256 with
    | .bytes _ => s.seen k.asid va 256
    | .bad u => (s.seen k.asid va 256).reportUpset u
    | _ => s

/-- LOADING_CHECK: the checks of a LOADING kernel go as far as they can. -/
def execLoadingCheck (h : Nat) (s : State) : Out :=
  match SMap.get? s.kernels h with
  | none => .next s
  | some k =>
    let judge := fun (s : State) (k : Kernel) =>
      match s.imageChk k with
      | .ok => (s.loadEnd h k none).done
      | .fails r => (s.loadEnd h k (some r)).done
      | .waits ps => (s.loadAwait h k ps).done
    if k.state != .loading || k.wait.isSome then .next s
    else if k.captured then judge (s.markPlaybook k) k
    else if !spaceValid (s.space k.asid) then (s.loadEnd h k (some 6)).done
    else if k.base % 65536 != 0 then (s.loadEnd h k (some 5)).done
    else match s.loadFetch k k.base 128 with
      | .refused => (s.loadEnd h k (some 5)).done
      | .bad u => (((s.seen k.asid k.base 128).reportUpset u).loadEnd h k (some 5)).done
      | .waits ps => (s.loadAwait h k ps).done
      | .bytes x =>
        let s := s.seen k.asid k.base 128
        let k : Kernel := { k with hdr := x, captured := true }
        judge (s.markPlaybook k) k

/-- An UNLOAD is accepted. -/
def State.startUnload (s : State) (q : Nat) (t : Task) : State :=
  let h := recKernel t.record
  match SMap.get? s.kernels h with
  | none => s.commandDone q t 2 0
  | some k =>
    if k.state != .resident then s.commandDone q t 2 0
    else if k.live == 0 then ({ s with kernels := SMap.erase s.kernels h } : State).commandDone q t 0 0
    else
      let k : Kernel := { k with
        state := .unloading, item := t.id, queue := q, off := recWord t.record 2, taskid := recTaskId t.record }
      { s with kernels := SMap.set s.kernels h k }

/-! ### GRAPH and GRAPH_DROP (R339, R340) -/

/-- Edges as (FROM, TO). -/
def edgesOf (n x : Nat) : List (Nat × Nat) := (elems 32 n x).map fun e => (e % 65536, e / 65536)

/-- An edge repeats an earlier one. -/
def repeats : List (Nat × Nat) → Bool
  | [] => false
  | e :: es => es.contains e || repeats es

/-- Whether nodes that no remaining edge enters can be taken away until none is left. -/
def acyclic : Nat → List Nat → List (Nat × Nat) → Bool
  | 0, nodes, _ => nodes == []
  | fuel + 1, nodes, edges =>
    let rest := nodes.filter fun n => edges.any fun e => e.2 == n
    rest == [] || acyclic fuel rest (edges.filter fun e => rest.contains e.1)

/-- A node record whose kind is unknown or which Table 14-5 refuses; DEPS is the device's. -/
def nodeBad (r : Nat) : Bool :=
  let kind := recType r
  if kind == 1 then (taskReason r).isSome else !(kind == 0x11 || kind == 0x12 || kind == 0x13 || kind == 0x14)

/-- The nodes in the graph store. -/
def State.storedNodes (s : State) : Nat := (s.graphs.map fun e => e.2.nodes.length).sum

def graphNodes (h : Nat) : Nat := bits h 63 48
def graphEdges (h : Nat) : Nat := bits h 95 64

/-- The reason for which a graph header fails. -/
def State.graphHeader (s : State) (h : Nat) : Option Nat :=
  if bits h 31 0 != 0x46524748 then some 1
  else if bits h 47 38 != 0 || bits h 127 96 != 0 || bits h 511 192 != 0 || bits h 191 128 % 16 != 0 then some 3
  else if graphNodes h == 0 || decide (4096 < graphNodes h) || decide (65535 < graphEdges h)
      || decide (65536 < s.storedNodes + graphNodes h) then some 4
  else none

/-- The reason for which the nodes or edges of an object fail. -/
def graphReason (nodes : List Nat) (edges : List (Nat × Nat)) : Option Nat :=
  let n := nodes.length
  if nodes.any nodeBad then some 3
  else if edges.any (fun e => decide (n ≤ e.1) || decide (n ≤ e.2) || e.1 == e.2) || repeats edges
      || !acyclic n (List.range n) edges then some 7
  else none

def graphOf (asid h taskid : Nat) (nodes : List Nat) (edges : List (Nat × Nat)) : Graph :=
  { state := .uploaded, asid := asid, queue := bits h 37 32, off := bits h 191 128, taskid := taskid,
    nodes := ((List.range nodes.length).zip nodes).map fun x => (x.1, Node.mk x.2 0 0 0), edges := edges, failed := none,
    reported := false }

/-- Goes on with an upload. -/
def State.upload (s : State) (o : Op) (q : Nat) (t : Task) : Out :=
  let fail := fun (s : State) (reason : Nat) => ((s.opDrop o.id).commandDone q t 5 reason).done
  let va := recWord t.record 1
  if o.denied then fail s 5
  else if !spaceValid (s.space o.asid) then fail s 6
  else match s.spaceFetch o.asid va 64 with
    | .waits ps => (s.opAwait o ps false).done
    | .refused => fail s 5
    | .bad u => fail ((s.seen o.asid va 64).reportUpset u) 5
    | .bytes h =>
      let s := s.seen o.asid va 64
      match s.graphHeader h with
      | some reason => fail s reason
      | none =>
        let n := graphNodes h
        let len := 64 + 64 * n + 4 * graphEdges h
        match s.spaceFetch o.asid va len with
        | .waits ps => (s.opAwait o ps false).done
        | .refused => fail s 5
        | .bad u => fail ((s.seen o.asid va len).reportUpset u) 5
        | .bytes x =>
          let s := s.seen o.asid va len
          let nodes := elems 512 n (x / 2 ^ 512)
          let edges := edgesOf (graphEdges h) (x / 2 ^ (512 + 512 * n))
          match graphReason nodes edges with
          | some reason => fail s reason
          | none =>
            let g := graphOf o.asid h (recTaskId t.record) nodes edges
            (({ s.opDrop o.id with graphs := SMap.set s.graphs (recKernel t.record) g } : State).commandDone q t 0 0).done

def OpKind.asUpload : OpKind → Option (Nat × Task)
  | .upload q t => some (q, t)
  | _ => none

/-- An upload of a queue's GRAPH that can go on. -/
def State.uploading (s : State) (q : Nat) : Option (Op × Task) :=
  s.ops.findSome? fun o => match o.kind.asUpload with
    | some (q', t) => if q' == q && o.wait.isNone then some (o, t) else none
    | none => none

/-- A GRAPH is accepted. -/
def State.startGraph (s : State) (q : Nat) (t : Task) : Out :=
  let h := recKernel t.record
  let taken := (SMap.get? s.graphs h).isSome || s.ops.any fun o => (o.kind.asUpload.map fun x => recKernel x.2.record) == some h
  if taken then (s.commandDone q t 4 0).done
  else
    let op : Op :=
      { id := s.nextId, who := none, asid := recBits t.record 0 47 32, pos := 0, pc := 0, tag := none, time := 0, wait := none,
        denied := false, failed := false, ports := [], kind := .upload q t }
    (s.opNew op).upload op q t

/-- A GRAPH_DROP is accepted. -/
def State.startGraphDrop (s : State) (q : Nat) (t : Task) : State :=
  let h := recKernel t.record
  match SMap.get? s.graphs h with
  | none => s.commandDone q t 2 0
  | some g =>
    if g.state == .armed || g.state == .running || (g.state == .faulted && !g.reported) then s.commandDone q t 4 0
    else ({ s with graphs := SMap.erase s.graphs h } : State).commandDone q t 0 0

/-! ### Nodes that run on engines (R341) -/

/-- A COPY that no engine can carry out (R219). -/
def State.nodeRangeBad (s : State) (asid a len : Nat) : Bool :=
  decide (2 ^ 64 < a + len) || (len != 0 && (s.spaceBad noWho asid (fun _ => true) [(a, len)]).isSome)

/-- A COPY, TABLE, SIGNAL or BARRIER node is dispatched. A COPY whose operands would raise a trap in a context fails, since a node
has none (the model's choice, assumption 119). -/
def State.startNode (s : State) (t : Task) (h n : Nat) : State :=
  let r := t.record
  let s : State := { s with graphs := SMap.modify s.graphs h fun g =>
    { g with nodes := SMap.modify g.nodes n fun x => { x with status := 2, item := t.id } } }
  let asid := t.asid.getD 0
  let start := fun (kind : OpKind) => s.opNew
    { id := 0, who := some (graphWho h n), asid := asid, pos := 0, pc := 0, tag := none, time := s.floor, wait := none,
      denied := false, failed := false, ports := [], kind := kind }
  let kind := recType r
  if kind == 0x14 then s.nodeDone h n false
  else if kind == 0x11 then
    let len := recWord r 3
    if 2 ^ 40 ≤ len || s.nodeRangeBad asid (recWord r 1) len || s.nodeRangeBad asid (recWord r 2) len then s.nodeDone h n true
    else if len == 0 then s.nodeDone h n false
    else start (.cpy (recWord r 1) (recWord r 2) len false 0)
  else start (.node h n)

/-- What a node's work comes to: done or failed, sent to the host, or pages to wait for. -/
inductive NodeStep where
  | ends (s : State) (failed : Bool)
  | sent (s : State)
  | waits (pages : List (Nat × Nat)) (write : Bool)

/-- The first instance page of a table that stands in its way, as a failure or a wait. -/
def State.instancesOpen (s : State) (asid : Nat) : List Nat → Option (List (Nat × Nat))
  | [] => some []
  | va :: rest =>
    match s.page asid 0 va true false false with
    | .awaits => some [(va / 65536, va)]
    | .ok _ e _ _ => if pteW e && !pteEnc e && pteBank e && !pteKv e then s.instancesOpen asid rest else none
    | _ => none

/-- A TABLE node: TBLDEF with the checks of R295, or TREPL. It fails where they would raise a trap in a context (the model's choice,
assumption 119). -/
def State.tableNode (s : State) (asid : Nat) (r : Nat) : NodeStep :=
  let desc := recWord r 1
  if descBad desc then .ends s true
  else if recBits r 0 8 8 == 1 then
    let x := s.replicate asid desc
    .ends x.1 x.2
  else match s.spaceFetch asid desc 32 with
    | .waits ps => .waits ps false
    | .refused => .ends s true
    | .bad u => .ends ((s.seen asid desc 32).reportUpset u) true
    | .bytes x =>
      let s := s.seen asid desc 32
      match TableDesc.ofBytes (leBytes 32 x) with
      | none => .ends s true
      | some d =>
        match s.instancesOpen asid ((List.range (d.copies + 1)).map fun j => d.base + 65536 * j) with
        | none => .ends s true
        | some [] =>
          let x := s.defineTable asid desc d false
          .ends x.1 x.2
        | some ps => .waits ps false

/-- A SIGNAL node: an 8-byte store to device memory, or to the host window, which fails where it is dropped, fenced or refused. -/
def State.signalNode (s : State) (w : Who) (asid time : Nat) (r : Nat) : NodeStep :=
  let va := recWord r 1
  let bs := leBytes 8 (recWord r 2)
  if hostBase ≤ va && va + 8 ≤ hostBase + 2 ^ 48 then
    let s' := s.hostWriteBy (some w) (va - hostBase) bs []
    if (s.carrier va).isSome then .sent s' else .ends s' true
  else match s.spaceReach asid [(va, 8)] false true with
    | .trap .. => .ends s true
    | .wait ps => .waits ps true
    | .ok =>
      let (s, lt) := (s.mark noWho asid 0 [(va, 8)] true).accessTime none noWho asid 0 time [(va, 8)] true
      .ends (s.writeParts (s.partsOf noWho asid 0 va bs) lt) false

/-- GRAPH_NODE_COMPLETION: a COPY or SIGNAL whose work has ended completes; a TABLE or SIGNAL is carried out. -/
def execGraphNodeCompletion (g n : Nat) (s : State) : Out :=
  match (SMap.get? s.graphs g).bind fun x => (SMap.get? x.nodes n).map fun y => (x, y) with
  | none => .next s
  | some (x, y) =>
    if y.status == 5 then (s.nodeDone g n false).done
    else if y.status == 6 then (s.nodeDone g n true).done
    else match s.ops.find? fun o => o.kind == .node g n with
      | none => .next s
      | some o =>
        if o.wait.isSome || !s.powered then .next s
        else if o.denied then ((s.opDrop o.id).nodeDone g n true).done
        else
          let r := if recType y.record == 0x12 then s.tableNode x.asid y.record else s.signalNode (graphWho g n) x.asid o.time y.record
          match r with
          | .waits ps write => (s.opAwait o ps write).done
          | .sent s' => (s'.opDrop o.id).done
          | .ends s' failed => ((s'.opDrop o.id).nodeDone g n failed).done

/-! ### Dispatch (R333, R334, R348, R349) -/

/-- Dispatches a LOAD, UNLOAD, GRAPH or GRAPH_DROP record, or a node without a core. -/
def State.startCommand (s : State) (q : Nat) (t : Task) : Out :=
  let s := s.dispatched q t 2 0 (0, 0)
  match t.node with
  | some (h, n) => (s.startNode t h n).done
  | none =>
    match recType t.record with
    | 2 => (s.startLoad q t).done
    | 3 => (s.startUnload q t).done
    | 4 => s.startGraph q t
    | _ => (s.startGraphDrop q t).done

/-- The address space of a task that ends at its head (R334). -/
def State.endSpace (s : State) (t : Task) (status : Nat) : Option Nat :=
  match t.asid with
  | some a => some a
  | none => if status == 2 then none else (SMap.get? s.kernels (recKernel t.record)).map Kernel.asid

/-- Puts the node of a KERNEL item on record as running. -/
def State.nodeRuns (s : State) (t : Task) : State :=
  match t.node with
  | some (h, n) => { s with graphs := SMap.modify s.graphs h fun g =>
      { g with nodes := SMap.modify g.nodes n fun x => { x with status := 2, item := t.id } } }
  | none => s

/-- The command at the head of the chosen queue, of a TYPE. -/
def State.chosenCommand (s : State) (q type : Nat) : Option Task :=
  match s.chosen with
  | some (q', .command t) => if q' == q && t.node.isNone && recType t.record == type then some t else none
  | _ => none

def execLoad (q : Nat) (s : State) : Out :=
  match s.chosenCommand q 2 with
  | some t => s.startCommand q t
  | none => .next s

def execUnload (q : Nat) (s : State) : Out :=
  match s.chosenCommand q 3 with
  | some t => s.startCommand q t
  | none => .next s

/-- GRAPH: an upload that has waited goes on, or the GRAPH at the head of the chosen queue is accepted. -/
def execGraph (q : Nat) (s : State) : Out :=
  match s.uploading q with
  | some (o, t) => s.upload o q t
  | none =>
    match s.chosenCommand q 4 with
    | some t => s.startCommand q t
    | none => .next s

def execGraphDrop (q : Nat) (s : State) : Out :=
  match s.chosenCommand q 5 with
  | some t => s.startCommand q t
  | none => .next s

/-! ### KICK (R341, R342) -/

/-- A rejected KICK: KSTAT takes its CODE. -/
def State.kickFail (s : State) (code : Nat) : State :=
  { s with kstat := BitVec.ofNat 64 (bits s.kstat.toNat 7 0 + code * 2 ^ 8) }

/-- The patches of a table: node, byte offset and value. -/
def patchesOf (n x : Nat) : List (Nat × Nat × Nat) :=
  (elems 128 n (x / 2 ^ 128)).map fun e => (bits e 15 0, bits e 23 16, bits e 127 64)

/-- A patch table that is out of range. -/
def patchBad (count nodes x : Nat) : Bool :=
  bits x 127 64 != 0 || (elems 128 count (x / 2 ^ 128)).any fun e =>
    bits e 63 24 != 0 || decide (nodes ≤ bits e 15 0) || bits e 23 16 % 8 != 0 || decide (bits e 23 16 < 8) || decide (56 < bits e 23 16)

/-- The nodes after the patches, in table order. -/
def patched (nodes : SMap Node) (ps : List (Nat × Nat × Nat)) : SMap Node :=
  ps.foldl (fun m p => SMap.modify m p.1 fun n => { n with record := recSet n.record (p.2.1 / 8) p.2.2 }) nodes

/-- A graph ready to run from its roots: no node has run, and each awaits its predecessors. -/
def Graph.arm (g : Graph) (nodes : SMap Node) : Graph :=
  { g with
    state := .armed, failed := none, reported := false
    nodes := nodes.map fun e =>
      (e.1, { e.2 with status := 0, preds := (g.edges.filter fun d => d.2 == e.1).length, item := 0 }) }

/-- An accepted KICK: the graph is ARMED with its patches and its roots enter its queue. -/
def State.armGraph (s : State) (h : Nat) (g : Graph) (nodes : SMap Node) : State :=
  ({ s with graphs := SMap.set s.graphs h (g.arm nodes) } : State).enterNodes h

/-- A KICK of a graph with a patch table at an address. -/
def State.kickWith (s : State) (h : Nat) (g : Graph) (x : Nat) : State :=
  let n := bits x 63 0
  let nodes := patched g.nodes (patchesOf n x)
  if patchBad n g.nodes.length x then s.kickFail 2
  else if nodes.any fun e => nodeBad e.2.record then s.kickFail 3
  else s.armGraph h g nodes

/-- Goes on with a KICK of value v; `o` is its operation once it has had to wait. A patch table that cannot be read is rejected with
CODE 2, as one out of range (the model's choice, assumption 118). -/
def State.kickStep (s : State) (v : Nat) (o : Option Op) : State :=
  let h := bits v 7 0
  let va := bits v 55 8 * 256
  let s := match o with
    | some o => s.opDrop o.id
    | none => s
  match SMap.get? s.graphs h with
  | none => s.kickFail 4
  | some g =>
    let waits := fun (s : State) (ps : List (Nat × Nat)) =>
      let op : Op :=
        { id := s.nextId, who := none, asid := g.asid, pos := 0, pc := 0, tag := none, time := 0, wait := none, denied := false,
          failed := false, ports := [], kind := .kick v }
      (s.opNew op).opAwait op ps false
    if g.state == .armed || g.state == .running || (g.state == .faulted && !g.reported) then s.kickFail 1
    else if va == 0 then s.armGraph h g g.nodes
    else if o.any Op.denied then s.kickFail 2
    else match s.spaceFetch g.asid va 16 with
      | .waits ps => waits s ps
      | .refused => s.kickFail 2
      | .bad u => ((s.seen g.asid va 16).reportUpset u).kickFail 2
      | .bytes head =>
        let s := s.seen g.asid va 16
        let n := bits head 63 0
        if 1024 < n then s.kickFail 2
        else match s.spaceFetch g.asid va (16 + 16 * n) with
          | .waits ps => waits s ps
          | .refused => s.kickFail 2
          | .bad u => ((s.seen g.asid va (16 + 16 * n)).reportUpset u).kickFail 2
          | .bytes x => (s.seen g.asid va (16 + 16 * n)).kickWith h g x

/-- KICK: a write of the register; KSTAT names its graph from then on (Table 14-10). -/
def execKick (v : BitVec 64) (s : State) : Out :=
  let x := v.toNat % 2 ^ 56
  (({ s with
      kick := BitVec.ofNat 64 x
      kstat := BitVec.ofNat 64 (bits s.kstat.toNat 15 8 * 2 ^ 8 + bits x 7 0) } : State).kickStep x none).done

/-! ### UNMAP (R338, Table 14-11) -/

def State.unmapErr (s : State) : State := { s with unmap := s.unmap ||| 8 }

/-- The leaf level of a SIZE code. -/
def unmapLevel (size : Nat) : Nat := 4 - size

/-- The leaf that UNMAP names: its entry and address. -/
def State.unmapLeaf (s : State) (v : Nat) : Option (Nat × Nat × Nat) :=
  let va := bits v 47 8 * 65536
  let asid := bits v 63 48
  let size := bits v 1 0
  if 2 ^ 55 ≤ va || !spaceValid (s.space asid) then none
  else match s.walk asid va with
    | .leaf e level addr => if size < 3 && level == unmapLevel size then some (e, level, addr) else none
    | _ => none

/-- UNMAP: a write of the register starts the unmapping of a leaf. -/
def execUnmap (v : BitVec 64) (s : State) : Out :=
  if s.unmap.getLsbD 2 then s.unmapErr.done
  else
    let x := v.toNat
    let err := bits s.unmap.toNat 3 3 * (1 - bits x 3 3)
    let fields := bits x 63 8 * 2 ^ 8 + bits x 1 0
    let s := s.reportWalk (bits x 63 48) (bits x 47 8 * 65536)
    match s.unmapLeaf x with
    | none => ({ s with unmap := BitVec.ofNat 64 (fields + 8) } : State).done
    | some _ => ({ s with unmap := BitVec.ofNat 64 (fields + err * 8 + 4) } : State).done

/-- A page of n from p is FAULTING or COLLAPSING, states that an unmap waits out (Table 10-5). -/
def State.pagesBusy (s : State) (asid p n : Nat) : Bool :=
  (s.faulting.any fun f => f.asid == asid && decide (p ≤ f.page) && decide (f.page < p + n))
    || s.collapsing.any fun c => c.asid == asid && decide (c.page < p + n) && decide (p < c.page + c.count)

/-- UNMAP_DONE: the lines of the pages leave the chip, the leaf is written with V = 0 and KV = 0, and BUSY clears. -/
def execUnmapDone (s : State) : Out :=
  let v := s.unmap.toNat
  let asid := bits v 63 48
  if !s.unmap.getLsbD 2 then .next s
  else
    let free := fun (s : State) => ({ s with unmap := s.unmap &&& ~~~4 } : State)
    match s.unmapLeaf v with
    | none => (free s).unmapErr.done
    | some (e, level, addr) =>
      let (p, n) := leafPages level (bits v 47 8 * 65536)
      if s.pagesBusy asid p n then .next s
      else
        let s := ((s.evictFrames (pteFrame e) n).undefineTables asid p n).leaveBank asid p n
        (free { s with mem := Mem.write s.mem addr (leBytes 8 (e - Nat.land e 0x201)) }).done

end Sys2Proof.Machine
end

