-- ==== Sys2Proof/Machine/Preempt.lean ====
section
/-!
DEFINITION. Pre-emption of a launch, its resume, and the dispatch of tasks (R91, R333, R349, R351, R390 to R394).
-/
namespace Sys2Proof.Machine

/-! ### The save region (R391, R392) -/

/-- The bytes that a launch needs. -/
def Launch.saveSize (l : Launch) (hdr : Nat) : Nat :=
  l.instances * (81920 + 65536 * hdrTiles hdr)
    + 2 ^ l.lw * 2 ^ l.lh * (151552 * (if hdrTiles hdr == 0 then 0 else 1) + hdrScratch hdr)

/-- The first free run of n bytes in the save region. -/
def State.saveRun (s : State) (n : Nat) : Option Nat :=
  let base := bits s.saveb.toNat 51 16 * 65536
  let top := base + bits s.savel.toNat 35 0 * 65536
  let used := (s.launches.filter fun e => 0 < e.2.areaLen).map fun e => (e.2.area, e.2.areaLen)
  let free := fun (a : Nat) => decide (a + n ≤ top) && used.all fun u => !overlaps a n u.1 u.2
  ((base :: used.map fun u => u.1 + u.2).filter free).foldl (fun best a => match best with
    | some b => some (min a b)
    | none => some a) none

/-! ### The bytes of a save area (Tables 18-9 and 18-10) -/

/-- A field of n bytes in pieces of 256, from what `f` gives for a first byte and a length. -/
def fieldOf (off n : Nat) (f : Nat → Nat → List Byte) : List (Nat × List Byte) :=
  (List.range ((n + 255) / 256)).map fun j => (off + 256 * j, f (256 * j) (min 256 (n - 256 * j)))

/-- A field that holds an array of a core. -/
def arrayField (off n : Nat) (m : Mem) : List (Nat × List Byte) := fieldOf off n (Mem.range m)

/-- A field whose layout is not given: free values (assumption 28). -/
def freeField (ix off n : Nat) : List (Nat × List Byte) :=
  fieldOf off n fun a k => (List.range k).map fun j => Config.saveByte ix (off + a + j)

/-- The tiles of an OWN mask, lowest first. -/
def ownedTiles (own : Word) : List Nat := (List.range 12).filter fun j => own.getLsbD j

/-- The CSRs of Table 4-7 in address order, of hardware context n. -/
def Context.saveCsrs (c : Context) (n : Nat) : List Word :=
  [ BitVec.ofNat 64 c.pc, BitVec.ofNat 64 (cstatOf 6 c.reason c.arg n c.handler), c.readSlackr (c.pos - 1), c.nbv,
    c.readPbk (c.pos - 1),
    c.tagsCsr, c.terrCsr, BitVec.ofNat 64 c.ltime, c.town, c.core, c.inst, c.grpb, c.grps, c.argp, c.fltp, c.plst ]

/-- TAGS and TERR among the CSRs, and the outstanding counts of the tags. -/
def Context.saveTags (c : Context) : List (Nat × List Byte) :=
  [ (104, leBytes 8 c.tagsCsr.toNat ++ leBytes 8 c.terrCsr.toNat)
  , (192, (List.range 64).map fun g => BitVec.ofNat 8 (c.tag g).count) ]

/-- The value of a landing. -/
def Write.value : Write → Nat
  | .s _ x => x.toNat
  | .i _ x => x.toNat
  | .v _ x => x.toNat
  | .a _ x => x.toNat
  | .p _ x => x.toNat
  | .slackr x => x.toNat
  | .pbk x => x.toNat

/-- A list laid out from an offset in up to m entries of n bytes, each as `f` gives its pieces. -/
def entries {α : Type} (off n m : Nat) (xs : List α) (f : α → List (Nat × List Byte)) : List (Nat × List Byte) :=
  ((List.range m).zip xs).flatMap fun e => (f e.2).map fun g => (off + n * e.1 + g.1, g.2)

/-- The landing queue: what lands at the next position or later, each value behind its register and offset. -/
def Context.saveLandings (c : Context) : List (Nat × List Byte) :=
  entries 12800 272 96 (c.land.filter fun l => decide (c.pos ≤ l.pos)) fun l => [(16, leBytes 256 l.write.value)]

/-- A queue of a context: the data of filled entries, and their status words behind them where it holds some. -/
def Context.saveQueue (c : Context) (off data q : Nat) (status : Bool) : List (Nat × List Byte) :=
  entries off (if status then data + 8 else data) (queueDepth q) (c.queue q) fun e =>
    if e.filled then (0, leBytes data e.data.toNat) :: (if status then [(data, leBytes 8 e.status.toNat)] else []) else []

/-- The queues of Table 18-9. -/
def Context.saveQueues (c : Context) : List (Nat × List Byte) :=
  ((List.range 4).flatMap fun q => c.saveQueue (38912 + 4096 * q) 128 (loadQ q) false)
  ++ ((List.range 4).flatMap fun q => c.saveQueue (55296 + 4096 * q) 128 (storeQ q) false)
  ++ c.saveQueue 71680 128 tableQ true ++ c.saveQueue 73856 64 playQ true ++ c.saveQueue 75008 128 selectQ true

/-- The wake tokens of a context (Table 17-6). -/
def Context.saveTokens (c : Context) (image : Core) : List (Nat × List Byte) :=
  entries 76224 8 16 (image.tokens.filter fun x => x.owner == c.who) fun x => [(0, leBytes 8 x.word.toNat)]

/-- What completions can change in the block of a SAVED context (R393). -/
def Context.saveChanges (c : Context) (image : Core) : List (Nat × List Byte) :=
  c.saveTags ++ c.saveQueues ++ c.saveTokens image

/-- A context block: offsets and bytes. Later pieces lie over the free bytes of the fields to which they belong. -/
def Context.saveBlock (c : Context) (n : Nat) (image : Core) (hdr ix : Nat) : List (Nat × List Byte) :=
  let m := c.pos - 1
  freeField ix 0 64 ++ freeField ix 12800 63552
  ++ [ (64, (c.saveCsrs n).flatMap fun x => leBytes 8 x.toNat)
  , (256, (List.range 64).flatMap fun j => leBytes 8 (c.readS m j).toNat)
  , (768, (List.range 16).flatMap fun j => leBytes 4 (c.readI m j).toNat)
  , (832, (List.range 8).flatMap fun j => leBytes 16 (c.readP m j).toNat)
  , (960, List.replicate 64 0)
  , (1024, (List.range 60).flatMap fun j => leBytes 128 (c.readV m j).toNat)
  , (8704, (List.range 16).flatMap fun j => leBytes 256 (c.readA m j).toNat)
  , (76352, List.replicate 5568 0) ]
  ++ c.saveLandings ++ c.saveChanges image
  ++ ((List.range (hdrTiles hdr)).zip (ownedTiles c.grants)).flatMap fun e =>
    arrayField (81920 + 65536 * e.1) 65536 (SMap.getD image.tiles e.2 [])

/-- The scratchpad in a core block. -/
def Core.saveScratch (k : Core) (hdr : Nat) : List (Nat × List Byte) :=
  arrayField (if hdrTiles hdr == 0 then 0 else 151552) (hdrScratch hdr) k.scratch

/-- A core block: offsets and bytes. -/
def Core.saveBlock (k : Core) (hdr ix : Nat) : List (Nat × List Byte) :=
  (if hdrTiles hdr == 0 then []
   else arrayField 0 65536 k.active.data ++ arrayField 65536 65536 k.shadow.data ++ arrayField 131072 16384 k.scale
    ++ freeField ix 147456 256 ++ fieldOf 147712 3840 fun _ n => List.replicate n 0)
  ++ k.saveScratch hdr

/-- The bytes of a context block and of a core block. -/
def contextSize (hdr : Nat) : Nat := 81920 + 65536 * hdrTiles hdr
def coreSize (hdr : Nat) : Nat := 151552 * (if hdrTiles hdr == 0 then 0 else 1) + hdrScratch hdr

/-- A block at an address. -/
def atAddress (a : Nat) (ps : List (Nat × List Byte)) : List (Nat × List Byte) := ps.map fun e => (a + e.1, e.2)

/-- Writes the pieces of a save area to physical memory; Table 12-2 does not count it. -/
def State.writeArea (s : State) (ps : List (Nat × List Byte)) : State :=
  let hit := fun (a n : Nat) => ps.any fun e => overlaps a n e.1 e.2.length
  { s with
    mem := ps.foldl (fun m e => Mem.write m e.1 e.2) s.mem
    upsets := s.upsets.filter fun u => !(u.place == .phys && hit u.addr 1) }

/-- The save area of a launch as `saved` and `cores` have it; `ticket` gives the hardware context of an instance. The block of
an instance that has ended has free contents. -/
def Launch.areaBytes (l : Launch) (hdr ix : Nat) (ticket : Nat → Nat) : List (Nat × List Byte) :=
  ((List.range l.instances).flatMap fun i => atAddress (l.area + i * contextSize hdr)
    (match SMap.get? l.saved i with
    | some c => c.saveBlock (ticket i) (SMap.getD l.savedCores (i / l.c) Core.zero) hdr (ix + i)
    | none => freeField (ix + i) 0 (contextSize hdr)))
  ++ (List.range (2 ^ l.lw * 2 ^ l.lh)).flatMap fun r => atAddress (l.area + l.instances * contextSize hdr + r * coreSize hdr)
    ((SMap.getD l.savedCores r Core.zero).saveBlock hdr (ix + l.instances + r))

/-- What completions and writes change in the area meanwhile (R393): tags, queue entries, tokens and scratchpads. -/
def Launch.areaChanges (l : Launch) (hdr : Nat) : List (Nat × List Byte) :=
  ((List.range l.instances).flatMap fun i => atAddress (l.area + i * contextSize hdr)
    (match SMap.get? l.saved i with
    | some c => c.saveChanges (SMap.getD l.savedCores (i / l.c) Core.zero)
    | none => []))
  ++ (List.range (2 ^ l.lw * 2 ^ l.lh)).flatMap fun r => atAddress (l.area + l.instances * contextSize hdr + r * coreSize hdr)
    (match SMap.get? l.savedCores r with
    | some k => k.saveScratch hdr
    | none => [])

/-! ### Saving (R91, R390, R393) -/

/-- A context stops at its oldest uncommitted bundle, with its matrix work drained. -/
def State.stopContext (s : State) (t : Nat) : State :=
  let c := s.ctx t
  let s := s.drainMtx c.who
  let s := match c.inflight with
    | b :: _ => s.discard t b.pos b.pc
    | [] => s.discard t c.pos c.pc
  if c.state == .running then s.modCore (coreOf t) fun k => { k with last := t % 4 } else s

/-- The contexts of a launch, by ticket. -/
def State.launchTickets (s : State) (id : Nat) : List Nat :=
  (s.ctxs.filter fun e => e.2.who.launch == id && e.2.state != .empty).map (·.1)

/-- What a core holds for a launch. -/
def State.coreImage (s : State) (id hdr k : Nat) : Core :=
  let x := s.core k
  let mine := (s.launchTickets id).filter fun t => coreOf t == k
  let owned := fun (j : Nat) => mine.any fun t => (s.ctx t).grants.getLsbD j
  { x with
    tiles := x.tiles.filter fun e => owned e.1
    active := if heavy hdr then x.active else Plane.zero
    shadow := if heavy hdr then x.shadow else Plane.zero
    scale := if heavy hdr then x.scale else []
    scratch := if heavy hdr then x.scratch else []
    comps := x.comps.filter fun e => e.2.owner.launch == id
    tokens := x.tokens.filter fun y => y.owner.launch == id
    log := []
    last := 3
    badMtx := x.badMtx.filter fun j => owned j || (heavy hdr && 16 ≤ j) }

/-- Takes every context of a launch to SAVED, with what it holds in the save area. -/
def State.saveLaunch (s : State) (id : Nat) (l : Launch) (hdr area : Nat) : State :=
  let s := (s.launchTickets id).foldl (fun s t => s.stopContext t) s
  let ts := s.launchTickets id
  let saved := ts.foldl (fun (m : SMap Context) t =>
    let c := s.ctx t
    SMap.set m c.who.inst { c with state := .saved }) []
  let cores := rectangle l.lw l.lh (l.x0, l.y0)
  let images := (List.range cores.length).zip (cores.map (s.coreImage id hdr))
  let l : Launch := { l with
    preempted := true, saved := saved, savedCores := images, area := area, areaLen := l.saveSize hdr }
  let ticket := fun i => ((ts.find? fun t => (s.ctx t).who.inst == i).getD 0) % 4
  let s := s.writeArea (l.areaBytes hdr s.freeIx ticket)
  let s : State := { s with
    freeIx := s.freeIx + (l.instances + 2 ^ l.lw * 2 ^ l.lh)
    launches := SMap.set s.launches id l
    upsets := s.upsets.map fun u => match u.place with
      | .scratch k => match l.relOf k with
        | some rel => if heavy hdr then { u with place := .saved id rel } else u
        | none => u
      | _ => u }
  let s := ts.foldl (fun s t => s.setCtx t Context.empty) s
  cores.foldl (fun s k => s.modCore k fun x => { x with
    comps := x.comps.filter fun e => e.2.owner.launch != id
    tokens := x.tokens.filter fun y => y.owner.launch != id }) s

/-- The launch returns to the front of its own queue's run list. -/
def State.requeue (s : State) (id : Nat) (l : Launch) : State :=
  s.modQueue l.queue fun x => { x with run := { l.task with resume := some id } :: x.run }

/-- The head of a queue that may pre-empt, and its first candidate: it is at EPRIO 7 and fails for lack of cores alone, not for
want of a link to write its fixture record. -/
def State.preempting (s : State) (q : Nat) : Option (Task × (Nat × Nat)) :=
  let x := s.queue q
  if !x.pre || x.eprio != 7 || (s.ready q).isSome then none
  else match s.headNeed q with
    | .cores t _ _ (p :: _) =>
      if x.fix == 1 && t.resume.isNone && x.fixnext != x.fixcap && (s.fixtureAt x x.fixnext).isNone then none else some (t, p)
    | _ => none

/-- The claims of a state after a step: those of tasks that are still to be placed, and behind them one for each head that may
pre-empt and has none, whether or not its first candidate holds a launch to pre-empt (R351). -/
def State.claimCores (s : State) : State :=
  let kept := s.claims.filter fun c => (s.queue c.queue).run.any fun t => t.id == c.item
  let new := s.queues.filterMap fun e => (s.preempting e.1).bind fun x =>
    if kept.any fun c => c.item == x.1.id then none
    else some (Claim.mk e.1 x.1.id (rectangle (recLw x.1.record) (recLh x.1.record) x.2))
  { s with claims := kept ++ new }

/-- PRE_EMPTION: queue q takes the cores of its head's first candidate from launch l. -/
def execPreEmption (q l : Nat) (s : State) : Out :=
  match s.preempting q, SMap.get? s.launches l with
  | some (t, p), some x =>
    let cores := rectangle (recLw t.record) (recLh t.record) p
    let ts := s.launchTickets l
    let occupies := ts.any fun t => cores.contains (coreOf t)
    let faulted := ts.any fun t => (s.ctx t).state == .faulted
    let hdr := ((s.kernelOf x).map Kernel.hdr).getD 0
    if x.preempted || !occupies || faulted || (s.queue q).prio ≤ (s.queue x.queue).prio then .next s
    else match s.saveRun (x.saveSize hdr) with
      | none => .next s
      | some area =>
        ((s.saveLaunch l x hdr area).requeue l x).done
  | _, _ => .next s

/-! ### Resuming (R394) -/

/-- Tiles under new numbers: the j-th of the old is the j-th of the new. -/
def renumbered (old new : List Nat) (tiles : SMap Mem) : List (Nat × Mem) :=
  (old.zip new).map fun e => (e.2, SMap.getD tiles e.1 [])

/-- One saved context goes to a context of a core; TOWN reads as before (R394, assumption 104). -/
def State.restoreContext (s : State) (c : Context) (image : Core) (n k t : Nat) : State :=
  let tiles := s.grant k n
  let s := s.modCore k fun x => { x with
    tiles := (renumbered (ownedTiles c.grants) tiles image.tiles).foldl (fun m e => SMap.set m e.1 e.2) x.tiles
    badMtx := x.badMtx.filter (fun j => !tiles.contains j) ++
      (((ownedTiles c.grants).zip tiles).filter fun e => image.badMtx.contains e.1).map (·.2) }
  s.setCtx t { c with
    state := .ready, reason := 0, arg := 0, block := if c.block == some .drain then c.block else none
    grants := ownMask tiles, core := coreCsr k }

/-- One saved core goes to a core. -/
def State.restoreCore (s : State) (id rel : Nat) (image : Core) (hdr k : Nat) : State :=
  let s := s.modCore k fun x => { x with
    active := if heavy hdr then image.active else x.active
    shadow := if heavy hdr then image.shadow else x.shadow
    scale := if heavy hdr then image.scale else x.scale
    scratch := if heavy hdr then image.scratch else x.scratch
    comps := image.comps.foldl (fun m e => SMap.set m e.1 e.2) x.comps
    tokens := x.tokens ++ image.tokens
    badMtx := if heavy hdr then x.badMtx.filter (· < 16) ++ image.badMtx.filter (16 ≤ ·) else x.badMtx }
  { s with upsets := s.upsets.map fun u => if u.place == .saved id rel then { u with place := .scratch k } else u }

/-- What has changed for SAVED launches since a state is written into their areas (R393). -/
def State.saveChanges (s before : State) : State :=
  s.launches.foldl (fun s e =>
    match SMap.get? before.launches e.1 with
    | some old =>
      if e.2.preempted && old.preempted && (e.2.saved != old.saved || e.2.savedCores != old.savedCores) then
        s.writeArea (e.2.areaChanges (((s.kernelOf e.2).map Kernel.hdr).getD 0))
      else s
    | none => s) s

/-- Puts a pre-empted launch back at a position. -/
def State.resumeLaunch (s : State) (id : Nat) (l : Launch) (hdr : Nat) (p : Nat × Nat) : State :=
  let cores := rectangle l.lw l.lh p
  let s := ((List.range cores.length).zip cores).foldl (fun s e =>
    let image := SMap.getD l.savedCores e.1 Core.zero
    let free := s.emptyContexts e.2
    let s := s.restoreCore id e.1 image hdr e.2
    ((List.range l.c).zip free).foldl (fun s x =>
      match SMap.get? l.saved (e.1 * l.c + x.1) with
      | some c => s.restoreContext c image (hdrTiles hdr) e.2 x.2
      | none => s) s) s
  { s with launches := SMap.modify s.launches id fun x =>
    { x with preempted := false, saved := [], savedCores := [], area := 0, areaLen := 0, x0 := p.1, y0 := p.2 } }

/-! ### TASK_DISPATCH and LAUNCH_RESUME -/

/-- Dispatches a task that has a position. -/
def State.startTask (s : State) (q : Nat) (t : Task) (c hdr : Nat) (p : Nat × Nat) : State :=
  let s := ((s.dispatched q t 0 c p).moveCursor q t p).nodeRuns t
  match t.resume with
  | none => s.placeTask q t c p
  | some id =>
    match SMap.get? s.launches id with
    | some l => s.resumeLaunch id l hdr p
    | none => s

/-- TASK_DISPATCH: the scheduler dispatches the head of the queue it chooses. -/
def execTaskDispatch (s : State) : Out :=
  match s.chosen with
  | none => .next s
  | some (q, .error reason) =>
    let s := match (s.fixtureUpset (s.queue q)).filter fun _ => reason == 9 with
      | some u => s.reportUpset u
      | none => s
    ((s.queueError q reason).drainCheck q).done
  | some (q, .command t) => s.startCommand q t
  | some (q, .ends t status) =>
    let asid := s.endSpace t status
    (((s.dispatched q t 1 0 (0, 0)).nodeRuns t).taskDone q t asid (s.queue q).handler status s.floor []).done
  | some (q, .place t c hdr p) => (s.startTask q t c hdr p).done

/-- LAUNCH_RESUME: the chosen head is a pre-empted launch with a position. -/
def execLaunchResume (l : Nat) (s : State) : Out :=
  match s.chosen with
  | some (q, .place t c hdr p) => if t.resume == some l then (s.startTask q t c hdr p).done else .next s
  | _ => .next s

end Sys2Proof.Machine
end

