-- ==== Sys2Proof/Machine/Issue.lean ====
section
/-!
DEFINITION. What a slot word reads, writes, pops and pushes, and when its results land (Table 4-5, R54, R82, R142, R205):
the facts about a word that dispatch needs.
-/
namespace Sys2Proof.Machine

/-- The registers that a word reads, by code (s 0, i 64, v 128, a 192, p 208 and up); those it writes with their latency,
SLACKR as 300, PBK as 301 and a store-data queue as 400 and up with latency 0; the queue of each pop with its operand; and
the queue of each push with its part. -/
structure Uses where
  reads : List Nat
  dests : List (Nat × Nat)
  pops : List (Nat × Nat)
  pushes : List (Nat × Nat)
  deriving DecidableEq, Repr

def Uses.none : Uses := { reads := [], dests := [], pops := [], pushes := [] }

def Uses.all : List Uses → Uses
  | [] => Uses.none
  | u :: us =>
    let r := Uses.all us
    { reads := u.reads ++ r.reads, dests := u.dests ++ r.dests, pops := u.pops ++ r.pops, pushes := u.pushes ++ r.pushes }

/-- s0 and p0 are constants: reading them consumes nothing, and writing them is no destination (R59). -/
def readS (r : BitVec 6) : Uses := if r == 0 then Uses.none else { Uses.none with reads := [r.toNat] }
def readI (n : Nat) : Uses := { Uses.none with reads := [64 + n] }
def readA (n : Nat) : Uses := { Uses.none with reads := [192 + n] }
def readP (n : Nat) : Uses := if n == 0 then Uses.none else { Uses.none with reads := [208 + n] }

/-- Vector source operand k: a register, or a pop of a load queue (R54, R142). -/
def readV (k : Nat) (r : BitVec 6) : Uses :=
  if r.toNat < 60 then { Uses.none with reads := [128 + r.toNat] } else { Uses.none with pops := [(loadQ (r.toNat - 60), k)] }

def putS (lat : Nat) (r : BitVec 6) : Uses := if r == 0 then Uses.none else { Uses.none with dests := [(r.toNat, lat)] }
def putI (lat : Nat) (r : BitVec 6) : Uses := { Uses.none with dests := [(64 + r.toNat, lat)] }
def putA (lat : Nat) (r : BitVec 6) : Uses := { Uses.none with dests := [(192 + r.toNat, lat)] }
def putP (lat n : Nat) : Uses := if n == 0 then Uses.none else { Uses.none with dests := [(208 + n, lat)] }

/-- SLACKR and PBK as destinations. -/
def slackrCode : Nat := 300
def pbkCode : Nat := 301
def putCsr (code : Nat) : Uses := { Uses.none with dests := [(code, 1)] }

/-- A vector destination: a register, or a push of a store-data queue. -/
def putV (lat : Nat) (r : BitVec 6) : Uses :=
  if r.toNat < 60 then { Uses.none with dests := [(128 + r.toNat, lat)] }
  else { Uses.none with dests := [(400 + r.toNat, 0)], pushes := [(storeQ (r.toNat - 60), 0)] }

/-- A vector destination that keeps bits of its old value where `keeps` (R139, R141). -/
def mergeV (lat : Nat) (r : BitVec 6) (keeps : Bool) : Uses :=
  Uses.all [putV lat r, if keeps && decide (r.toNat < 60) then { Uses.none with reads := [128 + r.toNat] } else Uses.none]

def popOf (q k : Nat) : Uses := { Uses.none with pops := [(q, k)] }
def pushOf (q n : Nat) : Uses := { Uses.none with pushes := (List.range n).map fun k => (q, k) }

/-- Whether a destination of a window and a predicate keeps old bits: a window below 1,024 bits, or an inactive element. -/
def keeps (w : BitVec 2) (p : BitVec 3) : Bool := decide (w.toNat < 2) || p != 0

/-- An element-wise word of two sources, and of one. -/
def uses2 (lat : Nat) (d a b : BitVec 6) (p : BitVec 3) (w : BitVec 2) : Uses :=
  Uses.all [readV 0 a, readV 1 b, readP p.toNat, mergeV lat d (keeps w p)]
def uses1 (lat : Nat) (d a : BitVec 6) (p : BitVec 3) (w : BitVec 2) : Uses :=
  Uses.all [readV 0 a, readP p.toNat, mergeV lat d (keeps w p)]

/-- The uses of a word; `load` is the latency of a loaded register, which its address decides (Table 4-5). -/
def Instr.uses (load : Nat) : Instr → Uses
  | .add d a b | .sub d a b | .and d a b | .or d a b | .xor d a b | .andn d a b | .sll d a b | .srl d a b | .sra d a b
  | .rotl d a b | .seq d a b | .min d a b _ | .max d a b _ | .slt d a b _ => Uses.all [readS a, readS b, putS 1 d]
  | .mul d a b _ | .mulh d a b _ => Uses.all [readS a, readS b, putS 3 d]
  | .div d a b _ | .rem d a b _ => Uses.all [readS a, readS b, putS 12 d]
  | .sel d a b p => Uses.all [readS a, readS b, readP p.toNat, putS 1 d]
  | .clz d a | .ctz d a | .popc d a | .addi d a _ | .andi d a _ | .ori d a _ | .xori d a _ | .slti d a _ | .shi d a _ _
  | .lea d a _ | .jr d a => Uses.all [readS a, putS 1 d]
  | .li d _ | .jal d _ => putS 1 d
  | .liq d _ _ => Uses.all [readS d, putS 1 d]
  | .fadd d a b _ | .fsub d a b _ | .fmul d a b _ | .fmin d a b | .fmax d a b | .fcmp d a b _ =>
    Uses.all [readS a, readS b, putS 4 d]
  | .fma d a b _ => Uses.all [readS a, readS b, readS d, putS 4 d]
  | .fcvt d a _ _ => Uses.all [readS a, putS 4 d]
  | .bc _ a b _ => Uses.all [readS a, readS b]
  | .dbnz a _ => Uses.all [readS a, putS 1 a]
  | .slack _ => putCsr slackrCode
  | .csrr d _ => putS 2 d
  | .csrw a c => Uses.all [readS a, if c == 2 then putCsr slackrCode else Uses.none]
  | .jmp _ | .fence _ | .trap _ | .done | .brk _ => Uses.none
  | .ld d a _ _ => Uses.all [readS a, putS load d]
  | .ldx d a b _ _ => Uses.all [readS a, readS b, putS load d]
  | .ldv d a _ => Uses.all [readS a, putV load d]
  | .st d a _ _ => Uses.all [readS d, readS a]
  | .stx d a b _ _ => Uses.all [readS d, readS a, readS b]
  | .stv d a _ => Uses.all [readV 0 d, readS a]
  | .qld q a b _ p _ => Uses.all [readS a, readI b.toNat, readP p.toNat, pushOf (loadQ q.toNat) 1]
  | .qgth q a b _ p _ => Uses.all [readS a, readV 1 b, readP p.toNat, pushOf (loadQ q.toNat) 1]
  | .qst q a b _ p _ => Uses.all [popOf (storeQ q.toNat) 0, readS a, readI b.toNat, readP p.toNat]
  | .qsct q a b _ p _ => Uses.all [popOf (storeQ q.toNat) 0, readS a, readV 1 b, readP p.toNat]
  | .amo d a b _ _ _ => Uses.all [readS a, readS b, putS 6 d]
  | .cas d a b _ _ => Uses.all [readS d, readS a, readS b, putS 6 d]
  | .red a b _ _ => Uses.all [readS a, readS b]
  | .pref _ a _ _ => readS a
  | .iadd d a b | .isub d a b | .iand d a b | .ior d a b | .imin d a b _ | .imax d a b _ =>
    Uses.all [readI a.toNat, readI b.toNat, putI 1 d]
  | .iaddi d a _ | .ishi d a _ _ => Uses.all [readI a.toNat, putI 1 d]
  | .imov d a _ y => if y == 0 then Uses.all [readS a, putI 1 d] else Uses.all [readI a.toNat, putS 1 d]
  | .icad d a b p => Uses.all [readI d.toNat, readI a.toNat, readI b.toNat, putI 1 d, putP 1 p.toNat]
  | .ipopc d a k => Uses.all [if k == 0 then readI a.toNat else readP a.toNat, putI 1 d]
  | .isurv d a b => Uses.all [readV 0 a, readI b.toNat, putI 2 d]
  | .ihash d a b => Uses.all [readI a.toNat, readI b.toNat, putI 2 d]
  | .icmp d a b _ _ => Uses.all [readI a.toNat, readI b.toNat, putP 1 d.toNat]
  | .plog d a b o =>
    Uses.all [if o.toNat == 5 then readI a.toNat else readP a.toNat, if o.toNat ≤ 3 then readP b.toNat else Uses.none,
      putP 1 d.toNat]
  | .vadd d a b p w _ | .vsub d a b p w _ | .vadds d a b p w _ | .vaddsn d a b p w _ | .vsubs d a b p w _
  | .vsubsn d a b p w _ | .vmul d a b p w _ | .vmulh d a b p w _ | .vmin d a b p w _ | .vmax d a b p w _
  | .vminn d a b p w _ | .vmaxn d a b p w _ | .vand d a b p w _ | .vor d a b p w _ | .vxor d a b p w _
  | .vshl d a b p w _ | .vshr d a b p w _ | .vsra d a b p w _ | .vbcmp d a b p w _ | .vbfind d a b p w _ => uses2 2 d a b p w
  | .vfadd d a b p w _ | .vfsub d a b p w _ | .vfmul d a b p w _ | .vfmin d a b p w _ | .vfmax d a b p w _ =>
    uses2 4 d a b p w
  | .vhash d a b p w _ | .vperm d a b p w _ => uses2 3 d a b p w
  | .vfma d a b p _ _ => Uses.all [readV 0 a, readV 1 b, readP p.toNat, mergeV 4 d true]
  | .vshi d a _ _ w _ => uses1 2 d a 0 w
  | .vcmp _ d a b p _ _ => Uses.all [readV 0 a, readV 1 b, readP p.toNat, readP d.toNat, putP 2 d.toNat]
  | .vfcmp _ d a b p _ _ => Uses.all [readV 0 a, readV 1 b, readP p.toNat, readP d.toNat, putP 4 d.toNat]
  | .vsel d a b p w _ => Uses.all [readV 0 a, readV 1 b, readP p.toNat, mergeV 2 d (keeps w 0)]
  | .vcvt d a _ _ _ _ _ w _ => uses1 4 d a 0 w
  | .vmac d a b p _ _ | .vfmac d a b p _ _ => Uses.all [readV 0 a, readV 1 b, readP p.toNat, readA d.toNat, putA 4 d]
  | .vnarrow d a _ _ p w _ => Uses.all [readA a.toNat, readP p.toNat, mergeV 3 d (keeps w p)]
  | .vaclr d => putA 4 d
  | .vshuf d a b k w _ => Uses.all [readV 0 a, if k.toNat == 4 then Uses.none else readV 1 b, mergeV 3 d (keeps w 0)]
  | .vbcast d a z p w _ => Uses.all [readS a, readP p.toNat, mergeV 2 d (keeps w (if z == 1 then 0 else p))]
  | .vslide d a _ p w _ => uses1 3 d a p w
  | .vins d a b p _ _ => Uses.all [readS a, readI b.toNat, readP p.toNat, mergeV 2 d true]
  | .vext d a b _ _ => Uses.all [readV 0 a, readI b.toNat, putS 2 d]
  | .vred d a _ _ p w _ => Uses.all [readV 0 a, readP p.toNat, mergeV 5 d (keeps w 0)]
  | .vscan d a _ _ _ p w _ => Uses.all [readV 0 a, readP p.toNat, mergeV 6 d (keeps w 0)]
  | .vpack4 d a b w _ | .vpair4 d a b _ w _ => uses2 3 d a b 0 w
  | .vunpk4 d a _ w _ => uses1 3 d a 0 w
  | .vsgnpk d a _ _ _ => Uses.all [readV 0 a, mergeV 3 d true]
  | .vpopc d a z p w _ | .vclz d a z p w _ =>
    Uses.all [readV 0 a, readP p.toNat, mergeV 2 d (keeps w (if z == 1 then 0 else p))]
  | .sexp2 d a p w _ | .slog2 d a p w _ | .srcp d a p w _ | .srsq d a p w _ => uses1 8 d a p w
  | .ssqrt d a p w _ => uses1 12 d a p w
  | .sdiv d a b p w _ => uses2 12 d a b p w
  | .rng128 d a b p w _ => uses2 6 d a b p w
  | .scrc d a b p w _ => uses2 4 d a b p w
  | .tld _ _ a b _ | .tst _ _ a b _ => Uses.all [readS a, readS b]
  | .tgetr _ v i => Uses.all [readI i.toNat, putV 4 v]
  | .tsetr _ v i => Uses.all [readV 0 v, readI i.toNat]
  | .mlds _ r _ _ _ | .mma _ _ r _ _ _ _ _ | .sld r _ _ | .tcvt _ _ r _ _ _ _ => readS r
  | .tzero _ | .mswap | .tadd _ _ _ => Uses.none
  | .cpy _ a b c => Uses.all [readS a, readS b, readS c]
  | .twany a | .twall a | .tclr a | .tbldef _ a | .tbldefDrop _ a | .trepl _ a | .rset _ a | .rsetDrop _ a | .pattr _ a _
  | .binit _ a _ | .bwait a _ _ => readS a
  | .tffr d a _ | .wwait d a => Uses.all [readS a, putS 2 d]
  | .tq _ a b e _ => Uses.all [readS a, readV 1 b, pushOf tableQ (if e == 1 then 2 else 1)]
  | .tqp d a => Uses.all [popOf tableQ 0, putV 2 d, putS 2 a]
  | .play _ a b => Uses.all [readS a, readV 1 b, pushOf playQ 1]
  | .playp d a => Uses.all [popOf playQ 0, putV 2 d, putS 2 a]
  | .pbset _ a => Uses.all [readS a, putCsr pbkCode]
  | .rins _ a b => Uses.all [readS a, readV 1 b]
  | .rdel _ a b | .rage _ a b | .pfree _ a b | .pseal _ a b | .wwatch _ a b | .tspawn _ a b _ | .coll _ a b _ _ _ _ =>
    Uses.all [readS a, readS b]
  | .rsel n a b _ _ => Uses.all [readS a, readV 1 b, pushOf selectQ (n.toNat + 1)]
  | .rselInfo a => Uses.all [readS a, pushOf selectQ 1]
  | .rselp d a => Uses.all [popOf selectQ 0, putV 2 d, putS 2 a]
  | .palloc d a b => Uses.all [readS a, readS b, putS 2 d]
  | .binitFree _ _ => Uses.none
  | .barr d _ _ => putS 2 d
  | _ => Uses.none

/-- Words whose result is computed when their bundle commits or later (R211, R212, R260, R373). -/
def Instr.atCommit : Instr → Bool
  | .amo .. => true
  | .cas .. => true
  | .palloc .. => true
  | .barr .. => true
  | _ => false

/-- The register loads whose latency the address decides. -/
def Instr.isLoad : Instr → Bool
  | .ld .. => true
  | .ldx .. => true
  | .ldv .. => true
  | _ => false

/-- The words that FENCE.sys and the atomics of one context order, and that touch memory or engines: they start in the oldest
uncommitted bundle only, so that the context's accesses take their order points in bundle order (R234). -/
def Instr.inOrder (i : Instr) : Bool :=
  match i.space? with
  | some .adr => true
  | some .mtx => true
  | some .eng => true
  | _ => false

/-- The commands that take a tag (R214). -/
def Instr.isTagged : Instr → Bool
  | .play .. => false
  | .rsel .. => false
  | .rselInfo .. => false
  | i => Instr.isEngineCommand i

/-- What R215 holds a tag test behind: a tagged command or a clear. -/
def Instr.marksTags : Instr → Bool
  | .tclr _ => true
  | .tffr _ _ c => c == 1
  | i => Instr.isTagged i

/-- The control transfers of R61. -/
def Instr.isTransfer : Instr → Bool
  | .bc .. => true
  | .jmp .. => true
  | .jal .. => true
  | .jr .. => true
  | .dbnz .. => true
  | .trap .. => true
  | .done => true
  | .brk .. => true
  | _ => false

/-- The words after which no bundle of the context dispatches before they have taken effect at their commit. -/
def Instr.isEnd : Instr → Bool
  | .trap .. => true
  | .done => true
  | _ => false

/-- The latency of a load word of the bundle at a position of a context. -/
def State.loadLat (s : State) (t pos : Nat) (i : Instr) : Nat :=
  if Instr.isLoad i then
    let s : State := { s with focus := { ticket := t, pos := pos, slot := 1 } }
    loadLatency ((((s.loadSegs i).head?).map (·.1)).getD 0)
  else 6

end Sys2Proof.Machine
end

