-- ==== Sys2Proof/Machine/Scalar.lean ====
section
/-!
DEFINITION. The SCL slot: integer and FP32 scalar work, control transfers, CSRs, fences, traps and the end of an instance
(R101 to R127).
-/
namespace Sys2Proof.Machine

/-! ### Integer operations (R101 to R107) -/

def execAdd (d a b : BitVec 6) (s : State) : Out := (s.setS 1 d (s.rs a + s.rs b)).ok
def execSub (d a b : BitVec 6) (s : State) : Out := (s.setS 1 d (s.rs a - s.rs b)).ok
def execAnd (d a b : BitVec 6) (s : State) : Out := (s.setS 1 d (s.rs a &&& s.rs b)).ok
def execOr (d a b : BitVec 6) (s : State) : Out := (s.setS 1 d (s.rs a ||| s.rs b)).ok
def execXor (d a b : BitVec 6) (s : State) : Out := (s.setS 1 d (s.rs a ^^^ s.rs b)).ok
def execAndn (d a b : BitVec 6) (s : State) : Out := (s.setS 1 d (s.rs a &&& ~~~ s.rs b)).ok

/-- The shift amount: bits [5:0] of sB (R102). -/
def shiftAmount (x : Word) : Nat := x.toNat % 64

def execSll (d a b : BitVec 6) (s : State) : Out := (s.setS 1 d (shiftKind 0 (s.rs a) (shiftAmount (s.rs b)))).ok
def execSrl (d a b : BitVec 6) (s : State) : Out := (s.setS 1 d (shiftKind 1 (s.rs a) (shiftAmount (s.rs b)))).ok
def execSra (d a b : BitVec 6) (s : State) : Out := (s.setS 1 d (shiftKind 2 (s.rs a) (shiftAmount (s.rs b)))).ok
def execRotl (d a b : BitVec 6) (s : State) : Out := (s.setS 1 d (shiftKind 3 (s.rs a) (shiftAmount (s.rs b)))).ok

/-- The exact product under the reading that F[0] selects (R103). -/
def product (u : BitVec 1) (x y : Word) : Int := reading u x * reading u y

def execMul (d a b : BitVec 6) (u : BitVec 1) (s : State) : Out := (s.setS 3 d (ofI 64 (product u (s.rs a) (s.rs b)))).ok
def execMulh (d a b : BitVec 6) (u : BitVec 1) (s : State) : Out :=
  (s.setS 3 d (ofI 64 (product u (s.rs a) (s.rs b) / 2 ^ 64))).ok

/-- Quotient toward zero, −1 for a zero divisor (R104). -/
def quotient (x y : Int) : Int := if y == 0 then -1 else Int.tdiv x y

/-- Remainder with the sign of x, the dividend for a zero divisor (R104). -/
def remainder (x y : Int) : Int := if y == 0 then x else x - quotient x y * y

def execDiv (d a b : BitVec 6) (u : BitVec 1) (s : State) : Out :=
  (s.setS 12 d (ofI 64 (quotient (reading u (s.rs a)) (reading u (s.rs b))))).ok
def execRem (d a b : BitVec 6) (u : BitVec 1) (s : State) : Out :=
  (s.setS 12 d (ofI 64 (remainder (reading u (s.rs a)) (reading u (s.rs b))))).ok

def execMin (d a b : BitVec 6) (u : BitVec 1) (s : State) : Out :=
  (s.setS 1 d (if reading u (s.rs a) ≤ reading u (s.rs b) then s.rs a else s.rs b)).ok
def execMax (d a b : BitVec 6) (u : BitVec 1) (s : State) : Out :=
  (s.setS 1 d (if reading u (s.rs b) ≤ reading u (s.rs a) then s.rs a else s.rs b)).ok
def execSlt (d a b : BitVec 6) (u : BitVec 1) (s : State) : Out :=
  (s.setS 1 d (if reading u (s.rs a) < reading u (s.rs b) then 1 else 0)).ok
def execSeq (d a b : BitVec 6) (s : State) : Out := (s.setS 1 d (if s.rs a == s.rs b then 1 else 0)).ok

def execSel (d a b : BitVec 6) (p : BitVec 3) (s : State) : Out :=
  (s.setS 1 d (if (s.rp p.toNat).getLsbD 0 then s.rs a else s.rs b)).ok

def execClz (d a : BitVec 6) (s : State) : Out := (s.setS 1 d (BitVec.ofNat 64 (leadingZeros 64 (s.rs a).toNat))).ok
def execCtz (d a : BitVec 6) (s : State) : Out := (s.setS 1 d (BitVec.ofNat 64 (trailingZeros 64 (s.rs a).toNat))).ok
def execPopc (d a : BitVec 6) (s : State) : Out := (s.setS 1 d (BitVec.ofNat 64 (popcount 64 (s.rs a).toNat))).ok

/-! ### Immediates (R108 to R110) -/

def execAddi (d a : BitVec 6) (i : BitVec 14) (s : State) : Out := (s.setS 1 d (s.rs a + i.signExtend 64)).ok
def execAndi (d a : BitVec 6) (i : BitVec 14) (s : State) : Out := (s.setS 1 d (s.rs a &&& i.signExtend 64)).ok
def execOri (d a : BitVec 6) (i : BitVec 14) (s : State) : Out := (s.setS 1 d (s.rs a ||| i.zeroExtend 64)).ok
def execXori (d a : BitVec 6) (i : BitVec 14) (s : State) : Out := (s.setS 1 d (s.rs a ^^^ i.zeroExtend 64)).ok
def execShi (d a : BitVec 6) (k : BitVec 2) (n : BitVec 6) (s : State) : Out :=
  (s.setS 1 d (shiftKind k.toNat (s.rs a) n.toNat)).ok
def execSlti (d a : BitVec 6) (i : BitVec 14) (s : State) : Out :=
  (s.setS 1 d (if (s.rs a).toInt < i.toInt then 1 else 0)).ok
def execLi (d : BitVec 6) (i : BitVec 20) (s : State) : Out := (s.setS 1 d (i.signExtend 64)).ok

/-- x with its quarter q replaced (R110). -/
def setQuarter (x : Word) (q : Nat) (v : BitVec 16) : Word :=
  (x &&& ~~~ ((0xFFFF : Word) <<< (16 * q))) ||| (v.zeroExtend 64 <<< (16 * q))

def execLiq (d : BitVec 6) (q : BitVec 2) (v : BitVec 16) (s : State) : Out :=
  (s.setS 1 d (setQuarter (s.rs d) q.toNat v)).ok

/-! ### Scalar floating point (R111 to R115) -/

def State.setF (s : State) (d : BitVec 6) (x : Nat) : State := s.setS 4 d (BitVec.ofNat 64 x)

def execFadd (d a b : BitVec 6) (m : BitVec 2) (s : State) : Out :=
  (s.setF d (fpAdd .fp32 (Rounding.ofCode m.toNat) (f32 (s.rs a)) (f32 (s.rs b)))).ok
def execFsub (d a b : BitVec 6) (m : BitVec 2) (s : State) : Out :=
  (s.setF d (fpSub .fp32 (Rounding.ofCode m.toNat) (f32 (s.rs a)) (f32 (s.rs b)))).ok
def execFmul (d a b : BitVec 6) (m : BitVec 2) (s : State) : Out :=
  (s.setF d (fpMul .fp32 (Rounding.ofCode m.toNat) (f32 (s.rs a)) (f32 (s.rs b)))).ok
def execFma (d a b : BitVec 6) (m : BitVec 2) (s : State) : Out :=
  (s.setF d (fpFma .fp32 (Rounding.ofCode m.toNat) (f32 (s.rs a)) (f32 (s.rs b)) (f32 (s.rs d)))).ok
def execFmin (d a b : BitVec 6) (s : State) : Out := (s.setF d (fpMin .fp32 (f32 (s.rs a)) (f32 (s.rs b)))).ok
def execFmax (d a b : BitVec 6) (s : State) : Out := (s.setF d (fpMax .fp32 (f32 (s.rs a)) (f32 (s.rs b)))).ok
def execFcmp (d a b : BitVec 6) (c : BitVec 3) (s : State) : Out :=
  (s.setF d (if fpCmp .fp32 c.toNat (f32 (s.rs a)) (f32 (s.rs b)) then 1 else 0)).ok

/-- The conversions of Table 5-4. -/
def fcvtValue (k : Nat) (mode : Rounding) (x : Word) : Nat :=
  match k with
  | 0 => wrap 64 (toInt 64 false mode (decodeF .fp32 (f32 x)))
  | 1 => wrap 64 (toInt 64 true mode (decodeF .fp32 (f32 x)))
  | 2 => roundF .fp32 mode (ofInt x.toInt)
  | 3 => roundF .fp32 mode (ofInt (x.toNat : Int))
  | 4 => fpConvert .fp32 .bf16 mode false (f32 x)
  | 5 => fpConvert .bf16 .fp32 mode false (x.toNat % 2 ^ 16)
  | 6 => fpConvert .fp32 .fp16 mode false (f32 x)
  | _ => fpConvert .fp16 .fp32 mode false (x.toNat % 2 ^ 16)

def execFcvt (d a : BitVec 6) (k : BitVec 3) (m : BitVec 2) (s : State) : Out :=
  (s.setF d (fcvtValue k.toNat (Rounding.ofCode m.toNat) (s.rs a))).ok

/-! ### Control transfer (R116 to R120) -/

/-- The address of the executing word's bundle. -/
def State.curPc (s : State) : Nat := (s.curBundle.map (·.pc)).getD s.cur.pc

/-- The address of the bundle that follows it in sequence (R61). -/
def State.curFollowing (s : State) : Nat := (s.curBundle.map (·.following)).getD s.cur.pc

/-- A taken transfer: its target is the next bundle (R61). A PC has 56 bits (Table 4-8). -/
def State.branch (s : State) (target : Nat) : State :=
  (s.modBundle s.focus.ticket s.focus.pos fun b => { b with target := some target }).modCur fun c => { c with pc := target }

/-- The target of a relative transfer (R55). -/
def targetOf (pc : Nat) (off : Int) : Nat := (((pc : Int) + 4 * off) % (2 ^ 56 : Int)).toNat

/-- The conditions of Table 5-5. -/
def branchCond (c : Nat) (x y : Word) : Bool :=
  match c with
  | 0 => x == y
  | 1 => x != y
  | 2 => decide (x.toInt < y.toInt)
  | 3 => decide (y.toInt ≤ x.toInt)
  | 6 => decide (x.toNat < y.toNat)
  | _ => decide (y.toNat ≤ x.toNat)

def execBc (c : BitVec 3) (a b : BitVec 6) (o : BitVec 11) (s : State) : Out :=
  (if branchCond c.toNat (s.rs a) (s.rs b) then s.branch (targetOf s.curPc o.toInt) else s).ok
def execJmp (o : BitVec 26) (s : State) : Out := (s.branch (targetOf s.curPc o.toInt)).ok
def execJal (d : BitVec 6) (o : BitVec 20) (s : State) : Out :=
  ((s.setS 1 d (BitVec.ofNat 64 s.curFollowing)).branch (targetOf s.curPc o.toInt)).ok
def execJr (d a : BitVec 6) (s : State) : Out :=
  ((s.setS 1 d (BitVec.ofNat 64 s.curFollowing)).branch (bits (s.rs a).toNat 55 2 * 4)).ok
def execDbnz (a : BitVec 6) (o : BitVec 11) (s : State) : Out :=
  let c := s.rs a - 1
  (if c == 0 then s.setS 1 a c else (s.setS 1 a c).branch (targetOf s.curPc o.toInt)).ok

/-! ### Slack, CSRs and fences (R121 to R124) -/

def execSlack (i : BitVec 14) (s : State) : Out := (s.land 1 (.slackr (slackValue i.toNat))).ok

def execCsrr (d : BitVec 6) (c : BitVec 12) (s : State) : Out := (s.setS 2 d (s.csr c.toNat)).ok

/-- CSRW of SLACKR lands at the next bundle (R85); a handler's CSRW of FCMD is a command at commit (R389). Every other
CSR is refused before dispatch (R95, Table 3-15 step 8). -/
def execCsrw (a : BitVec 6) (c : BitVec 12) (s : State) : Out :=
  (if c == 2 then s.land 1 (.slackr (slackValue (bits (s.rs a).toNat 4 0)))
   else if c == 0x20 then s.effect (.fcmd (s.rs a))
   else s.trap 4 0 0 0).ok

/-- Accesses of an instance that are in flight on links (R124, R242). -/
def Op.onLink (o : Op) : Bool :=
  match o.kind with
  | .sysLoad .. => true
  | .sysWrite .. => true
  | .sysAmo .. => true
  | _ => false

/-- Whether the executing bundle is the oldest uncommitted one of its context. -/
def State.oldest (s : State) : Bool := (s.cur.inflight.head?).all fun b => b.pos == s.focus.pos

/-- Whether an access that the context has sent on a link before the executing bundle is still outstanding (R124). -/
def State.linkBusy (s : State) : Bool :=
  s.ops.any fun o => o.onLink && o.who == some s.cur.who && decide (o.pos < s.focus.pos)

/-- FENCE.eng and FENCE.red hold their bundle before dispatch; FENCE.sys and FENCE.all have started here and execute once
every earlier window access has completed (R123, R124). -/
def execFence (k : BitVec 3) (s : State) : Out :=
  (if k.getLsbD 2 && (!s.oldest || s.linkBusy) then s.startWord
   else s.modBundle s.focus.ticket s.focus.pos fun b => b.setWord s.focus.slot fun w => { w with progress := .queued }).ok

/-! ### Traps and the end of an instance (R125 to R127) -/

def execTrap (i : BitVec 20) (s : State) : Out := (s.effect (.progTrap i.toNat)).ok

def execDone (s : State) : Out := (s.effect .done).ok

/-- BRK: its bundle takes no effect and the context is suspended at it (R126). -/
def execBrk (i : BitVec 20) (s : State) : Out :=
  let tr : Trap :=
    { cls := 14, cause := 0, slot := 0, addr := 0, aux := 0, level := 0, code := i.toNat, isAsync := false, due := 0 }
  .next (s.suspend s.focus.ticket tr s.focus.pos s.curPc s.focus.pos s.curPc)

end Sys2Proof.Machine
end

