-- ==== Sys2Proof/Machine/Tile.lean ====
section
/-!
DEFINITION. Tiles, planes and the MTX slot: what a word checks and reads when it starts, its acceptance by the matrix unit,
and the end of its work (R173 to R195, R35 to R41).
-/
namespace Sys2Proof.Machine

/-! ### Tile fields (R81, R178) -/

/-- The physical tiles of a context, from t0 upward. -/
def Context.tiles (c : Context) : List Nat := (List.range 12).filter fun j => c.grants.getLsbD j

/-- The physical tile that a field names. -/
def Context.tileAt (c : Context) (j : Nat) : Nat := (c.tiles[j]?).getD 12

/-- The tiles that an MTX word writes. -/
def Instr.tileWrites : Instr → List Nat
  | .tld t _ _ _ _ => [t.toNat]
  | .tzero d => [d.toNat]
  | .tadd d _ _ => [d.toNat]
  | .tcvt d _ _ _ _ _ _ => [d.toNat]
  | .mma d _ _ _ _ _ _ _ => [d.toNat]
  | .tsetr d _ _ => [d.toNat]
  | _ => []

/-- The tiles that an MTX word reads and does not write. -/
def Instr.tileReads : Instr → List Nat
  | .tst t _ _ _ _ => [t.toNat]
  | .mlds a _ _ _ _ => [a.toNat]
  | .tadd d a _ => if d == a then [] else [a.toNat]
  | .tcvt _ a _ _ _ _ _ => [a.toNat]
  | .mma _ a _ _ _ _ _ _ => [a.toNat]
  | .tgetr a _ _ => [a.toNat]
  | _ => []

/-- The long words of R178. -/
def Instr.isLongMtx : Instr → Bool
  | .tld .. => true
  | .tst .. => true
  | .tzero .. => true
  | .tadd .. => true
  | .tcvt .. => true
  | .mma .. => true
  | .mlds .. => true
  | _ => false

def Instr.isMma : Instr → Bool
  | .mma .. => true
  | _ => false

/-- One contribution to busy bits: the tiles it reads and writes, and whether it is an MMA. -/
structure Busy where
  reads : List Nat
  writes : List Nat
  mma : Bool
  deriving DecidableEq, Repr

/-- The long words of a context that have dispatched and whose work has not ended. -/
def State.busy (s : State) (t : Nat) : List Busy :=
  let c := s.ctx t
  let queued := c.inflight.flatMap fun b => (b.words.filter fun w => w.slot == 5 && w.progress != .executed).filterMap fun w =>
    w.instr.bind fun i => if Instr.isLongMtx i then
      some (Busy.mk ((Instr.tileReads i).map c.tileAt) ((Instr.tileWrites i).map c.tileAt) (Instr.isMma i)) else none
  let working := s.ops.filterMap fun o => match o.kind with
    | .mtx k reads writes mma _ _ => if o.who == some c.who && k == coreOf t then some (Busy.mk reads writes mma) else none
    | _ => none
  queued ++ working

/-- Condition (e) of R84 for an MTX word. -/
def State.tilesReady (s : State) (t : Nat) (i : Instr) : Bool :=
  let c := s.ctx t
  let bs := s.busy t
  ((Instr.tileReads i).map c.tileAt).all (fun j => !bs.any fun b => b.writes.contains j) &&
  ((Instr.tileWrites i).map c.tileAt).all fun j =>
    !bs.any fun b => b.reads.contains j || (b.writes.contains j && !(Instr.isMma i && b.mma))

/-! ### Starting an MTX word -/

/-- The executing word waits for acceptance with what it has read. -/
def State.buffer (s : State) (w : MtxWork) : Out :=
  .next (s.modBundle s.focus.ticket s.focus.pos fun b => { b with mtx := some w }).startWord

/-- The memory rows of a tile access: n rows of k bytes, a stride apart, modulo 2^64. -/
def tileRows (base : Word) (stride : Int) (n k : Nat) : List Seg :=
  (List.range n).map fun (i : Nat) => (eaOf base (stride * (i : Int)), k)

/-- An access touches a peer window that has ports and no usable one among them (R412). -/
def State.portless (s : State) (w : Who) (asid : Nat) (segs : List Seg) : Bool :=
  (segs.flatMap fun g => s.regionStarts w asid 512 g.1 g.2).any fun a =>
    (s.region w asid a).any (fun r => r.kind == .peer) && (s.carrier a).isNone

/-- The checks of a tile access, and what follows when they pass (R183): a peer window is refused with SPACE, or without a
usable port with LINK_FAULT (R412, assumption 109). -/
def State.tileAccess (s : State) (rows : List Seg) (write aligned : Bool) (addr : Nat) (w : MtxWork) : Out :=
  match s.chk 7 rows (!write) write RKind.device aligned addr with
  | .trap cls cause a level =>
    .next (if s.portless s.cur.who s.cur.asid rows then s.trap 12 9 0 0 else s.trap cls cause a level)
  | .wait ps => .next (s.awaitPages 7 ps write)
  | .ok => s.buffer w

def execTld (t : BitVec 4) (r : BitVec 1) (a b : BitVec 6) (e : BitVec 2) (s : State) : Out :=
  let k := 2 ^ e.toNat
  let base := s.rs a
  let stride := s.rs b
  let rows := tileRows base stride.toInt (256 / k) (256 * k)
  s.tileAccess rows false (base.toNat % 64 == 0 && stride.toNat % 64 == 0) base.toNat
    (.tld (s.cur.tileAt t.toNat) rows (r == 1) k)

def execTst (t : BitVec 4) (r : BitVec 1) (a b : BitVec 6) (e : BitVec 2) (s : State) : Out :=
  let k := 2 ^ e.toNat
  let base := s.rs a
  let stride := s.rs b
  let rows := if r == 1 then tileRows base stride.toInt 256 256 else tileRows base stride.toInt (256 / k) (256 * k)
  s.tileAccess rows true (base.toNat % 64 == 0 && stride.toNat % 64 == 0) base.toNat
    (.tst (s.cur.tileAt t.toNat) rows (r == 1) k)

def execSld (a : BitVec 6) (w : BitVec 3) (n : BitVec 2) (s : State) : Out :=
  let base := (s.rs a).toNat
  s.tileAccess [(base, 2048 * (n.toNat + 1))] false (base % 64 == 0) base (.sld w.toNat (n.toNat + 1) base)

def execTzero (d : BitVec 4) (s : State) : Out := s.buffer (.tzero (s.cur.tileAt d.toNat))

/-- The chunk that an index register names (R185). -/
def State.chunk (s : State) (i : BitVec 4) : Nat := (s.ri i.toNat).toNat % 512

def execTgetr (a : BitVec 4) (v : BitVec 6) (i : BitVec 4) (s : State) : Out :=
  s.buffer (.tgetr (s.cur.tileAt a.toNat) (s.chunk i) v.toNat)

def execTsetr (d : BitVec 4) (v : BitVec 6) (i : BitVec 4) (s : State) : Out :=
  s.buffer (.tsetr (s.cur.tileAt d.toNat) (s.chunk i) (s.rv 0 v.toNat))

/-- A tensor scale: none for s0, else the FP32 value of the register (R39). -/
def State.tensorScale (s : State) (r : BitVec 6) : Option Nat := if r == 0 then none else some (f32 (s.rs r))

def execMlds (a : BitVec 4) (r : BitVec 6) (o : BitVec 4) (p : BitVec 3) (b : BitVec 1) (s : State) : Out :=
  s.buffer (.mlds (s.cur.tileAt a.toNat) o.toNat p.toNat (b == 1) (s.tensorScale r))

def execMswap (s : State) : Out := s.buffer .mswap

def execMma (d a : BitVec 4) (r : BitVec 6) (o : BitVec 4) (w : BitVec 3) (b c : BitVec 1) (q : BitVec 2) (s : State) : Out :=
  s.buffer (.mma (s.cur.tileAt d.toNat) (s.cur.tileAt a.toNat) o.toNat q.toNat w.toNat (c == 1) (b == 1) (s.tensorScale r))

def execTcvt (d a : BitVec 4) (r : BitVec 6) (o x : BitVec 4) (p : BitVec 2) (y : BitVec 1) (s : State) : Out :=
  s.buffer (.tcvt (s.cur.tileAt d.toNat) (s.cur.tileAt a.toNat) o.toNat x.toNat p.toNat (y == 1) (s.tensorScale r))

def execTadd (d a o : BitVec 4) (s : State) : Out :=
  s.buffer (.tadd (s.cur.tileAt d.toNat) (s.cur.tileAt a.toNat) o.toNat)

/-! ### MMA (R40, R41, R188) -/

/-- The MMA class of an operand type (Table 7-1). -/
def mmaClass (o : Nat) : Nat :=
  if o == 0 then 0 else if o ≤ 2 then 1 else if o ≤ 4 then 2 else if o ≤ 6 then 3 else 4

/-- The value of a Q4 code in a block of a TYPE (Table 2-5). -/
def codeValue (type c : Nat) : FVal :=
  let neg := c / 8 == 1
  match type with
  | 0 => ofInt (sext c 4)
  | 1 => decodeF .e2m1 c
  | 2 => if c % 8 == 0 then .zero else .fin neg 1 ((c % 8 : Nat) - 4)
  | _ => .fin neg ([0, 1, 2, 3, 4, 6, 8, 12].getD (c % 8) 0) 0

/-- A floating operand element of a type. -/
def mmaFloat (ty x : Nat) : FVal := if ty == 0 then decodeF .bf16 x else if ty == 1 then decodeF .e4m3 x else decodeF .e5m2 x

/-- An integer operand element of a type. -/
def mmaInt (ty x : Nat) : Int :=
  if ty == 3 then sext x 8 else if ty == 4 then x else if ty == 5 then sext x 16 else x

/-- Elements of w bits from bytes, lowest first. -/
def elemsOf (w : Nat) (bs : List Byte) : List Nat := elems w (bs.length * 8 / w) (leNat bs)

/-- A floating operand along K: its blocks, each with its elements and its block scale. `at_` gives the offset in scale
memory of the scale of block b. -/
def mmaBlocks (ty : Nat) (scaled : Bool) (scale : Mem) (at_ : Nat → Nat) (bs : List Byte) : List (List FVal × FVal) :=
  if ty == 7 then
    (groupsOf 32 16 (elemsOf 4 bs)).zipIdx.map fun g =>
      let h := Mem.le scale (at_ g.2) 2
      (g.1.map (codeValue (bits h 15 14)), decodeF .e4m3 (h % 256))
  else if ty == 0 then (groupsOf 16 8 (elemsOf 16 bs)).map fun g => (g.map (mmaFloat ty), .one)
  else (groupsOf 32 8 (elemsOf 8 bs)).zipIdx.map fun g =>
    (g.1.map (mmaFloat ty), if scaled then decodeF .e4m3 (Mem.le scale (at_ g.2) 1) else .one)

/-- The exact sum of the products of a block; an exact zero is +0 (R40). -/
def blockSum (xs ys : List FVal) : FVal := (xs.zipWith FVal.mul ys).foldl (FVal.add .rne) .zero

/-- One element of a floating result (R40). -/
def mmaElem (tsA tsB : FVal) (acc : Nat) (xs ys : List (List FVal × FVal)) : Nat :=
  (xs.zip ys).foldl (fun c p =>
    let t := ((((blockSum p.1.1 p.2.1).mul p.1.2).mul p.2.2).mul tsA).mul tsB
    fpAdd .fp32 .rne c (roundF .fp32 .rne t)) acc

/-- One element of an integer result (R41). -/
def mmaIntElem (acc : Nat) (xs ys : List Int) : Nat := wrap 32 (acc + (xs.zipWith (· * ·) ys).sum)

/-- A tensor scale as a value. -/
def scaleValue : Option Nat → FVal
  | none => .one
  | some x => decodeF .fp32 x

/-- The block-scale offset in scale memory of block b of row or column n (Table 7-2). -/
def scaleAt (ty window n b : Nat) : Nat := if ty == 7 then 2048 * window + 2 * (16 * n + b) else 2048 * window + 8 * n + b

/-- The result tile of an MMA. -/
def mmaResult (k : Core) (dst src ty quarter window : Nat) (acc bs : Bool) (scale : Option Nat) : Mem :=
  let p := k.active
  let rows := groupsOf 256 64 ((k.tile src).range (16384 * quarter) 16384)
  let cols := groupsOf 256 256 (p.data.range 0 tileSize)
  let old := groupsOf 256 64 (if acc then elemsOf 32 ((k.tile dst).range 0 tileSize) else List.replicate 16384 0)
  let new :=
    if otInt ty then
      let w := 8 * otBytes ty
      let ys := cols.map fun c => (elemsOf w c).map (mmaInt p.ty)
      (rows.zip old).map fun r =>
        let xs := (elemsOf w r.1).map (mmaInt ty)
        (r.2.zip ys).map fun e => mmaIntElem e.1 xs e.2
    else
      let ys := cols.zipIdx.map fun c => mmaBlocks p.ty p.bs k.scale (scaleAt p.ty p.psw c.2) c.1
      (rows.zip old).zipIdx.map fun r =>
        let xs := mmaBlocks ty bs k.scale (scaleAt ty window r.2) r.1.1
        (r.1.2.zip ys).map fun e => mmaElem (scaleValue scale) (scaleValue p.pts) e.1 xs e.2
  Mem.ofBytes (new.flatten.flatMap (leBytes 4))

/-- The windows of scale memory that an MMA reads, as a mask (Table 7-2). -/
def mmaWindows (p : Plane) (ty window : Nat) (bs : Bool) : Nat :=
  Nat.lor (if ty == 7 || bs then 2 ^ window else 0) (if p.ty == 7 then 15 * 2 ^ p.psw else if p.bs then 2 ^ p.psw else 0)

/-! ### TCVT and TADD (R192, R193) -/

/-- The floating format of an operand type. -/
def otFmt (o : Nat) : Fmt :=
  match o with
  | 0 => .bf16
  | 1 => .e4m3
  | 2 => .e5m2
  | 10 => .fp16
  | _ => .fp32

/-- An integer element of an operand type. -/
def otInteger (o x : Nat) : Int := if o == 4 || o == 6 then x else sext x (8 * otBytes o)

/-- One element converted from st to dt (R192). -/
def tcvtElem (dt st : Nat) (sat : Bool) (scale : Option Nat) (x : Nat) : Nat :=
  let n := 8 * otBytes dt
  let uns := dt == 4 || dt == 6
  if otInt dt && otInt st then
    (if sat then wrap n (satInt n uns (otInteger st x)) else wrap n (otInteger st x))
  else if dt == st && scale.isNone then x
  else
    let v := if otInt st then ofInt (otInteger st x) else decodeF (otFmt st) x
    let v := match scale with
      | some f => v.mul (decodeF .fp32 f)
      | none => v
    if otInt dt then wrap n (toInt n uns .rne v) else roundF (otFmt dt) .rne v (sat && dt != 8)

/-- The destination tile of a TCVT. -/
def tcvtResult (k : Core) (dst src dt st part : Nat) (sat : Bool) (scale : Option Nat) : Mem :=
  let es := otBytes st
  let ed := otBytes dt
  let conv := fun (bs : List Byte) => (elemsOf (8 * es) bs).flatMap fun x => leBytes ed (tcvtElem dt st sat scale x)
  if ed ≤ es then Mem.write (k.tile dst) (part * (tileSize * ed / es)) (conv ((k.tile src).range 0 tileSize))
  else
    let n := tileSize / ed
    Mem.ofBytes (conv ((k.tile src).range (part * n * es) (n * es)))

def taddResult (k : Core) (dst src ty : Nat) : Mem :=
  let xs := elemsOf 32 ((k.tile dst).range 0 tileSize)
  let ys := elemsOf 32 ((k.tile src).range 0 tileSize)
  Mem.ofBytes ((xs.zipWith (fun x y => if ty == 8 then fpAdd .fp32 .rne x y else (x + y) % 2 ^ 32) ys).flatMap (leBytes 4))

/-! ### Acceptance (R177, Table 7-3) -/

/-- The work of the matrix unit that is in flight on a core, as MMA and MLDS marks and windows read. -/
def State.unitBusy (s : State) (k : Nat) (f : Bool → Bool → Nat → Bool) : Bool :=
  s.ops.any fun o => match o.kind with
    | .mtx c _ _ mma mlds windows => c == k && f mma mlds windows
    | _ => false

/-- The conditions of Table 7-3 that concern other matrix work. -/
def State.unitReady (s : State) (k : Nat) : MtxWork → Bool
  | .sld window count _ =>
    let mask := (2 ^ count - 1) * 2 ^ window
    !s.unitBusy k fun mma _ windows => mma && Nat.land windows mask != 0
  | .mlds .. => !s.unitBusy k fun _ mlds _ => mlds
  | .mswap => !s.unitBusy k fun mma mlds _ => mma || mlds
  | .mma .. => !s.unitBusy k fun mma _ _ => mma
  | _ => true

/-- The pages of a tile access as they stand at acceptance. -/
def State.workChk (s : State) : MtxWork → Chk
  | .tld _ rows _ _ => s.chk 7 rows true false RKind.device true 0
  | .tst _ rows _ _ => s.chk 7 rows false true RKind.device true 0
  | .sld _ count addr => s.chk 7 [(addr, 2048 * count)] true false RKind.device true 0
  | _ => .ok

/-- What an MTX word does once accepted: the core's tiles, planes and scale memory, results, stores, and long work. -/
def State.work (s : State) (t : Nat) (b : Bundle) (w : MtxWork) : State :=
  let c := s.ctx t
  let core := coreOf t
  let k := s.core core
  let long := fun (s : State) (reads writes : List Nat) (mma mlds : Bool) (windows : Nat) =>
    s.opNew (c.newOp b none (.mtx core reads writes mma mlds windows))
  let taken := fun (s : State) (segs : List Seg) =>
    let s := s.mark c.who c.asid s.die segs false
    let (s, lt) := s.accessTime (some core) c.who c.asid s.die (s.ctx t).ltime segs false
    s.modCtx t fun c => { c with ltime := max c.ltime lt }
  match w with
  | .tld tile rows tr size =>
    let v := s.adrView t b
    let data := rows.map fun g => v.readSeg c.who c.asid s.die g
    let bytes := (if tr then transposed size data else data).flatten
    long ((taken s rows).setCore core (k.setTile tile (Mem.ofBytes bytes))) [] [tile] false false 0
  | .tst tile rows tr size =>
    long (s.effect (.store ((rows.map (·.1)).zip (k.stored tile tr size)) true)) [tile] [] false false 0
  | .tzero tile => long (s.setCore core (k.setTile tile [])) [] [tile] false false 0
  | .tgetr tile chunk dest =>
    let x : Vec := BitVec.ofNat 1024 (leNat (Mem.bytes (k.tile tile) (128 * chunk) 128))
    s.vres 4 dest 1024 x
  | .tsetr tile chunk x => s.setCore core (k.setTile tile (Mem.write (k.tile tile) (128 * chunk) (leBytes 128 x.toNat)))
  | .mlds tile ty psw bs pts =>
    long (s.setCore core { k with shadow := { data := k.tile tile, ty := ty, psw := psw, bs := bs, pts := pts } })
      [tile] [] false true 0
  | .mswap => s.setCore core { k with active := k.shadow, shadow := k.active }
  | .mma dst src ty quarter window acc bs scale =>
    long (s.setCore core (k.setTile dst (mmaResult k dst src ty quarter window acc bs scale))) [src] [dst] true false
      (mmaWindows k.active ty window bs)
  | .sld window count addr =>
    let v := s.adrView t b
    let bytes := v.readSeg c.who c.asid s.die (addr, 2048 * count)
    (taken s [(addr, 2048 * count)]).setCore core { k with scale := Mem.write k.scale (2048 * window) bytes }
  | .tcvt dst src dt st part sat scale =>
    long (s.setCore core (k.setTile dst (tcvtResult k dst src dt st part sat scale))) [src] [dst] false false 0
  | .tadd dst src ty =>
    long (s.setCore core (k.setTile dst (taddResult k dst src ty))) (if src == dst then [] else [src]) [dst] false false 0

/-- The source bytes of a tile access. -/
def MtxWork.sources : MtxWork → List Seg
  | .tld _ rows _ _ => rows
  | .sld _ count addr => [(addr, 2048 * count)]
  | _ => []

/-- What accepted work reads that can hold an error: tiles, the active plane 16, windows of scale memory from 32 (R385). -/
def MtxWork.consumes (k : Core) : MtxWork → List Nat
  | .tst tile _ _ _ => [tile]
  | .tgetr tile _ _ => [tile]
  | .mlds tile _ _ _ _ => [tile]
  | .mma dst src ty _ window acc bs _ =>
    let mask := mmaWindows k.active ty window bs
    [src, 16] ++ (if acc then [dst] else []) ++ ((List.range 8).filter fun w => bits mask w w == 1).map (· + 32)
  | .tcvt _ src _ _ _ _ _ => [src]
  | .tadd dst src _ => [dst, src]
  | _ => []

/-- The errors left in a core's matrix state by accepted work: what it writes whole is sound again. -/
def MtxWork.errors (bad : List Nat) : MtxWork → List Nat
  | .tld tile _ _ _ => bad.filter (· != tile)
  | .tzero tile => bad.filter (· != tile)
  | .mlds .. => bad.filter (· != 17)
  | .mswap => bad.map fun x => if x == 16 then 17 else if x == 17 then 16 else x
  | .sld window count _ => bad.filter fun x => !(decide (32 + window ≤ x) && decide (x < 32 + window + count))
  | _ => bad

/-- The class check of an MMA against the active plane (R189). -/
def State.classFault (s : State) (k : Nat) : MtxWork → Bool
  | .mma _ _ ty _ _ _ _ _ => mmaClass ty != mmaClass (s.core k).active.ty
  | _ => false

/-- The slots of a bundle whose effects, or whose tile access, can no longer take place as they were judged. -/
def State.staleSlots (s : State) (t : Nat) (b : Bundle) (w : MtxWork) : List Nat :=
  let s : State := { s with focus := { ticket := t, pos := b.pos, slot := 5 } }
  let slots := (b.effects.filter fun e => !s.effectOk t e.2).map (·.1)
  if s.workChk w == .ok then slots else 5 :: slots

/-- Every other word of a bundle has executed, none has trapped, and the context's state lets the bundle end as it does. -/
def State.othersDone (s : State) (t : Nat) (b : Bundle) : Bool :=
  (b.words.all fun x => if x.slot == 5 then x.progress == .started else x.progress == .executed)
    && b.traps == [] && s.powered && b.endsIn (s.ctx t).state

/-- The conditions of Table 7-3 for the MTX word of a context's oldest bundle, which commits with it: nothing stands in the way
of its effects either. -/
def State.acceptable (s : State) (t : Nat) : Bool :=
  match (s.ctx t).inflight with
  | [] => false
  | b :: _ => match b.mtx with
    | none => false
    | some w =>
      s.othersDone t b && s.unitReady (coreOf t) w && s.adrAwaits t b w.sources == [] && s.staleSlots t b w == []
        && !b.effects.any fun e => s.effectWaits t e.2

/-- Words are accepted in the order in which their conditions became true (R177). -/
def State.mtxTurn (s : State) (t : Nat) : Bool :=
  ((s.mtxOrder.find? fun u => coreOf u == coreOf t && s.acceptable u).map fun u => u == t).getD true

/-- The error that a context consumes as its MTX word is accepted: one in the data that have reached it over the network, in its
source bytes, or in the tiles, plane and scales that it reads (R385, R427). -/
def State.mtxUpset (s : State) (t : Nat) (b : Bundle) (w : MtxWork) : Option Nat :=
  let c := s.ctx t
  let bad := (b.words.find? fun x => x.slot == 5).bind (·.bad)
  ((if w.sources == [] then none else bad).or
    ((s.upsetOf c.who c.asid (dieOf (coreOf t)) w.sources).map (·.cause))).or
    (if (w.consumes (s.core (coreOf t))).any (s.core (coreOf t)).badMtx.contains then some 7 else none)

/-- MTX_ACCEPTANCE: the matrix unit accepts the MTX word of the oldest bundle, every other word of which has executed;
acceptance is its execution, and the bundle commits with it. A word whose pages have changed runs again. An MMA of another class
than the plane, or source data with an uncorrectable error, traps instead. -/
def execMtxAcceptance (t : Nat) (s : State) : Out :=
  match (s.ctx t).inflight with
  | [] => .next s
  | b :: _ =>
    match b.mtx with
    | none => .next s
    | some w =>
      let stale := s.staleSlots t b w
      if !s.othersDone t b then .next s
      else if stale != [] then
        (s.modBundle t b.pos fun b => { b.requeue stale with mtx := if stale.contains 5 then none else b.mtx }).done
      else if !s.acceptable t || !s.mtxTurn t then .next s
      else
        let s : State := { s with focus := { ticket := t, pos := b.pos, slot := 5 } }
        if s.classFault (coreOf t) w then (s.engineFault.takeTraps t).done
        else match s.mtxUpset t b w with
          | some cause => ((s.trap 11 cause 0 0).takeTraps t).done
          | none =>
            let s := (s.work t b w).modCore (coreOf t) fun k => { k with badMtx := w.errors k.badMtx }
            let s := s.modBundle t b.pos fun b =>
              { b.setWord 5 (fun x => { x with progress := .executed }) with mtx := none }
            execBundleCommit t s

/-- MTX_WORK_END: the work of an accepted word ends and its busy marks clear (R178). -/
def execMtxWorkEnd (id : Nat) (s : State) : Out :=
  match s.opGet id with
  | none => .next s
  | some o =>
    match o.kind with
    | .mtx .. => (s.opDrop id).done
    | _ => .next s

end Sys2Proof.Machine
end

