-- ==== Sys2Proof/Machine/Bundle.lean ====
section
/-!
DEFINITION. A bundle from fetch to dispatch: the checks of Table 3-15, the conditions of R84 and R447, dispatch itself; the
return of load data; the choice of a core's next context; and the end of a drain (R59 to R63, R73, R84 to R96).
-/
namespace Sys2Proof.Machine

/-! ### Fetch (Table 3-15, steps 1 to 5) -/

/-- A trap of the checks before dispatch. -/
def checkTrap (cls slot aux : Nat) : Trap :=
  { cls := cls, cause := 0, slot := slot, addr := 0, aux := aux, level := 0, code := 0, isAsync := false, due := 0 }

/-- What a code page gives: its byte at `va` and its leaf, a fault, or that it awaits mapping. -/
inductive CodePage where
  | ok (pa leaf : Nat)
  | trap (tr : Trap)
  | awaits
  deriving DecidableEq, Repr

def State.codePage (s : State) (asid die va aux : Nat) : CodePage :=
  match s.page asid die va false false true with
  | .ok pa _ _ leaf => .ok pa leaf
  | .perm => .trap (fetchTrap 3 (va / 65536 * 65536) 0 aux)
  | .cannot level => .trap (fetchTrap 4 (va / 65536 * 65536) level aux)
  | .awaits => .awaits

/-- What a fetch gives: a trap, a page to wait for, or the header and the slot words with an error among their bytes in memory;
each with the leaves used. -/
inductive Fetched where
  | trap (tr : Trap) (leaves : List Nat)
  | awaits (va : Nat) (leaves : List Nat)
  | bundle (hdr : Nat) (words : List (Nat × Nat)) (leaves : List Nat) (bad : Option Upset)
  deriving DecidableEq, Repr

/-- The slots that a header's MASK names. -/
def maskSlots (hdr : Nat) : List Nat := (List.range 8).filter fun i => bits hdr (24 + i) (24 + i) == 1

/-- The bytes of the bundle that a header opens (R50). -/
def bundleBytes (hdr : Nat) : Nat := 4 + 4 * (maskSlots hdr).length

/-- The slot words among the bytes of a bundle. -/
def slotWords (hdr : Nat) (bs : List Byte) : List (Nat × Nat) :=
  (maskSlots hdr).zip ((groupsOf 4 (maskSlots hdr).length (bs.drop 4)).map leNat)

/-- Fetches the bundle at the PC of a context: its pages are translated, and its bytes are those of the segment as loaded
(R62). -/
def State.fetchBundle (s : State) (t : Nat) : Fetched :=
  let c := s.ctx t
  let die := dieOf (coreOf t)
  let seg := s.codeSegment c.who
  if c.pc < seg.1 || seg.1 + seg.2 ≤ c.pc then .trap (checkTrap 1 8 0) []
  else match s.codePage c.asid die c.pc 0 with
    | .trap tr => .trap tr []
    | .awaits => .awaits c.pc []
    | .ok pa leaf =>
      let hdr := leNat (s.codeBytes c.who c.pc 4)
      let n := bundleBytes hdr
      let here := min n (65536 - c.pc % 65536)
      let words := slotWords hdr (s.codeBytes c.who c.pc n)
      if bits hdr 31 24 == 0 || bits hdr 22 0 != 0 || seg.1 + seg.2 < c.pc + n then .trap (checkTrap 1 8 hdr) [leaf]
      else if here == n then .bundle hdr words [leaf] (s.upsetIn .phys pa n)
      else match s.codePage c.asid die (c.pc + here) hdr with
        | .trap tr => .trap tr [leaf]
        | .awaits => .awaits (c.pc + here) [leaf]
        | .ok pa' leaf' =>
          .bundle hdr words [leaf, leaf'] ((s.upsetIn .phys pa here).or (s.upsetIn .phys pa' (n - here)))

def Fetched.leaves : Fetched → List Nat
  | .trap _ leaves => leaves
  | .awaits _ leaves => leaves
  | .bundle _ _ leaves _ => leaves

/-- The addresses for which a fetch at pc has walked the tables to an end; a page that awaits mapping is walked for its
service. -/
def Fetched.walked (pc : Nat) : Fetched → List Nat
  | .trap tr leaves => if tr.cls == 5 && leaves != [] then [pc, tr.addr] else if tr.cls == 5 || leaves != [] then [pc] else []
  | .awaits _ leaves => if leaves == [] then [] else [pc]
  | .bundle _ _ leaves _ => if leaves.length == 2 then [pc, (pc / 65536 + 1) * 65536] else [pc]

/-- A in the leaves that a fetch has read through, and what its walks have met (R249). -/
def State.fetchSeen (s : State) (t : Nat) (f : Fetched) : State :=
  let c := s.ctx t
  f.leaves.foldl (fun s a => s.orPte a 0x10) ((f.walked c.pc).foldl (fun s va => s.reportWalk c.asid va) s)

/-! ### The checks of the words (steps 6 to 8) -/

/-- A slot word with its instruction. -/
structure Issued where
  slot : Nat
  raw : Nat
  instr : Instr
  deriving DecidableEq, Repr

/-- The words whose tile fields or privilege the context decides: ILLEGAL_OP by R81, R194 and R388. -/
def Context.illegal (c : Context) (i : Instr) : Bool :=
  match i with
  | .csrr _ a => a == 0x20 && !c.handler
  | .csrw _ a => a == 0x20 && !c.handler
  | i => i.space? == some .mtx &&
    (c.tiles == [] || (Instr.tileReads i ++ Instr.tileWrites i).any fun j => decide (c.tiles.length ≤ j))

/-- Step 6 for one word: its instruction, or the class of the trap. -/
def Context.checkWord (c : Context) (slot raw : Nat) : Except Nat Instr :=
  match decodeSpace (slotSpace slot) raw with
  | .bad => .error 2
  | .word i mbz => if c.illegal i then .error 2 else if mbz then .error 3 else .ok i

/-- Step 6 for the words of a bundle, in slot order. -/
def Context.checkWords (c : Context) : List (Nat × Nat) → Except Trap (List Issued)
  | [] => .ok []
  | (slot, raw) :: rest =>
    match c.checkWord slot raw with
    | .error cls => .error (checkTrap cls slot raw)
    | .ok i =>
      match c.checkWords rest with
      | .error tr => .error tr
      | .ok ws => .ok ({ slot := slot, raw := raw, instr := i } :: ws)

/-- The destinations of a word (R59). -/
def Issued.dests (w : Issued) : List Nat := (Instr.uses 0 w.instr).dests.map (·.1)

/-- Step 7: two slots name one destination. -/
def duplicates : List Issued → Bool
  | [] => false
  | w :: ws => (ws.any fun x => x.dests.any w.dests.contains) || duplicates ws

/-- Step 8: a CSRW that its reference makes privileged (R95). -/
def privileged (i : Instr) : Bool :=
  match i with
  | .csrw _ a => a != 2 && a != 0x20
  | _ => false

/-- The first trap of steps 6 to 8, or the words. -/
def Context.checkBundle (c : Context) (hdr : Nat) (raws : List (Nat × Nat)) : Except Trap (List Issued) :=
  match c.checkWords raws with
  | .error tr => .error tr
  | .ok ws =>
    if duplicates ws then .error (checkTrap 1 8 hdr)
    else match ws.find? fun w => privileged w.instr with
      | some w => .error (checkTrap 4 w.slot w.raw)
      | none => .ok ws

/-! ### The dispatch conditions (R84, R215) -/

/-- A word that has not started, for condition (b): an MTX word other than TLD, TST and SLD starts when it is accepted (R177),
and a FENCE.sys when it executes (R124). -/
def SlotWord.unstarted (w : SlotWord) : Bool :=
  w.progress == .queued || (w.progress == .started && (match w.instr with
    | some (.fence _) => true
    | some (.tld ..) => false
    | some (.tst ..) => false
    | some (.sld ..) => false
    | some i => i.space? == some .mtx
    | none => false))

/-- An AMO or CAS whose result is discarded: its landing position is awaited all the same, since a failure is reported there
(R386). -/
def Instr.discards (i : Instr) : Bool :=
  match i with
  | .amo d .. => d == 0
  | .cas d .. => d == 0
  | _ => false

/-- Some result that lands at bundle m or earlier has not been computed (condition a). -/
def State.resultDue (s : State) (t m : Nat) : Bool :=
  let c := s.ctx t
  (c.awaited.any fun a => decide (a.pos ≤ m)) || c.inflight.any fun b => b.words.any fun w =>
    match w.instr with
    | none => false
    | some i => (w.progress != .executed || Instr.atCommit i) &&
        ((Instr.discards i && decide (b.pos + 6 ≤ m)) ||
          (Instr.uses (s.loadLat t b.pos i) i).dests.any fun d => decide (d.1 < 400) && decide (b.pos + d.2 ≤ m))

/-- Conditions (b) and (c): no slot lags behind bundle m by more than the slack, or at all for a SYNC bundle. -/
def Context.lags (c : Context) (m : Nat) (sync : Bool) : Bool :=
  c.inflight.any fun b => b.words.any SlotWord.unstarted && (sync || decide ((c.readSlackr m).toNat < m - b.pos))

/-- A control transfer that decides what the next bundle is has not executed, or ends the context at its commit (R61). -/
def Context.transfers (c : Context) : Bool :=
  c.inflight.any fun b => b.words.any fun w => match w.instr with
    | some i => Instr.isTransfer i && (w.progress != .executed || Instr.isEnd i)
    | none => false

/-- A tag test behind a tagged command or a clear that has not committed (R215). -/
def Context.tagsHeld (c : Context) (ws : List Issued) : Bool :=
  (ws.any fun w => match w.instr with
    | .twany _ => true
    | .twall _ => true
    | .tffr .. => true
    | _ => false) && c.uncommitted Instr.marksTags

/-- Whether the bundle at the PC stalls (R84). -/
def State.stalls (s : State) (t hdr : Nat) (ws : List Issued) : Bool :=
  let c := s.ctx t
  s.resultDue t c.pos || c.lags c.pos (bits hdr 23 23 == 1) || c.tagsHeld ws
    || ws.any fun w => w.instr.space? == some .mtx && !s.tilesReady t w.instr

/-! ### Pops, pushes and waits (R73, R74, R205 to R207, R447) -/

/-- The pops of a bundle, slot by slot and operand by operand: slot, queue and operand. -/
def popsOf (ws : List Issued) : List (Nat × Nat × Nat) :=
  ws.flatMap fun w => (Instr.uses 0 w.instr).pops.map fun p => (w.slot, p.1, p.2)

/-- The pushes of a bundle: slot, queue and part. -/
def pushesOf (ws : List Issued) : List (Nat × Nat × Nat) :=
  ws.flatMap fun w => (Instr.uses 0 w.instr).pushes.map fun p => (w.slot, p.1, p.2)

/-- How many of a list concern queue q. -/
def countOf (q : Nat) (xs : List (Nat × Nat × Nat)) : Nat := (xs.filter fun x => x.2.1 == q).length

/-- The pops that find no entry reserved by an earlier bundle; `done` are the pops before them. -/
def Context.emptyPops (c : Context) : List (Nat × Nat × Nat) → List (Nat × Nat × Nat) → List Nat
  | _, [] => []
  | done, x :: xs =>
    let rest := c.emptyPops (done ++ [x]) xs
    if (c.held x.2.1).length ≤ countOf x.2.1 done then x.1 :: rest else rest

/-- The pushes that find no room, when the bundle's own pops have left. -/
def Context.fullPushes (c : Context) (pops : List (Nat × Nat × Nat)) :
    List (Nat × Nat × Nat) → List (Nat × Nat × Nat) → List Nat
  | _, [] => []
  | done, x :: xs =>
    let rest := c.fullPushes pops (done ++ [x]) xs
    if queueDepth x.2.1 < (c.held x.2.1).length - countOf x.2.1 pops + countOf x.2.1 done + 1 then x.1 :: rest else rest

/-- What a waiting word asks: its verdict, its reason and what the context would wait for. A barrier wait that is over stays
over (R374). -/
def State.waitOf (s : State) (t : Nat) (w : Issued) : Option (Wait.Verdict × Nat × Block) :=
  let c := s.ctx t
  let x := fun (a : BitVec 6) => c.readS c.pos a.toNat
  match w.instr with
  | .twany a => some (c.anyVerdict (x a), 3, .tagAny (x a))
  | .twall a => some (c.allVerdict (x a), 3, .tagAll (x a))
  | .fence k =>
    if k.getLsbD 0 || k.getLsbD 1 then
      some (if s.fenceHolds c (k.getLsbD 0) (k.getLsbD 1) then .holds else .awaits 0xFF, 3, .fence (k.getLsbD 0) (k.getLsbD 1))
    else none
  | .bwait a g b =>
    let ph := (x a).getLsbD 0
    if c.met.map (·.1) == some c.pos then some (.holds, 4, .barrier b.toNat ph w.raw c.pos)
    else if g == 1 then some (s.barrierVerdict c true 0 ph, 7, .group ph c.pos)
    else some (s.barrierVerdict c false b.toNat ph, 4, .barrier b.toNat ph w.raw c.pos)
  | .wwait _ a => some (s.wakeVerdict t (x a).toNat, 5, .wake ((x a).toNat % 256))
  | _ => none

/-- The word of the lowest slot that raises ENGINE_FAULT at this stage. -/
def State.engineFaultAt (s : State) (t : Nat) (ws : List Issued) : Option Issued :=
  let c := s.ctx t
  let bad := c.emptyPops [] (popsOf ws) ++ c.fullPushes (popsOf ws) [] (pushesOf ws)
  ws.find? fun w => bad.contains w.slot || (s.waitOf t w).any fun v => v.1 == .never

/-- Why a context blocks: REASON, ARG and what it waits for. -/
structure Hold where
  reason : Nat
  arg : Nat
  block : Block
  deriving DecidableEq, Repr

/-- How many of the entries at the head of a queue are filled. -/
def filledPrefix : List Entry → Nat
  | [] => 0
  | e :: es => if e.filled then filledPrefix es + 1 else 0

/-- What n pops of queue q block on: the arrival of the first entry that is missing. The pop of a store-data queue never
blocks (R73, R206). -/
def Context.popHold (c : Context) (n q : Nat) : Option Hold :=
  if q < 4 then (if c.ready q n then none else some (Hold.mk 1 q (.loadq q (filledPrefix (c.held q) + 1))))
  else if q < 8 then none
  else if c.ready q 1 then none
  else some (Hold.mk 2 (q - 8) (.result q))

/-- What one word blocks on. -/
def State.wordHold (s : State) (t : Nat) (ws : List Issued) (w : Issued) : Option Hold :=
  match (Instr.uses 0 w.instr).pops.findSome? fun p => (s.ctx t).popHold (countOf p.1 (popsOf ws)) p.1 with
  | some h => some h
  | none =>
    match s.waitOf t w with
    | some (.awaits arg, reason, b) => some (Hold.mk reason arg b)
    | _ => none

/-! ### Dispatch (R63, R231) -/

/-- The time of the events that a word is ordered after when it dispatches (R231, Table 9-4). -/
def State.eventTime (s : State) (t : Nat) (w : Issued) : Nat :=
  let c := s.ctx t
  let x := fun (a : BitVec 6) => c.readS c.pos a.toNat
  let tags := fun (mask : Word) => (List.range 64).foldl (fun acc g =>
    if mask.getLsbD g && (c.tag g).set then max acc (c.tag g).time else acc) 0
  let popped := fun (q : Nat) => (((c.held q).head?).map (·.time)).getD 0
  match w.instr with
  | .twany a => tags (x a)
  | .twall a => tags (x a)
  | .tffr _ a _ => ((c.lowestTag (x a) (·.set)).map fun g => (c.tag g).time).getD 0
  | .fence k => max (if k.getLsbD 0 then c.engTime else 0) (if k.getLsbD 1 then c.redTime else 0)
  | .bwait _ g b => ((c.met.filter fun x => x.1 == c.pos).map (·.2)).getD (s.flipTime c (g == 1) b.toNat)
  | .wwait _ a => ((s.token t (x a).toNat).map (·.time)).getD 0
  | .tqp .. => popped tableQ
  | .playp .. => popped playQ
  | .rselp .. => popped selectQ
  | _ => 0

/-- Marks the first token of a list that equals `x` as taken by a context's bundle. -/
def takeFirstToken (x : Token) (who : Nat × Nat) : List Token → List Token
  | [] => []
  | y :: ys => if y == x then { y with taken := some who } :: ys else y :: takeFirstToken x who ys

/-- A WWAIT takes its token provisionally. -/
def State.takeToken (s : State) (t : Nat) (w : Issued) : State :=
  match w.instr with
  | .wwait _ a =>
    let c := s.ctx t
    match s.token t (c.readS c.pos a.toNat).toNat with
    | none => s
    | some x =>
      s.modCore (coreOf t) fun k => { k with tokens := takeFirstToken x (t, c.pos) k.tokens }
  | _ => s

/-- Pops are taken and pushes reserved, in slot order. -/
def Context.queueOps (c : Context) (ws : List Issued) : Context :=
  let c := (popsOf ws).foldl (fun c x => c.pop x.2.1 (c.pos, x.1, x.2.2)) c
  (pushesOf ws).foldl (fun c x => c.reserve x.2.1 c.pos x.1 x.2.2) c

/-- A dispatched bundle of words, none of which has started. -/
def newBundle (pos pc hdr : Nat) (ws : List Issued) : Bundle :=
  { pos := pos, pc := pc, hdr := hdr
    words := ws.map fun w => { slot := w.slot, raw := w.raw, progress := .queued, wait := none, bad := none }
    following := pc + bundleBytes hdr, target := none, effects := [], mtx := none, traps := [] }

/-- The bundle enters the slot queues and the bundle count advances by one. A BRK that it has dispatched without is met again
where it is discarded before it commits, by pre-emption or a trap (the model's choice, assumption 112). -/
def State.dispatch (s : State) (t hdr : Nat) (ws : List Issued) : State :=
  let time := ws.foldl (fun acc w => max acc (s.eventTime t w)) 0
  let s := ws.foldl (fun s w => s.takeToken t w) s
  s.modCtx t fun c =>
    let c := c.queueOps ws
    { c with
      inflight := c.inflight ++ [newBundle c.pos c.pc hdr ws]
      pos := c.pos + 1
      pc := c.pc + bundleBytes hdr
      ltime := max c.ltime time
      met := c.met.filter fun x => decide (c.pos < x.1)
      brkSkip := none }

/-- A trap of a bundle that has not dispatched is taken once every earlier bundle has committed (R88). -/
def State.dispatchTrap (s : State) (t : Nat) (tr : Trap) : State :=
  let c := s.ctx t
  if c.inflight == [] then s.suspend t tr c.pos c.pc c.pos c.pc else s

/-- The context waits for a code page (Table 4-2, FETCH). -/
def State.awaitFetch (s : State) (t va : Nat) : State :=
  (s.needPage (s.ctx t).asid va false).yieldTo t fun c =>
    { c with state := .pageWait, reason := 10, arg := 0, fetchWait := some (va / 65536) }

/-- The context blocks (Table 4-2). -/
def State.blockOn (s : State) (t : Nat) (h : Hold) : State :=
  s.yieldTo t fun c => { c with state := .blocked, reason := h.reason, arg := h.arg, block := some h.block }

/-- The words of a bundle without a BRK that is to be skipped (R126). -/
def Context.effective (c : Context) (ws : List Issued) : List Issued :=
  if c.brkSkip == some (c.pos, c.pc) then ws.filter fun w => match w.instr with
    | .brk _ => false
    | _ => true
  else ws

/-- The code of a BRK among the words. -/
def brkCode (ws : List Issued) : Option (BitVec 20) :=
  ws.findSome? fun w => match w.instr with
    | .brk i => some i
    | _ => none

/-- A fetched and checked bundle meets its conditions in the order of R447, and dispatches. An error among its code bytes is
reported, since R385 counts no fetch as consumption. -/
def State.tryDispatch (s : State) (t hdr : Nat) (ws : List Issued) (bad : Option Upset) : Out :=
  let c := s.ctx t
  let ws := c.effective ws
  if s.stalls t hdr ws then .next s
  else match s.engineFaultAt t ws with
    | some w => (s.dispatchTrap t (checkTrap 8 w.slot w.raw)).done
    | none =>
      match ws.findSome? (s.wordHold t ws) with
      | some h => (s.blockOn t h).done
      | none =>
        match brkCode ws with
        | none => ((match bad with
            | some u => s.reportUpset u
            | none => s : State).dispatch t hdr ws).done
        | some code =>
          if c.inflight == [] then execBrk code { s with focus := { ticket := t, pos := c.pos, slot := 0 } } else .next s

/-- Whether the oldest bundle of a context has a trap to report. -/
def Context.trapDue (c : Context) : Bool :=
  match c.inflight with
  | b :: _ => b.settled && (lowestTrap b.traps).isSome
  | [] => false

/-- BUNDLE_DISPATCH: the bundle at the PC of a RUNNING context is fetched, checked in the order of Table 3-15, and dispatches,
stalls, blocks, waits for its page, or traps. What its words met while it did not run comes first: a trap, or a wait
(Table 4-3). So does a pending asynchronous trap (R384), and in TRIP nothing dispatches. A context that was pre-empted in its
drain is BLOCKED again, and dispatches nothing. -/
def execBundleDispatch (t : Nat) (s : State) : Out :=
  let c := s.ctx t
  if c.state != .running then .next s
  else if c.block == some .drain then
    (s.yieldTo t fun c => { c with state := .blocked, reason := 6, arg := 0 }).done
  else if c.trapDue then (s.takeTraps t).done
  else if c.waitsFor false then (s.pageWait t 8).done
  else if c.waitsFor true then (s.pageWait t 9).done
  else if !s.powered || c.transfers || (firstDue c.pos c.pending).isSome then .next s
  else
    let f := s.fetchBundle t
    let s := s.fetchSeen t f
    match f with
    | .trap tr _ => (s.dispatchTrap t tr).done
    | .awaits va _ => (s.awaitFetch t va).done
    | .bundle hdr raws _ bad =>
      match c.checkBundle hdr raws with
      | .error tr => (s.dispatchTrap t tr).done
      | .ok ws => s.tryDispatch t hdr ws bad

/-! ### The return of load data (R87, R385) -/

/-- An earlier access of the same context to one of the same window bytes is outstanding (R242). -/
def State.windowHeld (s : State) (o : Op) : Bool :=
  s.ops.any fun x => x.who == o.who && decide (x.id < o.id) &&
    x.kind.window.any fun g => o.kind.window.any fun h => overlaps g.1 g.2 h.1 h.2

def OpKind.asSysLoad : OpKind → Option Nat
  | .sysLoad _ slot => some slot
  | _ => none

/-- The load on a link of a word. -/
def State.remoteLoad (s : State) (t pos slot : Nat) : Option Op :=
  s.ops.find? fun o => o.who == some (s.ctx t).who && o.pos == pos && o.kind.asSysLoad == some slot

/-! ### Accesses that a link has carried (R224, R413) -/

/-- The accesses to the exported region that an access to the device's own window makes. -/
def State.ownSegs (s : State) (segs : List Seg) : List Seg :=
  segs.filterMap fun g => (s.ownWindow g.1).map fun off => (s.expAddr off, g.2)

/-- The bytes of a piece at the other end of a link. -/
def State.farBytes (s : State) (g : Seg) : List Byte :=
  match s.ownWindow g.1 with
  | some off => s.readSeg noWho s.expAsid 0 (s.expAddr off, g.2)
  | none => s.peek .remote g.1 g.2

/-- The parts of a write at the other end of a link. -/
def State.farParts (s : State) (g : Nat × List Byte) : List (Place × Nat × List Byte) :=
  match s.ownWindow g.1 with
  | some off => s.partsOf noWho s.expAsid 0 (s.expAddr off) g.2
  | none => [(.remote, g.1, g.2)]

/-- A and D, and the times of the lines, for an access to the device's own window at its target. -/
def State.farTime (s : State) (segs : List Seg) (write : Bool) : State × Nat :=
  (s.mark noWho s.expAsid 0 (s.ownSegs segs) write).accessTime none noWho s.expAsid 0 s.floor (s.ownSegs segs) write

/-- An access to the device's own window waits at its target for a page. -/
def State.farAwait (s : State) (o : Op) (ps : List (Nat × Nat)) (write : Bool) : State :=
  (s.needPages s.expAsid ps write).opSet
    { o with wait := (ps.head?).map (fun p => (s.expAsid, p.1)), arrived := true }

/-- The window address of the first byte in the first of some pages of the exported region. -/
def State.farAddr (s : State) (segs : List Seg) (ps : List (Nat × Nat)) : Nat :=
  ((segs.head?).map (·.1)).getD 0 / 2 ^ 46 * 2 ^ 46 + (((ps.head?).map (·.2)).getD 0 - s.expAddr 0)

/-- What becomes of an access that has come to its target: it is refused with a cause and an address, waits, or is performed. -/
inductive Far where
  | refused (cause addr : Nat)
  | waits (s : State)
  | performed

def State.far (s : State) (o : Op) (segs : List Seg) (r w : Bool) : Far :=
  match s.windowChk segs r w with
  | .ok => .performed
  | .trap _ cause addr _ => .refused cause addr
  | .wait ps => if o.denied then .refused 4 (s.farAddr segs ps) else .waits (s.farAwait o ps w)

/-- The word of a slot of a dispatched bundle. -/
def State.wordAt (s : State) (t pos slot : Nat) : Option SlotWord :=
  ((s.ctx t).inflight.find? fun b => b.pos == pos).bind fun b => b.words.find? fun w => w.slot == slot

/-- The executing word has executed. -/
def State.finishWord (s : State) : State :=
  s.modBundle s.focus.ticket s.focus.pos fun b => b.setWord s.focus.slot fun w => { w with progress := .executed, wait := none }

/-- The executing word, a load on a link, has failed at its bundle. -/
def State.linkTrap (s : State) (o : Op) (cls cause addr : Nat) : State :=
  ((s.trap cls cause addr 0).opDrop o.id).takeTraps s.focus.ticket

/-- The data of a load on a link, as they stand at the other end now; `bad` is the cause of a parity error that they have met on
the device's network (R427). -/
def State.linkReturn (s : State) (o : Op) (i : Instr) (bad : Option Nat) : Out :=
  let segs := s.loadSegs i
  if s.windowHeld o || o.wait.isSome then .next s
  else match s.far o segs true false with
    | .refused cause addr => (s.linkTrap o 6 cause addr).done
    | .waits s' => s'.done
    | .performed =>
      match ((s.upsetOf noWho s.expAsid 0 (s.ownSegs segs)).map (·.cause)).or bad with
      | some cause => (s.linkTrap o 11 cause 0).done
      | none =>
        let bs := segs.flatMap s.farBytes
        let (s, lt) := s.farTime segs false
        let s : State := { s with floor := max s.floor lt }
        (((s.loadInto bs i).finishWord.opDrop o.id).takeTraps s.focus.ticket).done

/-- LOAD_DATA_RETURN: the data of an outstanding load return and its word has executed; data with an uncorrectable error are a
MACHINE_CHECK at its bundle. A load on a link is performed at the other end now. -/
def execLoadDataReturn (t pos slot : Nat) (s : State) : Out :=
  match s.wordAt t pos slot with
  | none => .next s
  | some w =>
    if slot != 1 || w.progress != .started then .next s
    else
      let s1 : State := { s with focus := { ticket := t, pos := pos, slot := slot } }
      match s.remoteLoad t pos slot, w.instr with
      | some o, some i => s1.linkReturn o i w.bad
      | _, _ =>
        match w.bad with
        | some cause => ((s1.trap 11 cause 0 0).takeTraps t).done
        | none => (s1.finishWord.takeTraps t).done

/-! ### The choice of a context and the end of a drain (R92, R96, R257) -/

/-- The contexts of a core in the order of R92. -/
def State.switchOrder (s : State) (k : Nat) : List Nat := (List.range 4).map fun i => 4 * k + ((s.core k).last + 1 + i) % 4

/-- A core issues from a context. -/
def State.issuing (s : State) (k : Nat) : Bool := (s.switchOrder k).any fun t => (s.ctx t).state == .running

/-- The context that a core without a RUNNING one selects among those READY now (R92). -/
def State.pick (s : State) (k : Nat) : Option Nat := (s.switchOrder k).find? fun t => (s.ctx t).state == .ready

/-- The selection of each core, made once it has lost its RUNNING context or, if none was READY then, when the first became
so; a selected context that is no longer READY is none (R92). -/
def State.selectContexts (s : State) : State :=
  { s with picks := (distinct (s.ctxs.map fun e => coreOf e.1)).filterMap fun k =>
      if s.issuing k then none
      else ((((SMap.get? s.picks k).filter fun t => (s.ctx t).state == .ready).or (s.pick k))).map fun t => (k, t) }

/-- CONTEXT_SWITCH: a core without a RUNNING context goes to the READY one that it has selected. -/
def execContextSwitch (k : Nat) (s : State) : Out :=
  if s.issuing k then .next s
  else match ((SMap.get? s.picks k).filter fun t => (s.ctx t).state == .ready).or (s.pick k) with
    | none => .next s
    | some t => (s.modCtx t fun c => { c with state := .running }).done

/-- The work of an instance that its drain waits for. -/
def State.draining (s : State) (c : Context) : Bool :=
  c.awaited != [] || (s.cores.any fun k => k.2.log.any fun e => e.who == c.who) ||
    s.ops.any fun o => o.who == some c.who && (match o.kind with
      | .mtx .. => false
      | _ => true)

/-- DRAIN_END: the drain of a context ends, which becomes EMPTY, or FAULTED where an asynchronous trap is pending. -/
def execDrainEnd (t : Nat) (s : State) : Out :=
  let c := s.ctx t
  if c.state != .blocked || c.block != some .drain || s.draining c then .next s
  else match c.pending with
    | tr :: _ => (s.takePending t tr c.pos c.pc).done
    | [] => ((s.drainMtx c.who).endInstance t false).done

end Sys2Proof.Machine
end

