-- ==== Sys2Proof/Machine/Link.lean ====
section
/-!
DEFINITION. The links: their states, flits and retries, what a fence, a refusal and an acknowledgement mean for the accesses
in flight, requests from peers, and the host's memory requests (R386, R404 to R416).
-/
namespace Sys2Proof.Machine

/-! ### Lanes and counters (Table 20-1, R408) -/

def linkCount : Nat := 10

/-- The lanes of a link. -/
def laneTotal (l : Nat) : Nat := if l < 2 then 4 else 8

/-- A 32-bit counter saturates. -/
def countUp (n k : Nat) : Nat := min (n + k) (2 ^ 32 - 1)

def State.modLink (s : State) (l : Nat) (f : Link → Link) : State := s.setLink l (f (s.link l))

/-! ### Accesses that fail (R386, R413, R414) -/

/-- A load on a link fails at its bundle. -/
def State.loadFails (s : State) (o : Op) (slot cls cause addr : Nat) : State :=
  let s := s.opDrop o.id
  match o.who.bind s.ticketOf with
  | none => s
  | some t =>
    let s : State := { s with focus := { ticket := t, pos := o.pos, slot := slot } }
    (s.trap cls cause addr 0).takeTraps t

/-- A committed store fails: an asynchronous trap whose AUX names its bundle. -/
def State.storeFails (s : State) (o : Op) (w : Who) (cls cause addr : Nat) : State :=
  ((s.opDrop o.id).loseWrite w o.id).pend w (asyncTrap cls cause addr o.pc 0)

/-- A copy fails: TERR on its tag, and no trap. -/
def State.copyFails (s : State) (o : Op) (c : Copy) : State :=
  match o.who with
  | some w => s.copyEnds o w c true
  | none => s.opEnd o true

/-! ### What a fence resolves (R386, R406, R415) -/

/-- The lines of a range of a window. -/
def windowLines (g : Seg) : List Nat :=
  if g.2 == 0 then [] else (List.range (windowLine (g.1 + g.2 - 1) - windowLine g.1 + 1)).map (· + windowLine g.1)

/-- Whether link l carries a line of a range among some links. -/
def carries (l : Nat) (ports : List Nat) (g : Seg) : Bool :=
  (windowLines g).any fun line => ports[line % ports.length]? == some l

/-- Whether link l carries an unfinished piece of an accepted copy. -/
def State.copyOn (s : State) (l : Nat) (c : Copy) : Bool :=
  c.accepted && (List.range (c.pieces - c.next)).any fun i =>
    let (off, n) := c.piece (c.next + i)
    [(c.src + off, n), (c.dst + off, n)].any fun g => inWindow g.1 && carries l (s.portsFor g.1) g

/-- Whether a member of the collective set is reached through link l (R417). -/
def State.memberOn (s : State) (l : Nat) : Bool := (List.range 256).any fun i => s.inSet i && (s.routePorts i).contains l

/-- Whether a COLL whose result is still to come has fabric scope and uses link l. -/
def State.fabOn (s : State) (l : Nat) (a : CollArg) (result : Option (List Nat)) : Bool :=
  a.scope == 2 && result.isNone && s.memberOn l

/-- The TASKID under which an instance takes part in collectives of fabric scope (R416). -/
def State.taskidOf (s : State) (w : Who) : Option Nat := (s.launchOf w).map fun x => recTaskId x.task.record

/-- Collective j of a TASKID has lost a link or a member: it fails for each participant, also for one that sends its COLL
later (R367, R417). -/
def State.loseFab (s : State) (taskid j : Nat) : State := { s with fabLost := s.fabLost ++ [(taskid, j, j + 1)] }

/-- The same for the collectives to which another device has contributed. -/
def State.loseArrivals (s : State) : State := s.fabArrivals.foldl (fun s f => s.loseFab f.2.taskid f.2.index) s

/-- Whether an operation is in flight on link l. -/
def State.onLink (s : State) (l : Nat) (o : Op) : Bool :=
  match o.kind with
  | .cpy dst src len accepted next => s.copyOn l (Copy.mk dst src len accepted next)
  | .coll a _ result => s.fabOn l a result
  | k => o.ports != [] && k.window.any (carries l o.ports)

/-- The write of its next piece that a copy has brought whole to the device's own window. -/
def State.pieceSent (s : State) (o : Op) (c : Copy) : OpKind :=
  let (off, n) := c.piece c.next
  .sysWrite [(c.dst + off, match o.who with
    | some w => s.readSeg w o.asid (s.dieOfWho w) (c.src + off, n)
    | none => [])]

/-- An access that has come whole to the device's own window and waits there is performed whatever becomes of its link; nothing
goes back to its issuer (R415). -/
def State.leaveBehind (s : State) (o : Op) (kind : OpKind) : State :=
  if o.arrived then s.opNew { o with who := none, tag := none, ports := [], kind := kind } else s

/-- An access in flight on a fenced link is resolved. Whether its target has performed it is not known; here it has not,
unless it waits there. -/
def State.resolve1 (s : State) (o : Op) : State :=
  match o.kind, o.who with
  | .sysLoad _ slot, _ => s.loadFails o slot 12 9 0
  | .sysWrite .., some w => (s.leaveBehind o o.kind).storeFails o w 12 9 0
  | .sysAmo _ _ _ _ _ _ _ land, some w => (s.leaveBehind o o.kind).amoFails o w land 12 9 0
  | .hostWrite off _ _, _ => (s.opEnd o true).report 4 0 0 [off]
  | .cpy dst src len accepted next, _ =>
    let c := Copy.mk dst src len accepted next
    (if inWindow (dst + (c.piece next).1) then s.leaveBehind o (s.pieceSent o c) else s).copyFails o c
  | .coll a _ _, some w => ((s.taskidOf w).map fun id => s.loseFab id a.index).getD s
  | _, _ => s

/-- Takes a link out of service and resolves what was in flight on it; the flits it kept go with it. -/
def State.closeLink (s : State) (l : Nat) (f : Link → Link) : State :=
  let was := (s.link l).usable
  let hit := if was then s.ops.filter (s.onLink l) else []
  let s := s.modLink l fun x => { f x with
    lanes := 0, successive := 0, retry := [], asks := none, line := [], asked := none }
  let s := hit.foldl (fun s o => s.resolve1 o) s
  (if was && s.memberOn l then s.loseArrivals else s).sendHeld

/-- A link fences with a cause: the management controller is told, and in host-assisted mode the host (R407); the mode is
the one in force now (R424). -/
def State.fenceLink (s : State) (l cause : Nat) : State :=
  let hw := s.hwMode 7
  let s := s.closeLink l fun x => { x with state := .fenced, fences := countUp x.fences 1, fcause := cause, hw := hw }
  let s := s.report 3 l 0 [l, cause]
  if hw then s else s.raiseService 7 0 0 l none

/-! ### LCTL (R406, R407) -/

/-- A write of LCTL of link l. -/
def State.lctlWrite (s : State) (l v : Nat) : State :=
  let x := s.link l
  let en := bits v 0 0 == 1
  let s := s.setLink l { x with allowdeg := bits v 2 2 == 1, en := en }
  if !en then
    (if x.state == .down then s else s.closeLink l fun x => { x with state := .down, fcause := 5 })
  else if x.state == .down then
    s.modLink l fun x => { x with
      state := .training, lanes := 0, fences := 0, replays := 0, feccor := 0, successive := 0, retrains := 0
      expects := 0, sends := 0, retry := [], asks := none, line := [], asked := none }
  else if x.state == .fenced && bits v 1 1 == 1 then s.modLink l fun x => { x with state := .training }
  else s

/-- A write of LCTL whose event is the one named. -/
def State.lctlEvent (s : State) (l : Nat) (v : Word) (f : Link → Nat → Bool) : Out :=
  if l < linkCount && f (s.link l) v.toNat then (s.lctlWrite l v.toNat).done else .next s

def execLinkEnable (l : Nat) (v : BitVec 64) (s : State) : Out :=
  s.lctlEvent l v fun x v => x.state == .down && bits v 0 0 == 1

def execLinkDisable (l : Nat) (v : BitVec 64) (s : State) : Out :=
  s.lctlEvent l v fun x v => x.state != .down && bits v 0 0 == 0

def execRetrain (l : Nat) (v : BitVec 64) (s : State) : Out :=
  s.lctlEvent l v fun x v => x.state == .fenced && bits v 0 0 == 1 && bits v 1 1 == 1

/-! ### Training and lanes (Table 20-2) -/

/-- An event of a link that is in one of the states that admit it. -/
def State.linkEvent (s : State) (l : Nat) (ok : Link → Bool) (k : State → State) : Out :=
  if l < linkCount && ok (s.link l) then (k s).done else .next s

/-- Whether half the lanes suffice. -/
def Link.half (x : Link) (l lanes : Nat) : Bool := x.allowdeg && decide (laneTotal l ≤ 2 * lanes)

/-- TRAINING_COMPLETE: all lanes are trained, or at least half where that is allowed. -/
def execTrainingComplete (l lanes : Nat) (s : State) : Out :=
  s.linkEvent l (fun x => x.state == .training && (decide (laneTotal l ≤ lanes) || x.half l lanes)) fun s =>
    (s.modLink l fun x =>
      if laneTotal l ≤ lanes then { x with state := .up, lanes := laneTotal l }
      else { x with state := .degraded, lanes := laneTotal l / 2 }).sendHeld

/-- TRAINING_TIMEOUT: too few lanes are trained after 1 ms. -/
def execTrainingTimeout (l lanes : Nat) (s : State) : Out :=
  s.linkEvent l (fun x => x.state == .training && !(decide (laneTotal l ≤ lanes) || x.half l lanes)) fun s => s.fenceLink l 4

/-- LANE_FAILURE: `lanes` lanes are left. Where they suffice, the flits in the retry buffer are replayed. -/
def execLaneFailure (l lanes : Nat) (s : State) : Out :=
  s.linkEvent l (fun x => x.usable && decide (lanes < laneTotal l)) fun s =>
    if (s.link l).half l lanes then s.modLink l fun x =>
      { x with state := .degraded, lanes := laneTotal l / 2, line := x.retry }
    else s.fenceLink l 2

/-- LANE_RETRAINING: a DEGRADED link has all its lanes again. -/
def execLaneRetraining (l : Nat) (s : State) : Out :=
  s.linkEvent l (fun x => x.state == .degraded) fun s => s.modLink l fun x =>
    { x with state := .up, lanes := laneTotal l, line := x.retry }

/-! ### Flits (R405) -/

/-- The CRC-32C of a flit, over its header and payload. -/
def flitCrc (header payload : List Byte) : Nat := Nat.xor (crcBytes 0xFFFFFFFF (header ++ payload)) 0xFFFFFFFF

/-- Whether a flit of 64 payload bytes has the CRC that it carries. -/
def flitSound (f : Flit) : Bool := f.payload.length == 64 && f.crc == flitCrc f.header f.payload

/-- FLIT_RECEIVE: the next flit in sequence is taken; any other is discarded, and the sender is asked to replay from the one
expected, whose own failures are counted. -/
def execFlitReceive (l : Nat) (f : Flit) (s : State) : Out :=
  s.linkEvent l (·.usable) fun s => s.modLink l fun x =>
    let x : Link := { x with feccor := countUp x.feccor f.corrected }
    if flitSound f && f.seq == x.expects then { x with successive := 0, expects := x.expects + 1, asks := none }
    else { x with
      replays := countUp x.replays 1
      successive := if !flitSound f && f.seq == x.expects then x.successive + 1 else x.successive
      asks := some x.expects }

/-- A port sends a flit of 64 payload bytes under its next number, where its retry buffer of 512 has room for it: it is on its
way to the partner, and kept for replay. -/
def State.sendFlit (s : State) (l : Nat) (header payload : List Byte) : State :=
  let x := s.link l
  if l < linkCount && x.usable && decide (x.retry.length < 512) && payload.length == 64 then
    let f := Flit.mk x.sends header payload (flitCrc header payload) 0
    s.setLink l { x with sends := x.sends + 1, retry := x.retry ++ [f], line := x.line ++ [f] }
  else s

/-- The first flit on its way comes to the partner, or is lost. -/
def State.flitPasses (s : State) (l : Nat) : State := s.modLink l fun x => { x with line := x.line.drop 1 }

/-- The partner asks for a replay from a flit: the port sends it and those after it again from its retry buffer. -/
def State.flitsAsked (s : State) (l seq : Nat) : State :=
  if (s.link l).usable && (s.link l).retry.any (fun f => f.seq == seq) then
    s.modLink l fun x => { x with
      line := x.line ++ x.retry.filter fun f => decide (seq ≤ f.seq)
      asked := match x.asked with
        | some (q, n) => some (seq, if q == seq then n + 1 else 1)
        | none => some (seq, 1) }
  else s

/-- The partner has taken every flit below a number. -/
def State.flitsTaken (s : State) (l seq : Nat) : State :=
  s.modLink l fun x => { x with
    retry := x.retry.filter fun f => decide (seq ≤ f.seq), asked := x.asked.filter fun a => decide (seq ≤ a.1) }

/-- A flit has failed, and failed again in 16 successive replays: one that this port expects, or one that its partner has asked
for again and again. -/
def Link.exhausted (x : Link) : Bool := decide (17 ≤ x.successive) || x.asked.any fun a => decide (17 ≤ a.2)

/-- RETRY_EXHAUSTED: a flit's 16 successive replays have failed. -/
def execRetryExhausted (l : Nat) (s : State) : Out :=
  s.linkEvent l (fun x => x.usable && x.exhausted) fun s => s.fenceLink l 1

/-- PARTNER_TIMEOUT: the link partner has acknowledged nothing for 1 ms. -/
def execPartnerTimeout (l : Nat) (s : State) : Out := s.linkEvent l (·.usable) fun s => s.fenceLink l 3

/-- LINK_RETRAINING: in hardware mode the device retrains a FENCED link by itself, up to three times (R407). -/
def execLinkRetraining (l : Nat) (s : State) : Out :=
  s.linkEvent l (fun x => x.hw && x.state == .fenced && x.en && decide (x.retrains < 3)) fun s =>
    s.modLink l fun x => { x with state := .training, retrains := x.retrains + 1 }

/-! ### Answers (R413, R414) -/

/-- The first byte of an access in the page where its target has refused it (R446). -/
def refusedAt (segs : List Seg) (page : Nat) : Nat :=
  match (pagesOf segs)[page]? with
  | some p => p.2
  | none => ((segs.head?).map (·.1)).getD 0

/-- REFUSAL: a peer refuses an access with cause SPACE, PERM or PAGE at one of the pages it touches, the host with SPACE. A
load's fault gives the first byte there, a committed write's the address of the window (R446). -/
def execRefusal (id : Nat) (r : PeerRefusal) (s : State) : Out :=
  match s.opGet id with
  | none => .next s
  | some o =>
    let segs := o.kind.window
    let va := ((segs.head?).map (·.1)).getD 0
    let cause := if hostBase ≤ va then 1 else r.cause
    if cause != 1 && cause != 3 && cause != 4 then .next s
    else match o.kind, o.who with
      | .sysLoad _ slot, _ => ((s.loadFails o slot 6 cause (refusedAt segs r.page)).sendHeld).done
      | .sysWrite .., some w => if o.ports == [] then .next s else ((s.storeFails o w 6 cause va).sendHeld).done
      | .sysAmo _ _ _ _ _ _ _ land, some w =>
        if o.ports == [] then .next s else ((s.amoFails o w land 6 cause va).sendHeld).done
      | .hostWrite off _ _, _ => if o.ports == [] then .next s else (((s.opEnd o true).report 4 0 0 [off]).sendHeld).done
      | .cpy dst src len true next, _ =>
        if inWindow dst || inWindow src then ((s.copyFails o (Copy.mk dst src len true next)).sendHeld).done else .next s
      | _, _ => .next s

/-- A write of an operation reaches the host window. -/
def OpKind.writesHost : OpKind → Bool
  | .sysWrite segs => segs.any fun g => decide (hostBase ≤ g.1)
  | .cpy dst .. => decide (hostBase ≤ dst) && inWindow dst
  | _ => false

/-- The issuers of a host write's earlier host-window writes that are still in flight (R410). -/
def State.hostHeld (s : State) (after : List Who) : Bool := s.ops.any fun o => o.kind.writesHost && o.who.any after.contains

/-- The target's part of a store. -/
def State.farWrite (s : State) (segs : List (Nat × List Byte)) : State :=
  let (s, lt) := s.farTime (segs.map fun g => (g.1, g.2.length)) true
  let s := s.writeParts (segs.flatMap s.farParts) lt
  { s with floor := max s.floor lt }

/-- A committed store is performed at its target, or refused there: its trap gives the first address of the store (R446). -/
def State.ackWrite (s : State) (o : Op) (w : Who) (segs : List (Nat × List Byte)) : State :=
  let ranges := segs.map fun g => (g.1, g.2.length)
  match s.far o ranges false true with
  | .refused cause _ => s.storeFails o w 6 cause (((segs.head?).map (·.1)).getD 0)
  | .waits s => s
  | .performed => (s.farWrite segs).opDrop o.id

/-- The target's part of an AMO (`op` given) or CAS: one indivisible read and write, and the old value. -/
def State.farAtomic (s : State) (op : Option Nat) (n va operand expected : Nat) : State × Nat :=
  let m := leNat (s.farBytes (va, n))
  let new := match op with
    | some f => some (amoValue f (8 * n) m operand)
    | none => if m == expected then some operand else none
  let (s, lt) := s.farTime [(va, n)] new.isSome
  let s := match new with
    | some x => s.writeAtomic (s.farParts (va, leBytes n x)) lt
    | none => s
  ({ s with floor := max s.floor lt }, m)

/-- An AMO or CAS is performed at its target and its old value lands, or it is refused. -/
def State.ackAtomic (s : State) (o : Op) (w : Who) (op : Option Nat) (wide : Bool) (va operand expected dest land : Nat) :
    State :=
  let n := if wide then 8 else 4
  match s.far o [(va, n)] true true with
  | .refused cause _ => s.amoFails o w land 6 cause va
  | .waits s => s
  | .performed =>
    match s.upsetOf noWho s.expAsid 0 (s.ownSegs [(va, n)]) with
    | some u => s.amoFails o w land 11 u.cause 0
    | none =>
      let (s, m) := s.farAtomic op n va operand expected
      let l : Landing :=
        { write := .s dest (oldWord wide (op == some 3 || op == some 4) m), pos := land, src := o.pos }
      (s.opDrop o.id).landWho w o.id (some l)

/-- ACKNOWLEDGEMENT: the far side has performed a write, AMO or CAS. In the device's own window it is performed, refused or
waits for its page (R224, R413). -/
def execAcknowledgement (id : Nat) (s : State) : Out :=
  match s.opGet id with
  | none => .next s
  | some o =>
    if o.ports == [] || s.windowHeld o || o.wait.isSome then .next s
    else match o.kind, o.who with
      | .sysWrite segs, some w => ((s.ackWrite o w segs).sendHeld).done
      | .hostWrite off bs after, _ =>
        if s.hostHeld after then .next s else (((s.poke .remote (hostBase + off) bs).opEnd o false).sendHeld).done
      | .sysAmo op wide _ va operand expected dest land, some w =>
        ((s.ackAtomic o w op wide va operand expected dest land).sendHeld).done
      | _, _ => .next s

/-- A store, AMO or CAS whose link has fenced goes on at the device's own window, once its page has been served or refused
there. -/
def State.goOn (s : State) (o : Op) : State :=
  match o.kind with
  | .sysWrite segs =>
    match s.far o (segs.map fun g => (g.1, g.2.length)) false true with
    | .refused .. => s.opDrop o.id
    | .waits s => s
    | .performed => (s.farWrite segs).opDrop o.id
  | .sysAmo op wide _ va operand expected _ _ =>
    let segs := [(va, if wide then 8 else 4)]
    match s.far o segs true true with
    | .refused .. => s.opDrop o.id
    | .waits s => s
    | .performed =>
      match s.upsetOf noWho s.expAsid 0 (s.ownSegs segs) with
      | some u => (s.reportUpset u).opDrop o.id
      | none => ((s.farAtomic op (if wide then 8 else 4) va operand expected).1).opDrop o.id
  | _ => s

/-! ### Requests from peers and from the host (R409, R413) -/

/-- What a peer's request reads, and whether it reads and writes. -/
def peerNeeds : PeerOp → Nat × Bool × Bool
  | .read n => (n, true, false)
  | .write bs => (bs.length, false, true)
  | .amo _ wide _ => (if wide then 8 else 4, true, true)
  | .cas wide _ _ => (if wide then 8 else 4, true, true)

/-- What a peer's request leaves in the bytes it finds as m. -/
def peerResult (m n : Nat) : PeerOp → Option (List Byte)
  | .read _ => none
  | .write bs => some bs
  | .amo op _ x => some (leBytes n (amoValue op (8 * n) m x.toNat))
  | .cas _ expected new => if m == expected.toNat % 2 ^ (8 * n) then some (leBytes n new.toNat) else none

/-- An AMO or CAS hits comparators as R376 lists it, and demotes no table (Table 12-2). -/
def peerAtomic : PeerOp → Bool
  | .amo .. => true
  | .cas .. => true
  | _ => false

/-- A peer's request is performed: what it reads goes back over the link. An error among the bytes it reads is reported, and
nothing is then written. -/
def State.peerPerform (s : State) (r : PeerRequest) : State :=
  let (n, rd, wr) := peerNeeds r.op
  let asid := s.expAsid
  let va := s.expAddr r.off
  let segs := [(va, n)]
  let bad := if rd then s.upsetOf noWho asid 0 segs else none
  let s := match bad with
    | some u => s.reportUpset u
    | none => s
  let m := leNat (s.readSeg noWho asid 0 (va, n))
  let s := s.mark noWho asid 0 segs wr
  let (s, lt) := if rd then s.accessTime none noWho asid 0 s.floor segs false else (s, s.floor)
  match bad, peerResult m n r.op with
  | none, some bs =>
    let (s, lt) := s.accessTime none noWho asid 0 lt segs true
    let ws := s.partsOf noWho asid 0 va bs
    let s := if peerAtomic r.op then s.writeAtomic ws lt else s.writeParts ws lt
    { s with floor := max s.floor lt }
  | _, _ => { s with floor := max s.floor lt }

/-- A peer's request at its target: it is translated in the exported region's address space and performed, waits there for
its page, or is refused, which leaves nothing here. -/
def State.peerRequest (s : State) (r : PeerRequest) : State :=
  let (n, rd, wr) := peerNeeds r.op
  match s.exportChk r.off n rd wr with
  | .trap .. => s
  | .wait ps =>
    (s.needPages s.expAsid ps wr).opNew
      { id := 0, who := none, asid := s.expAsid, pos := 0, pc := 0, tag := none, time := 0,
        wait := (ps.head?).map (fun p => (s.expAsid, p.1)), denied := false, failed := false, ports := [], kind := .peer r }
  | .ok => s.peerPerform r

/-- A request that has waited at this target goes on, once its page has been served or refused. -/
def State.goPeer (s : State) (o : Op) (r : PeerRequest) : State :=
  if o.denied then s.opDrop o.id else (s.opDrop o.id).peerRequest r

/-- PEER_ACCESS: an access from a peer comes over a usable peer link. -/
def execPeerAccess (r : PeerRequest) (s : State) : Out :=
  if r.link < 2 || 10 ≤ r.link || !(s.link r.link).usable || (peerNeeds r.op).1 == 0 then .next s
  else (s.peerRequest r).done

/-- HOST_MEMORY_REQUEST: the host reads or writes device physical memory over a usable host link, untranslated; Table 12-2 does
not count its writes. BANK lines keep no times (R233). -/
def execHostMemoryRequest (r : HostRequest) (s : State) : Out :=
  match r with
  | .read l pa n =>
    if 2 ≤ l || !(s.link l).usable then .next s
    else if 2 ^ 52 < pa + n then .fault .physicalRange
    else
      let s := match s.upsetIn .phys pa n with
        | some u => s.reportUpset u
        | none => s
      let (s, lt) := s.homeTime s.floor pa n false
      ({ s with floor := max s.floor lt } : State).done
  | .write l pa bs =>
    if 2 ≤ l || !(s.link l).usable then .next s
    else if 2 ^ 52 < pa + bs.length then .fault .physicalRange
    else
      let (s, lt) := s.homeTime s.floor pa bs.length true
      (({ s with floor := max s.floor lt } : State).writePhys pa bs).done

end Sys2Proof.Machine
end

