-- ==== Sys2Proof/Machine/Signature.lean ====
section
/-!
DEFINITION. ECDSA over the curve P-384, which the spec names for firmware images (R420), as FIPS 186-5 and SP 800-186 define
it.
-/
namespace Sys2Proof.Machine

/-- The prime of the curve's field. -/
def p384 : Nat := 2 ^ 384 - 2 ^ 128 - 2 ^ 96 + 2 ^ 32 - 1

/-- The order of the curve's base point. -/
def p384Order : Nat :=
  0xffffffffffffffffffffffffffffffffffffffffffffffffc7634d81f4372ddf581a0db248b0a77aecec196accc52973

/-- The curve is y² = x³ - 3x + b. -/
def p384B : Nat :=
  0xb3312fa7e23ee7e4988e056be3f82d19181d9c6efe8141120314088f5013875ac656398d8a2ed19d2a85c8edd3ec2aef

/-- A point of the curve; none is the point at infinity. -/
abbrev Point := Option (Nat × Nat)

def p384Base : Point := some
  (0xaa87ca22be8b05378eb1c71ef320ad746e1d3b628ba79b9859f741e082542a385502f25dbf55296c3a545e3872760ab7,
   0x3617de4a96262c6f5d9e98bf9292dc29f8f41dbd289a147ce9da3113b5f0b8c00a60b1ce1d7e819d7a431d7c90ea0e5f)

/-- x to the e-th modulo m, over n bits of the exponent. -/
def powerMod (m : Nat) : Nat → Nat → Nat → Nat
  | 0, _, _ => 1 % m
  | n + 1, x, e => (if e % 2 == 1 then x else 1) * powerMod m n (x * x % m) (e / 2) % m

/-- The inverse modulo a prime of 384 bits. -/
def inverseMod (m x : Nat) : Nat := powerMod m 384 x (m - 2)

/-- The third point of a line of slope k through two points, mirrored. -/
def chord (k x1 y1 x2 : Nat) : Point :=
  let x3 := (k * k + 2 * p384 - x1 - x2) % p384
  some (x3, (k * (x1 + p384 - x3) + p384 - y1) % p384)

/-- The sum of two points. -/
def Point.add : Point → Point → Point
  | none, q => q
  | p, none => p
  | some (x1, y1), some (x2, y2) =>
    if x1 != x2 then chord ((y2 + p384 - y1) * inverseMod p384 (x2 + p384 - x1) % p384) x1 y1 x2
    else if (y1 + y2) % p384 == 0 then none
    else chord ((3 * x1 * x1 + p384 - 3) * inverseMod p384 (2 * y1) % p384) x1 y1 x2

/-- A point k times, over n bits of k. -/
def Point.times : Nat → Nat → Point → Point
  | 0, _, _ => none
  | n + 1, k, p => Point.add (if k % 2 == 1 then p else none) (Point.times n (k / 2) (Point.add p p))

/-- A point of the curve from the 96 bytes of a key: the two coordinates, each big-endian (assumption 6). -/
def keyPoint (key : List Byte) : Point :=
  let x := beNat (key.take 48)
  let y := beNat (key.drop 48)
  if key.length == 96 && decide (x < p384) && decide (y < p384)
      && y * y % p384 == (x * x * x + (p384 - 3) * x + p384B) % p384 then some (x, y)
  else none

/-- Whether a signature, r and then s of 384 bits each, is that of a digest under a key. -/
def signatureValid (key : List Byte) (digest signature : Nat) : Bool :=
  let r := signature / 2 ^ 384
  let s := signature % 2 ^ 384
  let w := inverseMod p384Order s
  let sum := Point.add (Point.times 384 (digest * w % p384Order) p384Base)
    (Point.times 384 (r * w % p384Order) (keyPoint key))
  (keyPoint key).isSome && decide (0 < r) && decide (r < p384Order) && decide (0 < s) && decide (s < p384Order)
    && sum.any fun p => p.1 % p384Order == r

end Sys2Proof.Machine
end

