-- ==== Sys2Proof/Machine/Management.lean ====
section
/-!
DEFINITION. The device register block, the answers of the host, power, the event log, firmware and keys, and device reset
(R226, R244, R337, R344, R398, R411, R418 to R426).
-/
namespace Sys2Proof.Machine

/-! ### Registers that change at rest only -/

/-- Every context of the device is EMPTY, those of pre-empted launches among them. -/
def State.allEmpty (s : State) : Bool :=
  (s.ctxs.all fun e => e.2.state == .empty) && s.launches.all fun e => e.2.saved == []

/-- The generic lines that the ways of the partition held are written back and dropped (assumption 82). -/
def State.dropLines (s : State) : State := (s.lines.map (·.1)).foldl (fun s l => s.evict l) s

/-- A write of LSCR: WAYS and OWNER change when every context is EMPTY; after a change the partition reads zero, and more ways
take the place of generic lines; otherwise ERR is set (R226, Table 9-2). -/
def State.lscrWrite (s : State) (v : Nat) : State :=
  if !s.allEmpty then { s with lscrReg := s.lscrReg ||| 16 }
  else
    let old := s.lscrReg.toNat
    let err := bits old 4 4 * (1 - bits v 4 4)
    let new := bits v 63 48 * 2 ^ 48 + min 8 (bits v 3 0)
    let s : State := { s with lscrReg := BitVec.ofNat 64 (new + err * 16) }
    if new == bits old 63 48 * 2 ^ 48 + bits old 3 0 then s
    else
      let s : State := { s with lscr := [], upsets := s.upsets.filter fun u => u.place != .lscr }
      if bits old 3 0 < min 8 (bits v 3 0) then s.dropLines else s

def execLscr (v : BitVec 64) (s : State) : Out := (s.lscrWrite v.toNat).done

/-- A write of ASTB (Table 10-1, R244). -/
def State.astbWrite (s : State) (v : Nat) : State :=
  if s.allEmpty then { s with astb := BitVec.ofNat 64 (bits v 51 21 * 2 ^ 21 + bits v 0 0) } else s

def execAstb (v : BitVec 64) (s : State) : Out := (s.astbWrite v.toNat).done

/-- A write of MODESEL; bit 6 changes only while every queue with a fixture list is DISABLED (R424). -/
def State.modeselWrite (s : State) (v : Nat) : State :=
  let free := s.queues.all fun e => e.2.fix == 0 || e.2.state == .disabled
  let bit6 := if free then bits v 6 6 else bits s.modesel.toNat 6 6
  { s with modesel := BitVec.ofNat 64 (bits v 9 7 * 128 + bit6 * 64 + bits v 5 0) }

def execModesel (v : BitVec 64) (s : State) : Out := (s.modeselWrite v.toNat).done

/-! ### SVCDONE (R425, Table 21-8) -/

/-- The outstanding request that the host was sent under a SEQ. -/
def State.asked (s : State) (seq : Nat) : Option Service :=
  s.services.find? fun v => !v.hw && v.seq == some seq && v.answer.isNone

/-- An answer that a later step acts on. -/
def State.answered (s : State) (v : Service) (a : Nat × Nat × Nat) : State :=
  { s with services := s.services.map fun x => if x.id == v.id then { x with answer := some a } else x }

/-- The pages of a COLLAPSING leaf that waits for the host, or one page. -/
def State.replayed (s : State) (asid p : Nat) : Nat :=
  ((s.collapsing.find? fun c => c.asid == asid && c.page == p && c.stage == 2).map (·.count)).getD 1

/-- What an answer with a verdict (0 done or pass), a REASON and an ARG brings about. The host has written the leaf of a
collapsed page before it answers; its ARG places a spilled row (Table 21-8). -/
def State.serve (s : State) (v : Service) (verdict reason arg : Nat) : State :=
  let p := v.addr / 65536
  match v.func with
  | 0 => s.answered v (verdict, reason, arg)
  | 1 => (s.serviceDrop v.id).finishPages v.asid p (s.replayed v.asid p) (verdict != 0)
  | 2 =>
    let s := s.serviceDrop v.id
    match s.collapsing.find? fun c => c.asid == v.asid && c.page == p && c.stage == 1 with
    | some c => s.startReplay c.asid c.page c.count
    | none => s
  | 4 => (match v.op with
    | some lidx => s.placeSpill v.asid v.aux lidx arg
    | none => s).serviceDrop v.id
  | 5 => s.answered v (verdict, reason, arg)
  | 9 =>
    match v.op.bind s.opGet with
    | some o => match o.kind with
      | .scrub pool slot =>
        let s := (s.serviceDrop v.id).opDrop o.id
        match s.scrubbed o.asid pool slot with
        | some p => if verdict == 0 then s.scrubPage o.asid p slot else s
        | none => s
      | _ => s.serviceDrop v.id
    | none => s.serviceDrop v.id
  | _ => s.serviceDrop v.id

/-- A written SVCDONE: a VERDICT of 2 or more reads as 1 (Table 21-7). -/
def answerWord (x : Nat) : Nat := x / 2 ^ 8 % 2 ^ 56 * 2 ^ 8 + min 1 (bits x 7 0)

/-- SVCDONE: the host answers the request with a SEQ; an answer to no outstanding request is ignored. -/
def execSvcdone (v : BitVec 64) (s : State) : Out :=
  let x := answerWord v.toNat
  let s : State := { s with svcdone := BitVec.ofNat 64 x }
  match s.asked (bits x 63 32) with
  | none => s.done
  | some r => (s.serve r (bits x 7 0) (bits x 15 8) (bits x 31 16)).done

/-! ### Power (R422, R423) -/

/-- The STATE codes of Table 21-3. -/
def Power.code : Power → Nat
  | .normal => 0 | .capped => 1 | .hot => 2 | .trip => 3

/-- A change of power state makes an event, with the sensor values that have brought it about (R419, Table 21-2). -/
def State.setPower (s : State) (p : Power) (values : List Nat) : State :=
  if s.lemant.power == p then s
  else ({ s with lemant := { s.lemant with power := p } } : State).report 5 0 0 (p.code :: values)

/-- 115 °C in quarter degrees, and 48–54 V in units of 10 mV. -/
def tripsAt (die volt : Nat) : Bool := decide (460 ≤ die) || decide (volt < 4800) || decide (5400 < volt)

/-- A sample has the points of Table 21-1: 12 in each of 4 compute dies, 4 in each of 8 cache dies and 2 I/O dies, one in each
of 8 stacks, and a rail current for each of 14 dies. -/
def Sample.whole (x : Sample) : Bool := x.dies.length == 96 && x.rails.length == 14

/-- The values of a sample that the rows of Table 21-4 judge. -/
def Sample.values (x : Sample) : List Nat := [x.dies.foldl max 0, x.inlet, x.volts, x.average]

/-- The conditions of TRIP, of HOT and of its end in a sample. -/
def Sample.trips (x : Sample) : Bool := (x.dies.any fun d => tripsAt d x.volts) || tripsAt 0 x.volts
def Sample.heats (x : Sample) : Bool := (x.dies.any fun d => decide (420 ≤ d)) || decide (180 ≤ x.inlet)
def Sample.cooled (x : Sample) : Bool := (x.dies.all fun d => decide (d ≤ 380)) && decide (x.inlet ≤ 160)

/-- The power state after a sample (Table 21-4). -/
def nextPower (p : Power) (limit : Nat) (x : Sample) : Power :=
  if Sample.trips x then .trip
  else match p with
    | .trip => .trip
    | .hot => if Sample.cooled x then (if limit < x.average then .capped else .normal) else .hot
    | .capped => if Sample.heats x then .hot else .capped
    | .normal => if Sample.heats x then .hot else if limit < x.average then .capped else .normal

/-- SENSOR_SAMPLE: Lemant samples its sensors and judges the power state. -/
def execSensorSample (x : Sample) (s : State) : Out :=
  if !Sample.whole x then .next s
  else
    let s : State := { s with lemant := { s.lemant with sample := some x, restarting := false } }
    (s.setPower (nextPower s.lemant.power s.lemant.limit x) (Sample.values x)).done

/-- CAP_RELEASE: the average has stayed below 95 % of LIMIT for 100 ms. -/
def execCapRelease (s : State) : Out :=
  if s.lemant.power == .capped && s.lemant.sample.any (fun x => decide (100 * x.average < 95 * s.lemant.limit)) then
    (s.setPower .normal ((s.lemant.sample.map Sample.values).getD [])).done
  else .next s

/-- FIXED_COMPARATOR_TRIP: the thresholds of TRIP hold while Lemant restarts (R420). -/
def execFixedComparatorTrip (die volt : Nat) (s : State) : Out :=
  if s.lemant.restarting && tripsAt die volt then
    (({ s with lemant := { s.lemant with sample := none } } : State).setPower .trip [die, volt]).done
  else .next s

/-- A write of PCAP: LIMIT is clamped, and TRIP ends if its conditions have cleared. -/
def State.pcapWrite (s : State) (v : Nat) : State :=
  let s : State := { s with lemant := { s.lemant with limit := max 2000 (min 6600 (bits v 15 0)) } }
  if s.lemant.power == .trip && s.lemant.sample.any (fun x => !Sample.trips x) then
    s.setPower .normal ((s.lemant.sample.map Sample.values).getD [])
  else s

def execPcap (v : BitVec 64) (s : State) : Out := (s.pcapWrite v.toNat).done

/-! ### The log, firmware and keys (R419 to R421) -/

/-- EVENT_LOG_READ: the oldest n records are read; the log keeps them. -/
def execEventLogRead (n : Nat) (s : State) : Out :=
  ({ s with lemant := { s.lemant with readOut := s.lemant.log.take n } } : State).done

/-- Both checks of an image: its signature, over its SHA-384 digest, by the key whose hash is fused (SHA-384 too, assumption
6), and its security version. -/
def imagePasses (fused fusedKey : Nat) (x : FirmwareImage) : Bool :=
  sha384 x.key == fusedKey && signatureValid x.key (sha384 x.bytes) x.signature
    && decide (fused ≤ x.security)

/-- FIRMWARE_UPDATE: the image goes into the inactive slot, which is pending once both checks have passed. -/
def execFirmwareUpdate (image : FirmwareImage) (s : State) : Out :=
  let l := s.lemant
  let l : Lemant := { l with pending := imagePasses l.fused l.fusedKey image }
  let l : Lemant := if l.active then { l with slotA := some image } else { l with slotB := some image }
  ({ s with lemant := l } : State).done

/-- LEMANT_RESET: the boot ROM starts the pending slot, or the other one where the last start was not confirmed. -/
def execLemantReset (s : State) : Out :=
  let l := s.lemant
  ({ s with lemant := { l with
      active := if l.pending || l.revert then !l.active else l.active
      confirmed := if l.pending then false else l.confirmed || l.revert
      pending := false
      revert := false
      restarting := true } } : State).done

/-- FIRMWARE_CONFIRMATION: firmware newly started from a pending slot confirms itself in time. -/
def execFirmwareConfirmation (s : State) : Out :=
  if s.lemant.confirmed || s.lemant.revert then .next s
  else ({ s with lemant := { s.lemant with confirmed := true, restarting := false } } : State).done

/-- FIRMWARE_CONFIRMATION_TIMEOUT: 60 s have passed without it, and the next reset starts the other slot. -/
def execFirmwareConfirmationTimeout (s : State) : Out :=
  if s.lemant.confirmed then .next s
  else ({ s with lemant := { s.lemant with revert := true } } : State).done

/-- KEY_SLOT_LOAD: an authenticated request loads a key slot with an AES-256-XTS key of 512 bits. -/
def execKeySlotLoad (load : KeyLoad) (authenticated : Bool) (s : State) : Out :=
  if !authenticated || 256 ≤ load.slot then .next s
  else ({ s with lemant := { s.lemant with keys := SMap.set s.lemant.keys load.slot (load.key % 2 ^ 512) } } : State).done

/-- DEVICE_RESET: the device takes its reset values. The schedule, the memories outside the chip and Lemant stand apart. -/
def execDeviceReset (s : State) : Out :=
  .next { State.reset with
    agenda := s.agenda
    mem := s.mem
    remote := s.remote
    upsets := s.upsets.filter fun u => u.place == .phys && u.cause == 8
    nextId := s.nextId
    freeIx := s.freeIx
    lemant := { s.lemant with power := .normal, limit := 6600 } }

/-! ### The device register block (R337, Table 14-8) -/

/-- Every peer link is DOWN (R411). -/
def State.peersDown (s : State) : Bool := (List.range 8).all fun k => (s.link (k + 2)).state == .down

/-- FCMD as a register. -/
def State.fcmdAny (s : State) (v : Word) : State :=
  (s.fcmdWrite v).command (bits v.toNat 2 0) (bits v.toNat 63 48) (bits v.toNat 42 32) 0

/-- A write of QBASE, FIXB or FIXN takes effect while the queue is DISABLED (R344, R398). -/
def State.restQueue (s : State) (q : Nat) (f : Queue → Queue) : State :=
  if (s.queue q).state == .disabled then s.modQueue q f else s

/-- A write among the single registers at the head of the block. -/
def State.headWrite (s : State) (off : Nat) (v : Word) : Out :=
  let x := v.toNat
  match off with
  | 0x00 => (s.astbWrite x).done
  | 0x08 => (s.lscrWrite x).done
  | 0x10 => (s.modeselWrite x).done
  | 0x18 => execKick v s
  | 0x20 =>
    let code := bits s.kstat.toNat 15 8
    let kept := code - Nat.land code (bits x 15 8)
    ({ s with kstat := BitVec.ofNat 64 (bits s.kstat.toNat 7 0 + kept * 2 ^ 8) } : State).done
  | 0x28 => execUnmap v s
  | 0x30 =>
    let w := bits s.ftriage.toNat 63 56 * 2 ^ 56 + bits x 55 12 * 2 ^ 12 + bits x 5 0
    ({ s with ftriage := BitVec.ofNat 64 w } : State).done
  | 0x38 => (s.fcmdAny v).done
  | 0x40 => (if s.allEmpty then { s with saveb := BitVec.ofNat 64 (bits x 51 16 * 2 ^ 16) } else s).done
  | 0x48 => (if s.allEmpty then { s with savel := BitVec.ofNat 64 (bits x 35 0) } else s).done
  | 0x50 => (if s.peersDown then { s with fabric := BitVec.ofNat 64 (bits x 7 0) } else s).done
  | 0x58 => (if s.peersDown then { s with expb := BitVec.ofNat 64 (bits x 63 48 * 2 ^ 48 + bits x 39 0) } else s).done
  | 0x60 => (if s.peersDown then { s with expl := BitVec.ofNat 64 (bits x 30 0) } else s).done
  | 0x90 => (s.pcapWrite x).done
  | 0x98 => ({ s with svcr := BitVec.ofNat 64 (bits x 55 13 * 2 ^ 13) } : State).done
  | 0xA0 => execSvcdone v s
  | _ =>
    if 0x70 ≤ off && off ≤ 0x88 && s.peersDown then ({ s with csets := SMap.set s.csets ((off - 0x70) / 8) v } : State).done
    else .next s

/-- A write of a queue's register, by its place in the group. -/
def State.queueWrite (s : State) (q place : Nat) (v : Nat) : Out :=
  match place with
  | 0 => (s.restQueue q fun x => { x with base := bits v 51 6 }).done
  | 1 => (s.qctl q v).done
  | 3 => (s.qtailWrite q v).done
  | _ => .next s

/-- REGISTER_WRITE: a write of one 64-bit register of the block. -/
def execRegisterWrite (off : Nat) (v : BitVec 64) (s : State) : Out :=
  let x := v.toNat
  if off % 8 != 0 then .next s
  else if off < 0x1000 then s.headWrite off v
  else if off < 0x1800 then s.queueWrite ((off - 0x1000) / 32) (off % 32 / 8) x
  else if 0x2000 ≤ off && off < 0x2400 then
    (s.restQueue ((off - 0x2000) / 16) fun q =>
      if off % 16 == 0 then { q with fixb := bits x 51 5 } else { q with fixcap := bits x 63 32 }).done
  else if 0x3000 ≤ off && off < 0x3140 && off % 32 == 0 then (s.lctlWrite ((off - 0x3000) / 32) x).done
  else if 0x4000 ≤ off && off < 0x4800 then
    let r : Word := BitVec.ofNat 64 (bits x 63 63 * 2 ^ 63 + bits x 7 0)
    ({ s with routes := SMap.set s.routes ((off - 0x4000) / 8) r } : State).done
  else .next s

/-! ### What the registers read as -/

/-- The STATE of Table 15-4. -/
def State.queueState (s : State) (q : Nat) : Nat :=
  let x := s.queue q
  match x.state with
  | .disabled => 0
  | .enabled => if x.idle then 1 else if (s.ready q).isSome then 2 else 3
  | .error => 4
  | .drained => 5

/-- The registers at the head of the block. -/
def State.headRead (s : State) (off : Nat) : Word :=
  match off with
  | 0x00 => s.astb
  | 0x08 => s.lscrReg
  | 0x10 => s.modesel
  | 0x18 => s.kick
  | 0x20 => s.kstat
  | 0x28 => s.unmap
  | 0x30 => s.ftriage
  | 0x38 => s.fcmd
  | 0x40 => s.saveb
  | 0x48 => s.savel
  | 0x50 => s.fabric
  | 0x58 => s.expb
  | 0x60 => s.expl
  | 0x90 => BitVec.ofNat 64 (s.lemant.limit + 2 ^ 16 * s.lemant.power.code)
  | 0x98 => BitVec.ofNat 64 (s.svcCount % 256 * 2 ^ 56 + bits s.svcr.toNat 55 13 * 2 ^ 13)
  | 0xA0 => s.svcdone
  | _ => if 0x70 ≤ off && off ≤ 0x88 then SMap.getD s.csets ((off - 0x70) / 8) 0 else 0

def bitOf (b : Bool) : Nat := if b then 1 else 0

/-- QBASE, QCTL, QSTAT and QTAIL. -/
def State.queueRead (s : State) (q place : Nat) : Nat :=
  let x := s.queue q
  match place with
  | 0 => x.base * 64
  | 1 => x.sizem1 * 2 ^ 32 + x.prio * 2 ^ 16 + x.fix * 2 ^ 10 + bitOf x.handler * 2 ^ 9 + bitOf x.ord * 2 ^ 8
      + bitOf x.pre * 8 + bitOf x.drain * 2 + bitOf (x.state != .disabled)
  | 2 => x.head * 2 ^ 44 + x.eprio * 2 ^ 41 + x.cursor * 2 ^ 32 + min 256 x.waiting * 2 ^ 23 + x.reason * 2 ^ 8 + s.queueState q
  | _ => x.tail

/-- LCTL, LSTAT and LERR; the fourth doubleword of a group reads zero. -/
def State.linkRead (s : State) (l place : Nat) : Nat :=
  let x := s.link l
  match place with
  | 0 => bitOf x.allowdeg * 4 + bitOf x.en
  | 1 => x.fences * 2 ^ 32 + x.fcause * 2 ^ 12 + x.lanes * 2 ^ 8 + x.state.code
  | 2 => x.replays * 2 ^ 32 + x.feccor
  | _ => 0

/-- The value of a register of the block; an offset that Table 14-8 does not name reads zero. -/
def State.register (s : State) (off : Nat) : Word :=
  if off % 8 != 0 then 0
  else if off < 0x1000 then s.headRead off
  else if off < 0x1800 then BitVec.ofNat 64 (s.queueRead ((off - 0x1000) / 32) (off % 32 / 8))
  else if 0x2000 ≤ off && off < 0x2400 then
    let q := s.queue ((off - 0x2000) / 16)
    BitVec.ofNat 64 (if off % 16 == 0 then q.fixb * 32 else q.fixcap * 2 ^ 32 + q.fixnext)
  else if 0x3000 ≤ off && off < 0x3140 then BitVec.ofNat 64 (s.linkRead ((off - 0x3000) / 32) (off % 32 / 8))
  else if 0x4000 ≤ off && off < 0x4800 then SMap.getD s.routes ((off - 0x4000) / 8) 0
  else 0

end Sys2Proof.Machine
end

