-- ==== Sys2Proof/Machine/Sfu.lean ====
section
/-!
DEFINITION. The SFU slot (R169 to R172).
-/
namespace Sys2Proof.Machine

def execSexp2 (d a : BitVec 6) (p : BitVec 3) (w : BitVec 2) (_t : BitVec 3) (s : State) : Out :=
  s.vmap1 8 d a false p w.toNat 32 sfuExp2
def execSlog2 (d a : BitVec 6) (p : BitVec 3) (w : BitVec 2) (_t : BitVec 3) (s : State) : Out :=
  s.vmap1 8 d a false p w.toNat 32 sfuLog2
def execSrcp (d a : BitVec 6) (p : BitVec 3) (w : BitVec 2) (_t : BitVec 3) (s : State) : Out :=
  s.vmap1 8 d a false p w.toNat 32 sfuRcp
def execSrsq (d a : BitVec 6) (p : BitVec 3) (w : BitVec 2) (_t : BitVec 3) (s : State) : Out :=
  s.vmap1 8 d a false p w.toNat 32 sfuRsq
def execSsqrt (d a : BitVec 6) (p : BitVec 3) (w : BitVec 2) (_t : BitVec 3) (s : State) : Out :=
  s.vmap1 12 d a false p w.toNat 32 sfuSqrt
def execSdiv (d a b : BitVec 6) (p : BitVec 3) (w : BitVec 2) (_t : BitVec 3) (s : State) : Out :=
  s.vmap2 12 d a b p w.toNat 32 sfuDiv

/-- RNG128 on lanes of 128 bits: lane j is active when predicate bit 16j is set (R171). -/
def execRng128 (d a b : BitVec 6) (p : BitVec 3) (w : BitVec 2) (_t : BitVec 3) (s : State) : Out :=
  s.vmap2 6 d a b p w.toNat 128 fun x y => rng128 x (y % 2 ^ 64)

def execScrc (d a b : BitVec 6) (p : BitVec 3) (w : BitVec 2) (_t : BitVec 3) (s : State) : Out :=
  s.vmap2 4 d a b p w.toNat 32 (crcBits 32)

end Sys2Proof.Machine
end

