-- ==== Sys2Proof/Machine/Vector.lean ====
section
/-!
DEFINITION. The VEC slots: element arithmetic, conversion, accumulators, element movement, reductions, four-bit codes and
byte work (R145 to R168).
-/
namespace Sys2Proof.Machine

/-! ### Integer elements (R145, Table 6-2) -/

def execVadd (d a b : BitVec 6) (p : BitVec 3) (w : BitVec 2) (t : BitVec 3) (s : State) : Out :=
  s.vmap2 2 d a b p w.toNat (elemBits t.toNat) fun x y => (x + y) % 2 ^ elemBits t.toNat
def execVsub (d a b : BitVec 6) (p : BitVec 3) (w : BitVec 2) (t : BitVec 3) (s : State) : Out :=
  s.vmap2 2 d a b p w.toNat (elemBits t.toNat) fun x y => wrap (elemBits t.toNat) ((x : Int) - y)

/-- sat to an e-bit element, as bits (R25). -/
def satBits (e : Nat) (uns : Bool) (x : Int) : Nat := wrap e (satInt e uns x)

def execVadds (d a b : BitVec 6) (p : BitVec 3) (w : BitVec 2) (t : BitVec 3) (s : State) : Out :=
  let e := elemBits t.toNat
  s.vmap2 2 d a b p w.toNat e fun x y => satBits e false (sext x e + sext y e)
def execVaddsn (d a b : BitVec 6) (p : BitVec 3) (w : BitVec 2) (t : BitVec 3) (s : State) : Out :=
  let e := elemBits t.toNat
  s.vmap2 2 d a b p w.toNat e fun x y => satBits e true ((x : Int) + y)
def execVsubs (d a b : BitVec 6) (p : BitVec 3) (w : BitVec 2) (t : BitVec 3) (s : State) : Out :=
  let e := elemBits t.toNat
  s.vmap2 2 d a b p w.toNat e fun x y => satBits e false (sext x e - sext y e)
def execVsubsn (d a b : BitVec 6) (p : BitVec 3) (w : BitVec 2) (t : BitVec 3) (s : State) : Out :=
  let e := elemBits t.toNat
  s.vmap2 2 d a b p w.toNat e fun x y => satBits e true ((x : Int) - y)
def execVmul (d a b : BitVec 6) (p : BitVec 3) (w : BitVec 2) (t : BitVec 3) (s : State) : Out :=
  s.vmap2 2 d a b p w.toNat (elemBits t.toNat) fun x y => x * y % 2 ^ elemBits t.toNat
def execVmulh (d a b : BitVec 6) (p : BitVec 3) (w : BitVec 2) (t : BitVec 3) (s : State) : Out :=
  let e := elemBits t.toNat
  s.vmap2 2 d a b p w.toNat e fun x y => wrap e (sext x e * sext y e / (2 ^ e : Nat))
def execVmin (d a b : BitVec 6) (p : BitVec 3) (w : BitVec 2) (t : BitVec 3) (s : State) : Out :=
  let e := elemBits t.toNat
  s.vmap2 2 d a b p w.toNat e fun x y => if sext x e ≤ sext y e then x else y
def execVmax (d a b : BitVec 6) (p : BitVec 3) (w : BitVec 2) (t : BitVec 3) (s : State) : Out :=
  let e := elemBits t.toNat
  s.vmap2 2 d a b p w.toNat e fun x y => if sext y e ≤ sext x e then x else y
def execVminn (d a b : BitVec 6) (p : BitVec 3) (w : BitVec 2) (t : BitVec 3) (s : State) : Out :=
  s.vmap2 2 d a b p w.toNat (elemBits t.toNat) min
def execVmaxn (d a b : BitVec 6) (p : BitVec 3) (w : BitVec 2) (t : BitVec 3) (s : State) : Out :=
  s.vmap2 2 d a b p w.toNat (elemBits t.toNat) max
def execVand (d a b : BitVec 6) (p : BitVec 3) (w : BitVec 2) (t : BitVec 3) (s : State) : Out :=
  s.vmap2 2 d a b p w.toNat (elemBits t.toNat) Nat.land
def execVor (d a b : BitVec 6) (p : BitVec 3) (w : BitVec 2) (t : BitVec 3) (s : State) : Out :=
  s.vmap2 2 d a b p w.toNat (elemBits t.toNat) Nat.lor
def execVxor (d a b : BitVec 6) (p : BitVec 3) (w : BitVec 2) (t : BitVec 3) (s : State) : Out :=
  s.vmap2 2 d a b p w.toNat (elemBits t.toNat) Nat.xor

/-- Shifts and rotations of an e-bit element by k < e: kinds .sll, .srl, .sra, .rotl. -/
def shiftElem (kind e x k : Nat) : Nat :=
  match kind with
  | 0 => x * 2 ^ k % 2 ^ e
  | 1 => x / 2 ^ k
  | 2 => wrap e (sext x e / (2 ^ k : Nat))
  | _ => (x * 2 ^ k + x / 2 ^ (e - k)) % 2 ^ e

def execVshl (d a b : BitVec 6) (p : BitVec 3) (w : BitVec 2) (t : BitVec 3) (s : State) : Out :=
  let e := elemBits t.toNat
  s.vmap2 2 d a b p w.toNat e fun x y => shiftElem 0 e x (y % e)
def execVshr (d a b : BitVec 6) (p : BitVec 3) (w : BitVec 2) (t : BitVec 3) (s : State) : Out :=
  let e := elemBits t.toNat
  s.vmap2 2 d a b p w.toNat e fun x y => shiftElem 1 e x (y % e)
def execVsra (d a b : BitVec 6) (p : BitVec 3) (w : BitVec 2) (t : BitVec 3) (s : State) : Out :=
  let e := elemBits t.toNat
  s.vmap2 2 d a b p w.toNat e fun x y => shiftElem 2 e x (y % e)

/-- VSHI: a constant amount and a kind, on every element (R146). -/
def execVshi (d a n : BitVec 6) (k : BitVec 3) (w : BitVec 2) (t : BitVec 3) (s : State) : Out :=
  let e := elemBits t.toNat
  s.vmap1 2 d a false 0 w.toNat e fun x => shiftElem k.toNat e x n.toNat

/-! ### Compares and selection (R147, R148, R150) -/

/-- A compare writes a predicate. -/
def State.vcompare (s : State) (lat : Nat) (d : BitVec 3) (a b : BitVec 6) (p : BitVec 3) (w e : Nat)
    (f : Nat → Nat → Bool) : Out :=
  let W := windowBits w
  (s.setP lat d.toNat (setPred (s.rp p.toNat) (s.rp d.toNat) e ((s.velems 0 a e W).zipWith f (s.velems 1 b e W)))).ok

/-- The conditions of R147. -/
def elemCond (c e x y : Nat) : Bool :=
  match c with
  | 0 => x == y
  | 1 => x != y
  | 2 => decide (sext x e < sext y e)
  | 3 => decide (sext y e ≤ sext x e)
  | 4 => decide (x < y)
  | _ => decide (y ≤ x)

def execVcmp (c d : BitVec 3) (a b : BitVec 6) (p : BitVec 3) (w : BitVec 2) (t : BitVec 3) (s : State) : Out :=
  s.vcompare 2 d a b p w.toNat (elemBits t.toNat) (elemCond c.toNat (elemBits t.toNat))

def execVfcmp (c d : BitVec 3) (a b : BitVec 6) (p : BitVec 3) (w : BitVec 2) (t : BitVec 3) (s : State) : Out :=
  s.vcompare 4 d a b p w.toNat (elemBits t.toNat) (fpCmp (fmtOf t.toNat false) c.toNat)

/-- Elements of A where active, of B elsewhere (R148). -/
def choose : List Bool → List Nat → List Nat → List Nat
  | b :: bs, x :: xs, y :: ys => (if b then x else y) :: choose bs xs ys
  | _, _, _ => []

def execVsel (d a b : BitVec 6) (p : BitVec 3) (w : BitVec 2) (t : BitVec 3) (s : State) : Out :=
  let e := elemBits t.toNat
  let W := windowBits w.toNat
  (s.vwindow 2 d W (joined e (choose (actives (s.rp p.toNat) e (W / e)) (s.velems 0 a e W) (s.velems 1 b e W)))).ok

/-! ### Floating elements (R149) -/

def execVfadd (d a b : BitVec 6) (p : BitVec 3) (w : BitVec 2) (t : BitVec 3) (s : State) : Out :=
  s.vmap2 4 d a b p w.toNat (elemBits t.toNat) (fpAdd (fmtOf t.toNat false) .rne)
def execVfsub (d a b : BitVec 6) (p : BitVec 3) (w : BitVec 2) (t : BitVec 3) (s : State) : Out :=
  s.vmap2 4 d a b p w.toNat (elemBits t.toNat) (fpSub (fmtOf t.toNat false) .rne)
def execVfmul (d a b : BitVec 6) (p : BitVec 3) (w : BitVec 2) (t : BitVec 3) (s : State) : Out :=
  s.vmap2 4 d a b p w.toNat (elemBits t.toNat) (fpMul (fmtOf t.toNat false) .rne)
def execVfma (d a b : BitVec 6) (p : BitVec 3) (w : BitVec 2) (t : BitVec 3) (s : State) : Out :=
  let e := elemBits t.toNat
  let W := windowBits w.toNat
  let products := (s.velems 0 a e W).zip (s.velems 1 b e W)
  (s.vput 4 d false (s.rp p.toNat) e W (products.zipWith
    (fun xy z => fpFma (fmtOf t.toNat false) .rne xy.1 xy.2 z) (elems e (W / e) (s.vold d)))).ok
def execVfmin (d a b : BitVec 6) (p : BitVec 3) (w : BitVec 2) (t : BitVec 3) (s : State) : Out :=
  s.vmap2 4 d a b p w.toNat (elemBits t.toNat) (fpMin (fmtOf t.toNat false))
def execVfmax (d a b : BitVec 6) (p : BitVec 3) (w : BitVec 2) (t : BitVec 3) (s : State) : Out :=
  s.vmap2 4 d a b p w.toNat (elemBits t.toNat) (fpMax (fmtOf t.toNat false))

/-! ### Conversion (R151, Table 6-3) -/

/-- One element of source code `st` as an element of destination code `dt`. -/
def cvtElem (dt st : Nat) (dE5 sE5 : Bool) (m : Nat) (sat : Bool) (x : Nat) : Nat :=
  let es := elemBits st
  let ed := elemBits dt
  let mode := Rounding.ofCode m
  if st ≤ 3 then
    let v : Int := if m % 2 == 1 then x else sext x es
    if dt ≤ 3 then
      if ed == es then x
      else if es < ed then wrap ed v
      else if sat then satBits ed (m / 2 == 1) v else wrap ed v
    else roundF (fmtOf dt dE5) mode (ofInt (sext x es))
  else if dt ≤ 3 then wrap ed (toInt ed false mode (decodeF (fmtOf st sE5) x))
  else fpConvert (fmtOf st sE5) (fmtOf dt dE5) mode sat x

def execVcvt (d a : BitVec 6) (st : BitVec 3) (e5 : BitVec 1) (m : BitVec 2) (x y : BitVec 1) (w : BitVec 2) (t : BitVec 3)
    (s : State) : Out :=
  let es := elemBits st.toNat
  let ed := elemBits t.toNat
  let W := windowBits w.toNat
  let n := W / max es ed
  let out := (elems es n (s.rv 0 a.toNat).toNat).map (cvtElem t.toNat st.toNat (e5 == 1) (y == 1) m.toNat (x == 1))
  (s.vwindow 4 d W (joined ed out)).ok

/-! ### Accumulators (R152 to R155) -/

/-- Updates the lanes of an accumulator that the window's elements reach: lane k takes its `g` products with their
activity. -/
def macLanes (g : Nat) (f : Nat → List (Nat × Nat) → Nat) : List Nat → List (Bool × Nat × Nat) → List Nat
  | [], _ => []
  | l :: ls, xs =>
    let mine := (xs.take g).filter (·.1)
    (if mine == [] then l else f l (mine.map (·.2))) :: macLanes g f ls (xs.drop g)

/-- The accumulator after a multiply-accumulate of the window's elements. -/
def State.macWindow (s : State) (d a b : BitVec 6) (p : Pred) (e W g laneBits : Nat)
    (f : Nat → List (Nat × Nat) → Nat) : State :=
  let act := actives p e (W / e)
  let xs := act.zip ((s.velems 0 a e W).zip (s.velems 1 b e W))
  let old := elems laneBits (2048 / laneBits) (s.cur.chainA s.focus.pos d.toNat).toNat
  s.land 4 (.a d.toNat (BitVec.ofNat 2048 (joined laneBits (macLanes g f old xs))))

/-- A lane plus signed products, mod 2^lane (Table 6-4). -/
def macInt (e laneBits lane : Nat) (xs : List (Nat × Nat)) : Nat :=
  xs.foldl (fun l x => wrap laneBits ((l : Int) + sext x.1 e * sext x.2 e)) lane

/-- A lane plus products, summed exactly and rounded once (R153). -/
def macFloat (f : Fmt) (lane : Nat) (xs : List (Nat × Nat)) : Nat :=
  let products := xs.map fun x => (decodeF f x.1).mul (decodeF f x.2)
  roundF .fp32 .rne (products.foldl (fun acc x => acc.add .rne x) (decodeF .fp32 lane))

def execVmac (d a b : BitVec 6) (p : BitVec 3) (w : BitVec 2) (t : BitVec 3) (s : State) : Out :=
  let e := elemBits t.toNat
  let lane := if t.toNat == 2 then 64 else 32
  (s.macWindow d a b (s.rp p.toNat) e (windowBits w.toNat) (if t.toNat == 0 then 2 else 1) lane (macInt e lane)).ok

def execVfmac (d a b : BitVec 6) (p : BitVec 3) (w : BitVec 2) (t : BitVec 3) (s : State) : Out :=
  let e := elemBits t.toNat
  (s.macWindow d a b (s.rp p.toNat) e (windowBits w.toNat) (if t.toNat == 7 then 2 else 1) 32
    (macFloat (fmtOf t.toNat false))).ok

/-- One lane narrowed to type t (R154): `sh` is B[4:0], whose bit 4 is .sat in a floating form. -/
def narrowLane (t sh lane : Nat) : Nat :=
  if t ≤ 3 then
    let q := sext lane (if t == 3 then 64 else 32)
    satBits (elemBits t) false (roundInt .rne (decide (q < 0)) q.natAbs (-(sh : Int)))
  else fpConvert .fp32 (fmtOf t false) .rne (sh / 16 == 1) lane

def execVnarrow (d a : BitVec 6) (h : BitVec 1) (sh : BitVec 5) (p : BitVec 3) (w : BitVec 2) (t : BitVec 3) (s : State) :
    Out :=
  let e := elemBits t.toNat
  let W := windowBits w.toNat
  let lane := if t.toNat == 3 then 64 else 32
  let half := 1024 / lane
  let n := min half (W / e)
  let lanes := elems lane n ((s.cur.readA s.focus.pos a.toNat).toNat / 2 ^ (1024 * h.toNat))
  let merged := mergeElems (decide (60 ≤ d.toNat)) (actives (s.rp p.toNat) e n) (lanes.map (narrowLane t.toNat sh.toNat))
    (elems e n (s.vold d))
  (s.vwindow 3 d W (joined e merged)).ok

def execVaclr (d : BitVec 6) (s : State) : Out := (s.land 4 (.a d.toNat 0)).ok

/-! ### Moving elements (R156 to R160) -/

def execVperm (d a b : BitVec 6) (p : BitVec 3) (w : BitVec 2) (t : BitVec 3) (s : State) : Out :=
  let e := elemBits t.toNat
  let W := windowBits w.toNat
  let xs := s.velems 0 a e W
  (s.vput 3 d false (s.rp p.toNat) e W ((s.velems 1 b e W).map fun x => xs.getD x 0)).ok

/-- Interleaves two lists. -/
def interleave : List Nat → List Nat → List Nat
  | x :: xs, y :: ys => x :: y :: interleave xs ys
  | _, _ => []

/-- The elements at even places. -/
def evens : List Nat → List Nat
  | x :: _ :: rest => x :: evens rest
  | [x] => [x]
  | [] => []

/-- The arrangements of Table 6-5. -/
def shuffle (k : Nat) (xs ys : List Nat) : List Nat :=
  let h := xs.length / 2
  match k with
  | 0 => interleave (xs.take h) (ys.take h)
  | 1 => interleave (xs.drop h) (ys.drop h)
  | 2 => evens xs ++ evens ys
  | 3 => evens (xs.drop 1) ++ evens (ys.drop 1)
  | _ => xs.reverse

def execVshuf (d a b : BitVec 6) (k : BitVec 3) (w : BitVec 2) (t : BitVec 3) (s : State) : Out :=
  let e := elemBits t.toNat
  let W := windowBits w.toNat
  (s.vwindow 3 d W (joined e (shuffle k.toNat (s.velems 0 a e W) (s.velems 1 b e W)))).ok

def execVbcast (d a : BitVec 6) (z : BitVec 1) (p : BitVec 3) (w : BitVec 2) (t : BitVec 3) (s : State) : Out :=
  let e := elemBits t.toNat
  let W := windowBits w.toNat
  (s.vput 2 d (z == 1) (s.rp p.toNat) e W (List.replicate (W / e) ((s.rs a).toNat % 2 ^ e))).ok

def execVslide (d a i : BitVec 6) (p : BitVec 3) (w : BitVec 2) (t : BitVec 3) (s : State) : Out :=
  let e := elemBits t.toNat
  let W := windowBits w.toNat
  let xs := s.velems 0 a e W
  let from_ := fun (j : Nat) => (j : Int) + i.toInt
  (s.vput 3 d false (s.rp p.toNat) e W ((List.range (W / e)).map fun j =>
    if from_ j < 0 then 0 else xs.getD (from_ j).toNat 0)).ok

def execVins (d a b : BitVec 6) (p : BitVec 3) (w : BitVec 2) (t : BitVec 3) (s : State) : Out :=
  let e := elemBits t.toNat
  let W := windowBits w.toNat
  let k := (s.ri b.toNat).toNat % (W / e)
  let old := elems e (W / e) (s.vold d)
  (s.vwindow 2 d W (joined e
    (if active (s.rp p.toNat) e k then old.set k ((s.rs a).toNat % 2 ^ e) else old))).ok

def execVext (d a b : BitVec 6) (w : BitVec 2) (t : BitVec 3) (s : State) : Out :=
  let e := elemBits t.toNat
  let W := windowBits w.toNat
  let x := (s.velems 0 a e W).getD ((s.ri b.toNat).toNat % (W / e)) 0
  (s.setS 2 d (if t.toNat ≤ 3 then BitVec.ofInt 64 (sext x e) else BitVec.ofNat 64 x)).ok

/-! ### Reductions and scans (R161, Table 6-6) -/

/-- The integer operations, and their value over no element. -/
def redInt (op e x y : Nat) : Nat :=
  match op with
  | 0 => (x + y) % 2 ^ e
  | 1 => if sext x e ≤ sext y e then x else y
  | 2 => if sext y e ≤ sext x e then x else y
  | 3 => min x y
  | 4 => max x y
  | 5 => Nat.land x y
  | 6 => Nat.lor x y
  | _ => Nat.xor x y

def redIntUnit (op e : Nat) : Nat :=
  match op with
  | 1 => 2 ^ (e - 1) - 1
  | 2 => 2 ^ (e - 1)
  | 3 => 2 ^ e - 1
  | 5 => 2 ^ e - 1
  | _ => 0

/-- Least or greatest of floating elements by R31, with the value over no element; a NaN result is canonical (R29). -/
def redMinMax (f : Fmt) (op : Nat) (xs : List Nat) : Nat :=
  match xs with
  | [] => if op == 1 then f.infCode else signed f true f.infCode
  | x :: rest =>
    let r := rest.foldl (fun acc y => if op == 1 then fpMin f acc y else fpMax f acc y) x
    if (decodeF f r).isNan then f.nanCode else r

/-- The present elements. -/
def present : List (Option Nat) → List Nat
  | [] => []
  | some x :: rest => x :: present rest
  | none :: rest => present rest

/-- The reduction of the first `count` of 2^levels lanes, inactive lanes absent. -/
def redValue (t op mode : Nat) (lanes : List (Option Nat)) (count : Nat) : Nat :=
  if t ≤ 3 then
    (present (lanes.take count)).foldl (redInt op (elemBits t)) (redIntUnit op (elemBits t))
  else if op == 0 then
    let f := fmtOf t false
    let leaves := lanes.map (Option.map fun x => fpConvert f .fp32 .rne false x)
    treeResult f (Rounding.ofCode mode) (scanBlocks leaves count 8 0 none)
  else redMinMax (fmtOf t false) op (present (lanes.take count))

/-- Lanes of a window with inactive ones absent. -/
def State.lanes (s : State) (a : BitVec 6) (p : BitVec 3) (e W : Nat) : List (Option Nat) :=
  ((actives (s.rp p.toNat) e (W / e)).zip (s.velems 0 a e W)).map fun x => if x.1 then some x.2 else none

def execVred (d a : BitVec 6) (o : BitVec 3) (m : BitVec 2) (p : BitVec 3) (w : BitVec 2) (t : BitVec 3) (s : State) : Out :=
  let e := elemBits t.toNat
  let W := windowBits w.toNat
  (s.vwindow 5 d W (redValue t.toNat o.toNat m.toNat (s.lanes a p e W) (W / e))).ok

def execVscan (d a : BitVec 6) (o : BitVec 3) (x : BitVec 1) (m : BitVec 2) (p : BitVec 3) (w : BitVec 2) (t : BitVec 3)
    (s : State) : Out :=
  let e := elemBits t.toNat
  let W := windowBits w.toNat
  let lanes := s.lanes a p e W
  (s.vwindow 6 d W (joined e ((List.range (W / e)).map fun j =>
    redValue t.toNat o.toNat m.toNat lanes (if x == 1 then j else j + 1)))).ok

/-! ### Four-bit codes and signatures (R162 to R165) -/

/-- An 8-bit element as a four-bit code (R162). -/
def packCode (t x : Nat) : Nat :=
  if t == 0 then wrap 4 (satInt 4 false (sext x 8)) else fpConvert .e4m3 .e2m1 .rne false x

/-- A four-bit code as an 8-bit element (R163). -/
def unpackCode (t c : Nat) : Nat :=
  if t == 0 then wrap 8 (sext c 4) else fpConvert .e2m1 .e4m3 .rne false c

def execVpack4 (d a b : BitVec 6) (w : BitVec 2) (t : BitVec 3) (s : State) : Out :=
  let W := windowBits w.toNat
  (s.vwindow 3 d W (joined 4 ((s.velems 0 a 8 W ++ s.velems 1 b 8 W).map (packCode t.toNat)))).ok

def execVunpk4 (d a : BitVec 6) (h : BitVec 1) (w : BitVec 2) (t : BitVec 3) (s : State) : Out :=
  let W := windowBits w.toNat
  let n := W / 8
  (s.vwindow 3 d W (joined 8 (((s.velems 0 a 4 W).drop (h.toNat * n)).take n |>.map (unpackCode t.toNat)))).ok

def execVpair4 (d a b : BitVec 6) (h : BitVec 1) (w : BitVec 2) (_t : BitVec 3) (s : State) : Out :=
  let W := windowBits w.toNat
  let n := W / 8
  let half := fun (xs : List Nat) => (xs.drop (h.toNat * n)).take n
  (s.vwindow 3 d W (joined 8 ((half (s.velems 0 a 4 W)).zipWith (fun x y => x + 16 * y) (half (s.velems 1 b 4 W))))).ok

/-- VSGNPK replaces bits [kn+n−1:kn] of D by the sign bits of the n elements (R165). -/
def execVsgnpk (d a : BitVec 6) (k : BitVec 3) (w : BitVec 2) (t : BitVec 3) (s : State) : Out :=
  let e := elemBits t.toNat
  let W := windowBits w.toNat
  let n := W / e
  let signs := joined 1 ((s.velems 0 a e W).map fun x => x / 2 ^ (e - 1))
  let old := s.vold d
  let lo := k.toNat * n
  (s.land 3 (.v d.toNat (BitVec.ofNat 1024 (old / 2 ^ (lo + n) * 2 ^ (lo + n) + signs * 2 ^ lo + old % 2 ^ lo)))).ok

/-! ### Bytes, hashes and counts (R166 to R168) -/

/-- −1, 0 or +1 by the first differing byte, lowest address first. -/
def byteCompare : List Nat → List Nat → Int
  | x :: xs, y :: ys => if x < y then -1 else if y < x then 1 else byteCompare xs ys
  | _, _ => 0

/-- The least place of a byte, or the number of bytes. -/
def byteFind (b : Nat) : List Nat → Nat
  | [] => 0
  | x :: xs => if x == b then 0 else 1 + byteFind b xs

def execVhash (d a b : BitVec 6) (p : BitVec 3) (w : BitVec 2) (_t : BitVec 3) (s : State) : Out :=
  s.vmap2 3 d a b p w.toNat 32 hash32
def execVbcmp (d a b : BitVec 6) (p : BitVec 3) (w : BitVec 2) (t : BitVec 3) (s : State) : Out :=
  let e := elemBits t.toNat
  s.vmap2 2 d a b p w.toNat e fun x y => wrap e (byteCompare (elems 8 (e / 8) x) (elems 8 (e / 8) y))
def execVbfind (d a b : BitVec 6) (p : BitVec 3) (w : BitVec 2) (t : BitVec 3) (s : State) : Out :=
  let e := elemBits t.toNat
  s.vmap2 2 d a b p w.toNat e fun x y => byteFind (y % 256) (elems 8 (e / 8) x)
def execVpopc (d a : BitVec 6) (z : BitVec 1) (p : BitVec 3) (w : BitVec 2) (t : BitVec 3) (s : State) : Out :=
  s.vmap1 2 d a (z == 1) p w.toNat (elemBits t.toNat) (popcount (elemBits t.toNat))
def execVclz (d a : BitVec 6) (z : BitVec 1) (p : BitVec 3) (w : BitVec 2) (t : BitVec 3) (s : State) : Out :=
  s.vmap1 2 d a (z == 1) p w.toNat (elemBits t.toNat) (leadingZeros (elemBits t.toNat))

end Sys2Proof.Machine
end

