-- ==== Sys2Proof/Machine/Dispatch.lean ====
section
/-!
DEFINITION. The dispatch of an instruction to its meaning: one arm per constructor of `Instr`.
-/
namespace Sys2Proof.Machine

def exec (i : Instr) (s : State) : Host.Outcome State Fault Refusal :=
  match i with
  | .add d a b => Sys2Proof.Machine.execAdd d a b s
  | .sub d a b => Sys2Proof.Machine.execSub d a b s
  | .and d a b => Sys2Proof.Machine.execAnd d a b s
  | .or d a b => Sys2Proof.Machine.execOr d a b s
  | .xor d a b => Sys2Proof.Machine.execXor d a b s
  | .andn d a b => Sys2Proof.Machine.execAndn d a b s
  | .sll d a b => Sys2Proof.Machine.execSll d a b s
  | .srl d a b => Sys2Proof.Machine.execSrl d a b s
  | .sra d a b => Sys2Proof.Machine.execSra d a b s
  | .rotl d a b => Sys2Proof.Machine.execRotl d a b s
  | .mul d a b u => Sys2Proof.Machine.execMul d a b u s
  | .mulh d a b u => Sys2Proof.Machine.execMulh d a b u s
  | .div d a b u => Sys2Proof.Machine.execDiv d a b u s
  | .rem d a b u => Sys2Proof.Machine.execRem d a b u s
  | .min d a b u => Sys2Proof.Machine.execMin d a b u s
  | .max d a b u => Sys2Proof.Machine.execMax d a b u s
  | .slt d a b u => Sys2Proof.Machine.execSlt d a b u s
  | .seq d a b => Sys2Proof.Machine.execSeq d a b s
  | .sel d a b p => Sys2Proof.Machine.execSel d a b p s
  | .clz d a => Sys2Proof.Machine.execClz d a s
  | .ctz d a => Sys2Proof.Machine.execCtz d a s
  | .popc d a => Sys2Proof.Machine.execPopc d a s
  | .addi d a f_i => Sys2Proof.Machine.execAddi d a f_i s
  | .andi d a f_i => Sys2Proof.Machine.execAndi d a f_i s
  | .ori d a f_i => Sys2Proof.Machine.execOri d a f_i s
  | .xori d a f_i => Sys2Proof.Machine.execXori d a f_i s
  | .shi d a k n => Sys2Proof.Machine.execShi d a k n s
  | .slti d a f_i => Sys2Proof.Machine.execSlti d a f_i s
  | .li d f_i => Sys2Proof.Machine.execLi d f_i s
  | .liq d q v => Sys2Proof.Machine.execLiq d q v s
  | .fadd d a b m => Sys2Proof.Machine.execFadd d a b m s
  | .fsub d a b m => Sys2Proof.Machine.execFsub d a b m s
  | .fmul d a b m => Sys2Proof.Machine.execFmul d a b m s
  | .fma d a b m => Sys2Proof.Machine.execFma d a b m s
  | .fmin d a b => Sys2Proof.Machine.execFmin d a b s
  | .fmax d a b => Sys2Proof.Machine.execFmax d a b s
  | .fcmp d a b c => Sys2Proof.Machine.execFcmp d a b c s
  | .fcvt d a k m => Sys2Proof.Machine.execFcvt d a k m s
  | .bc c a b o => Sys2Proof.Machine.execBc c a b o s
  | .jmp o => Sys2Proof.Machine.execJmp o s
  | .jal d o => Sys2Proof.Machine.execJal d o s
  | .jr d a => Sys2Proof.Machine.execJr d a s
  | .dbnz a o => Sys2Proof.Machine.execDbnz a o s
  | .slack f_i => Sys2Proof.Machine.execSlack f_i s
  | .csrr d c => Sys2Proof.Machine.execCsrr d c s
  | .csrw a c => Sys2Proof.Machine.execCsrw a c s
  | .fence k => Sys2Proof.Machine.execFence k s
  | .trap f_i => Sys2Proof.Machine.execTrap f_i s
  | .done => Sys2Proof.Machine.execDone s
  | .brk f_i => Sys2Proof.Machine.execBrk f_i s
  | .ld d a z o => Sys2Proof.Machine.execLd d a z o s
  | .st d a z o => Sys2Proof.Machine.execSt d a z o s
  | .ldx d a b c z => Sys2Proof.Machine.execLdx d a b c z s
  | .stx d a b c z => Sys2Proof.Machine.execStx d a b c z s
  | .ldv d a o => Sys2Proof.Machine.execLdv d a o s
  | .stv d a o => Sys2Proof.Machine.execStv d a o s
  | .qld q a b z p w => Sys2Proof.Machine.execQld q a b z p w s
  | .qgth q a b z p w => Sys2Proof.Machine.execQgth q a b z p w s
  | .qst q a b z p w => Sys2Proof.Machine.execQst q a b z p w s
  | .qsct q a b z p w => Sys2Proof.Machine.execQsct q a b z p w s
  | .amo d a b r e f => Sys2Proof.Machine.execAmo d a b r e f s
  | .cas d a b r e => Sys2Proof.Machine.execCas d a b r e s
  | .red a b e f => Sys2Proof.Machine.execRed a b e f s
  | .lea d a f_i => Sys2Proof.Machine.execLea d a f_i s
  | .pref l a z o => Sys2Proof.Machine.execPref l a z o s
  | .iadd d a b => Sys2Proof.Machine.execIadd d a b s
  | .isub d a b => Sys2Proof.Machine.execIsub d a b s
  | .iaddi d a f_i => Sys2Proof.Machine.execIaddi d a f_i s
  | .ishi d a k n => Sys2Proof.Machine.execIshi d a k n s
  | .iand d a b => Sys2Proof.Machine.execIand d a b s
  | .ior d a b => Sys2Proof.Machine.execIor d a b s
  | .imin d a b u => Sys2Proof.Machine.execImin d a b u s
  | .imax d a b u => Sys2Proof.Machine.execImax d a b u s
  | .imov d a x y => Sys2Proof.Machine.execImov d a x y s
  | .icad d a b p => Sys2Proof.Machine.execIcad d a b p s
  | .ipopc d a f_s => Sys2Proof.Machine.execIpopc d a f_s s
  | .isurv d a b => Sys2Proof.Machine.execIsurv d a b s
  | .ihash d a b => Sys2Proof.Machine.execIhash d a b s
  | .icmp d a b u c => Sys2Proof.Machine.execIcmp d a b u c s
  | .plog d a b o => Sys2Proof.Machine.execPlog d a b o s
  | .vadd d a b p w t => Sys2Proof.Machine.execVadd d a b p w t s
  | .vsub d a b p w t => Sys2Proof.Machine.execVsub d a b p w t s
  | .vadds d a b p w t => Sys2Proof.Machine.execVadds d a b p w t s
  | .vaddsn d a b p w t => Sys2Proof.Machine.execVaddsn d a b p w t s
  | .vsubs d a b p w t => Sys2Proof.Machine.execVsubs d a b p w t s
  | .vsubsn d a b p w t => Sys2Proof.Machine.execVsubsn d a b p w t s
  | .vmul d a b p w t => Sys2Proof.Machine.execVmul d a b p w t s
  | .vmulh d a b p w t => Sys2Proof.Machine.execVmulh d a b p w t s
  | .vmin d a b p w t => Sys2Proof.Machine.execVmin d a b p w t s
  | .vmax d a b p w t => Sys2Proof.Machine.execVmax d a b p w t s
  | .vminn d a b p w t => Sys2Proof.Machine.execVminn d a b p w t s
  | .vmaxn d a b p w t => Sys2Proof.Machine.execVmaxn d a b p w t s
  | .vand d a b p w t => Sys2Proof.Machine.execVand d a b p w t s
  | .vor d a b p w t => Sys2Proof.Machine.execVor d a b p w t s
  | .vxor d a b p w t => Sys2Proof.Machine.execVxor d a b p w t s
  | .vshl d a b p w t => Sys2Proof.Machine.execVshl d a b p w t s
  | .vshr d a b p w t => Sys2Proof.Machine.execVshr d a b p w t s
  | .vsra d a b p w t => Sys2Proof.Machine.execVsra d a b p w t s
  | .vshi d a f_i k w t => Sys2Proof.Machine.execVshi d a f_i k w t s
  | .vcmp c d a b p w t => Sys2Proof.Machine.execVcmp c d a b p w t s
  | .vsel d a b p w t => Sys2Proof.Machine.execVsel d a b p w t s
  | .vfadd d a b p w t => Sys2Proof.Machine.execVfadd d a b p w t s
  | .vfsub d a b p w t => Sys2Proof.Machine.execVfsub d a b p w t s
  | .vfmul d a b p w t => Sys2Proof.Machine.execVfmul d a b p w t s
  | .vfma d a b p w t => Sys2Proof.Machine.execVfma d a b p w t s
  | .vfmin d a b p w t => Sys2Proof.Machine.execVfmin d a b p w t s
  | .vfmax d a b p w t => Sys2Proof.Machine.execVfmax d a b p w t s
  | .vfcmp c d a b p w t => Sys2Proof.Machine.execVfcmp c d a b p w t s
  | .vcvt d a f_s e m x y w t => Sys2Proof.Machine.execVcvt d a f_s e m x y w t s
  | .vmac d a b p w t => Sys2Proof.Machine.execVmac d a b p w t s
  | .vfmac d a b p w t => Sys2Proof.Machine.execVfmac d a b p w t s
  | .vnarrow d a h f_s p w t => Sys2Proof.Machine.execVnarrow d a h f_s p w t s
  | .vaclr d => Sys2Proof.Machine.execVaclr d s
  | .vperm d a b p w t => Sys2Proof.Machine.execVperm d a b p w t s
  | .vshuf d a b k w t => Sys2Proof.Machine.execVshuf d a b k w t s
  | .vbcast d a z p w t => Sys2Proof.Machine.execVbcast d a z p w t s
  | .vslide d a f_i p w t => Sys2Proof.Machine.execVslide d a f_i p w t s
  | .vins d a b p w t => Sys2Proof.Machine.execVins d a b p w t s
  | .vext d a b w t => Sys2Proof.Machine.execVext d a b w t s
  | .vred d a o m p w t => Sys2Proof.Machine.execVred d a o m p w t s
  | .vscan d a o x m p w t => Sys2Proof.Machine.execVscan d a o x m p w t s
  | .vpack4 d a b w t => Sys2Proof.Machine.execVpack4 d a b w t s
  | .vunpk4 d a h w t => Sys2Proof.Machine.execVunpk4 d a h w t s
  | .vpair4 d a b h w t => Sys2Proof.Machine.execVpair4 d a b h w t s
  | .vsgnpk d a k w t => Sys2Proof.Machine.execVsgnpk d a k w t s
  | .vhash d a b p w t => Sys2Proof.Machine.execVhash d a b p w t s
  | .vbcmp d a b p w t => Sys2Proof.Machine.execVbcmp d a b p w t s
  | .vbfind d a b p w t => Sys2Proof.Machine.execVbfind d a b p w t s
  | .vpopc d a z p w t => Sys2Proof.Machine.execVpopc d a z p w t s
  | .vclz d a z p w t => Sys2Proof.Machine.execVclz d a z p w t s
  | .sexp2 d a p w t => Sys2Proof.Machine.execSexp2 d a p w t s
  | .slog2 d a p w t => Sys2Proof.Machine.execSlog2 d a p w t s
  | .srcp d a p w t => Sys2Proof.Machine.execSrcp d a p w t s
  | .srsq d a p w t => Sys2Proof.Machine.execSrsq d a p w t s
  | .ssqrt d a p w t => Sys2Proof.Machine.execSsqrt d a p w t s
  | .rng128 d a b p w t => Sys2Proof.Machine.execRng128 d a b p w t s
  | .scrc d a b p w t => Sys2Proof.Machine.execScrc d a b p w t s
  | .sdiv d a b p w t => Sys2Proof.Machine.execSdiv d a b p w t s
  | .tld t r a b e => Sys2Proof.Machine.execTld t r a b e s
  | .tst t r a b e => Sys2Proof.Machine.execTst t r a b e s
  | .tzero d => Sys2Proof.Machine.execTzero d s
  | .tgetr a f_s f_i => Sys2Proof.Machine.execTgetr a f_s f_i s
  | .tsetr d f_s f_i => Sys2Proof.Machine.execTsetr d f_s f_i s
  | .mlds a f_s o p b => Sys2Proof.Machine.execMlds a f_s o p b s
  | .mswap => Sys2Proof.Machine.execMswap s
  | .mma d a f_s o w b c q => Sys2Proof.Machine.execMma d a f_s o w b c q s
  | .sld f_s w n => Sys2Proof.Machine.execSld f_s w n s
  | .tcvt d a f_s o x p y => Sys2Proof.Machine.execTcvt d a f_s o x p y s
  | .tadd d a o => Sys2Proof.Machine.execTadd d a o s
  | .cpy t a b c => Sys2Proof.Machine.execCpy t a b c s
  | .twany a => Sys2Proof.Machine.execTwany a s
  | .twall a => Sys2Proof.Machine.execTwall a s
  | .tffr d a c => Sys2Proof.Machine.execTffr d a c s
  | .tclr a => Sys2Proof.Machine.execTclr a s
  | .tq t a b e n => Sys2Proof.Machine.execTq t a b e n s
  | .tqp d a => Sys2Proof.Machine.execTqp d a s
  | .tbldef t a => Sys2Proof.Machine.execTbldef t a s
  | .tbldefDrop t a => Sys2Proof.Machine.execTbldefDrop t a s
  | .trepl t a => Sys2Proof.Machine.execTrepl t a s
  | .play p a b => Sys2Proof.Machine.execPlay p a b s
  | .playp d a => Sys2Proof.Machine.execPlayp d a s
  | .pbset t a => Sys2Proof.Machine.execPbset t a s
  | .rset t a => Sys2Proof.Machine.execRset t a s
  | .rsetDrop t a => Sys2Proof.Machine.execRsetDrop t a s
  | .rins t a b => Sys2Proof.Machine.execRins t a b s
  | .rdel t a b => Sys2Proof.Machine.execRdel t a b s
  | .rage t a b => Sys2Proof.Machine.execRage t a b s
  | .rsel n a b f k => Sys2Proof.Machine.execRsel n a b f k s
  | .rselInfo a => Sys2Proof.Machine.execRselInfo a s
  | .rselp d a => Sys2Proof.Machine.execRselp d a s
  | .palloc d a b => Sys2Proof.Machine.execPalloc d a b s
  | .pfree t a b => Sys2Proof.Machine.execPfree t a b s
  | .pseal t a b => Sys2Proof.Machine.execPseal t a b s
  | .pattr t a k => Sys2Proof.Machine.execPattr t a k s
  | .binit t a c => Sys2Proof.Machine.execBinit t a c s
  | .binitFree t c => Sys2Proof.Machine.execBinitFree t c s
  | .barr d g c => Sys2Proof.Machine.execBarr d g c s
  | .bwait a g c => Sys2Proof.Machine.execBwait a g c s
  | .wwatch k a b => Sys2Proof.Machine.execWwatch k a b s
  | .wwait d a => Sys2Proof.Machine.execWwait d a s
  | .tspawn t a b q => Sys2Proof.Machine.execTspawn t a b q s
  | .coll t a b c e z o => Sys2Proof.Machine.execColl t a b c e z o s
  | .bundleDispatch t => Sys2Proof.Machine.execBundleDispatch t s
  | .loadDataReturn t pos slot => Sys2Proof.Machine.execLoadDataReturn t pos slot s
  | .bundleCommit t => Sys2Proof.Machine.execBundleCommit t s
  | .contextSwitch k => Sys2Proof.Machine.execContextSwitch k s
  | .faultRecordWrite t => Sys2Proof.Machine.execFaultRecordWrite t s
  | .notice t => Sys2Proof.Machine.execNotice t s
  | .asynchronousTrap t => Sys2Proof.Machine.execAsynchronousTrap t s
  | .drainEnd t => Sys2Proof.Machine.execDrainEnd t s
  | .preEmption q l => Sys2Proof.Machine.execPreEmption q l s
  | .launchResume l => Sys2Proof.Machine.execLaunchResume l s
  | .mtxAcceptance t => Sys2Proof.Machine.execMtxAcceptance t s
  | .mtxWorkEnd id => Sys2Proof.Machine.execMtxWorkEnd id s
  | .serviceCompletion id ok => Sys2Proof.Machine.execServiceCompletion id ok s
  | .dieAcknowledge asid page die => Sys2Proof.Machine.execDieAcknowledge asid page die s
  | .kvPoolRefill asid pool frame => Sys2Proof.Machine.execKvPoolRefill asid pool frame s
  | .scrub asid pool p => Sys2Proof.Machine.execScrub asid pool p s
  | .cpyAcceptance id => Sys2Proof.Machine.execCpyAcceptance id s
  | .cpyPiece id j => Sys2Proof.Machine.execCpyPiece id j s
  | .redApplication id merged => Sys2Proof.Machine.execRedApplication id merged s
  | .pbsetFlush id => Sys2Proof.Machine.execPbsetFlush id s
  | .playArrival id => Sys2Proof.Machine.execPlayArrival id s
  | .playValidation id => Sys2Proof.Machine.execPlayValidation id s
  | .playPerform id parity => Sys2Proof.Machine.execPlayPerform id parity s
  | .tableQuery id => Sys2Proof.Machine.execTableQuery id s
  | .tbldefSuboperation id => Sys2Proof.Machine.execTbldefSuboperation id s
  | .treplSuboperation id => Sys2Proof.Machine.execTreplSuboperation id s
  | .rsetSuboperation id => Sys2Proof.Machine.execRsetSuboperation id s
  | .rsetDropSuboperation id => Sys2Proof.Machine.execRsetDropSuboperation id s
  | .rinsSuboperation id => Sys2Proof.Machine.execRinsSuboperation id s
  | .spillWrite asid set lidx => Sys2Proof.Machine.execSpillWrite asid set lidx s
  | .rdelSuboperation id => Sys2Proof.Machine.execRdelSuboperation id s
  | .rageSuboperation id => Sys2Proof.Machine.execRageSuboperation id s
  | .rselSuboperation id => Sys2Proof.Machine.execRselSuboperation id s
  | .rselInfoSuboperation id => Sys2Proof.Machine.execRselInfoSuboperation id s
  | .pfreeSuboperation id => Sys2Proof.Machine.execPfreeSuboperation id s
  | .psealSuboperation id => Sys2Proof.Machine.execPsealSuboperation id s
  | .pattrSuboperation id => Sys2Proof.Machine.execPattrSuboperation id s
  | .binitSuboperation id => Sys2Proof.Machine.execBinitSuboperation id s
  | .barrierArrival id => Sys2Proof.Machine.execBarrierArrival id s
  | .collective id => Sys2Proof.Machine.execCollective id s
  | .taskEntry id => Sys2Proof.Machine.execTaskEntry id s
  | .launch q => Sys2Proof.Machine.execLaunch q s
  | .load q => Sys2Proof.Machine.execLoad q s
  | .loadingCheck h => Sys2Proof.Machine.execLoadingCheck h s
  | .unload q => Sys2Proof.Machine.execUnload q s
  | .graph q => Sys2Proof.Machine.execGraph q s
  | .graphDrop q => Sys2Proof.Machine.execGraphDrop q s
  | .recordTake q => Sys2Proof.Machine.execRecordTake q s
  | .taskDispatch => Sys2Proof.Machine.execTaskDispatch s
  | .launchCompletion l => Sys2Proof.Machine.execLaunchCompletion l s
  | .taskRecordEnqueue id => Sys2Proof.Machine.execTaskRecordEnqueue id s
  | .graphNodeCompletion g n => Sys2Proof.Machine.execGraphNodeCompletion g n s
  | .eprioAging q => Sys2Proof.Machine.execEprioAging q s
  | .kick v => Sys2Proof.Machine.execKick v s
  | .unmap v => Sys2Proof.Machine.execUnmap v s
  | .unmapDone => Sys2Proof.Machine.execUnmapDone s
  | .queueEnable q v => Sys2Proof.Machine.execQueueEnable q v s
  | .queueDisable q v => Sys2Proof.Machine.execQueueDisable q v s
  | .drainSet q v => Sys2Proof.Machine.execDrainSet q v s
  | .drainClear q v => Sys2Proof.Machine.execDrainClear q v s
  | .prioChange q v => Sys2Proof.Machine.execPrioChange q v s
  | .qtail q v => Sys2Proof.Machine.execQtail q v s
  | .lscr v => Sys2Proof.Machine.execLscr v s
  | .astb v => Sys2Proof.Machine.execAstb v s
  | .modesel v => Sys2Proof.Machine.execModesel v s
  | .svcdone v => Sys2Proof.Machine.execSvcdone v s
  | .resume v => Sys2Proof.Machine.execResume v s
  | .resumeAt v => Sys2Proof.Machine.execResumeAt v s
  | .terminate v => Sys2Proof.Machine.execTerminate v s
  | .pcap v => Sys2Proof.Machine.execPcap v s
  | .registerWrite off v => Sys2Proof.Machine.execRegisterWrite off v s
  | .linkEnable l v => Sys2Proof.Machine.execLinkEnable l v s
  | .linkDisable l v => Sys2Proof.Machine.execLinkDisable l v s
  | .retrain l v => Sys2Proof.Machine.execRetrain l v s
  | .trainingComplete l lanes => Sys2Proof.Machine.execTrainingComplete l lanes s
  | .trainingTimeout l lanes => Sys2Proof.Machine.execTrainingTimeout l lanes s
  | .laneFailure l lanes => Sys2Proof.Machine.execLaneFailure l lanes s
  | .laneRetraining l => Sys2Proof.Machine.execLaneRetraining l s
  | .flitReceive l f => Sys2Proof.Machine.execFlitReceive l f s
  | .retryExhausted l => Sys2Proof.Machine.execRetryExhausted l s
  | .partnerTimeout l => Sys2Proof.Machine.execPartnerTimeout l s
  | .linkRetraining l => Sys2Proof.Machine.execLinkRetraining l s
  | .peerAccess r => Sys2Proof.Machine.execPeerAccess r s
  | .refusal id r => Sys2Proof.Machine.execRefusal id r s
  | .acknowledgement id => Sys2Proof.Machine.execAcknowledgement id s
  | .hostMemoryRequest r => Sys2Proof.Machine.execHostMemoryRequest r s
  | .sensorSample x => Sys2Proof.Machine.execSensorSample x s
  | .capRelease => Sys2Proof.Machine.execCapRelease s
  | .eventLogRead n => Sys2Proof.Machine.execEventLogRead n s
  | .firmwareUpdate image => Sys2Proof.Machine.execFirmwareUpdate image s
  | .lemantReset => Sys2Proof.Machine.execLemantReset s
  | .firmwareConfirmationTimeout => Sys2Proof.Machine.execFirmwareConfirmationTimeout s
  | .keySlotLoad load authenticated => Sys2Proof.Machine.execKeySlotLoad load authenticated s
  | .deviceReset => Sys2Proof.Machine.execDeviceReset s
  | .firmwareConfirmation => Sys2Proof.Machine.execFirmwareConfirmation s
  | .fixedComparatorTrip die volt => Sys2Proof.Machine.execFixedComparatorTrip die volt s

end Sys2Proof.Machine
end

