-- ==== Sys2Proof/Machine/Drive.lean ====
section
/-!
DEFINITION. What drives the device from one step to the next: the start of a slot word, the moves of the schedule, and
what a core and the engines do by themselves. `ex` stands for the meaning of an instruction.
-/
namespace Sys2Proof.Machine

/-- Goes on where a step gives a next state. -/
def thenStep (r : Out) (k : State → Out) : Out :=
  match r with
  | .next s => k s
  | other => other

/-! ### The start of a word (R84, R87, R124, R234) -/

/-- Whether a word can start: it is queued without a wait, or is a FENCE.sys that has not executed. -/
def SlotWord.startable (w : SlotWord) : Bool :=
  (w.progress == .queued && w.wait.isNone) || (w.progress == .started && (match w.instr with
    | some (.fence _) => true
    | _ => false))

/-- Whether a word stands in its slot's queue: it has not started. -/
def SlotWord.waiting (w : SlotWord) : Bool := w.progress == .queued || w.startable

/-- The oldest word in the queue of a slot. -/
def Context.nextWord (c : Context) (slot : Nat) : Option (Bundle × SlotWord) :=
  c.inflight.findSome? fun b => (b.words.find? fun w => w.slot == slot && w.waiting).map fun w => (b, w)

/-- A FENCE.sys of bundle n or an earlier one has not executed. -/
def Context.fenced (c : Context) (n : Nat) : Bool :=
  c.inflight.any fun b => decide (b.pos ≤ n) && b.words.any fun w => w.progress != .executed && (match w.instr with
    | some (.fence k) => k.getLsbD 2
    | _ => false)

/-- An earlier bundle's write of accumulator n has not executed (R77). -/
def Context.accumulating (c : Context) (pos n : Nat) : Bool :=
  c.inflight.any fun b => decide (b.pos < pos) && b.words.any fun w => w.progress != .executed && (match w.instr with
    | some i => (Instr.uses 0 i).dests.any fun d => d.1 == 192 + n
    | none => false)

/-- What accesses memory or commands a context when its bundle commits. -/
def Effect.reaches : Effect → Bool
  | .store .. => true
  | .red .. => true
  | .amo .. => true
  | .cas .. => true
  | .palloc .. => true
  | .barr .. => true
  | .fcmd _ => true
  | _ => false

/-- A bundle that waits for its FENCE.sys alone, and whose commit reaches no memory: loads of device memory pass it (R124). -/
def Bundle.fencing (b : Bundle) : Bool :=
  b.traps == [] && b.mtx.isNone && (b.effects.all fun e => !e.2.reaches) && b.words.all fun w =>
    w.progress == .executed || (w.progress == .started && (match w.instr with
      | some (.fence _) => true
      | _ => false))

/-- The order in which a context's accesses start: in its oldest bundle, or as a load of device memory behind bundles that
only fence (R124, R234). -/
def State.inTurn (s : State) (t : Nat) (b : Bundle) (i : Instr) : Bool :=
  let here : State := { s with focus := { ticket := t, pos := b.pos, slot := 1 } }
  ((s.ctx t).inflight.takeWhile fun x => x.pos != b.pos).all fun x =>
    x.fencing && here.loadSegs i != [] && !here.isRemote (here.loadSegs i)

/-- The words of slot 7 that read memory, and so what the ADR word of their bundle stores (R6). -/
def Instr.readsView : Instr → Bool
  | .palloc .. => true
  | .pfree .. => true
  | .pseal .. => true
  | .tbldef .. => true
  | .rset .. => true
  | .tspawn .. => true
  | _ => false

/-- The words of the MTX slot that reach memory, which start at the head of its queue (R177). -/
def Instr.isTileAccess : Instr → Bool
  | .tld .. => true
  | .tst .. => true
  | .sld .. => true
  | _ => false

/-- A word of the same bundle whose stores slot 7 is to see has not been judged yet: the ADR word, or a TST (R6). -/
def SlotWord.hidesStores (w : SlotWord) : Bool :=
  w.progress == .queued && (w.slot == 1 || (match w.instr with
    | some (.tst ..) => true
    | _ => false))

/-- An earlier bundle's MTX word has not started (R177). -/
def Context.behindMtx (c : Context) (pos : Nat) : Bool :=
  c.inflight.any fun b => decide (b.pos < pos) && b.words.any fun w => w.slot == 5 && w.unstarted

/-- What holds a word at the head of its slot's queue: the order of the context's accesses, the stores of its own bundle, store
data that an earlier word has still to push, an accumulator still to be written, or a FENCE.sys before an access to a
window. -/
def State.heldBack (s : State) (t : Nat) (b : Bundle) (slot : Nat) (i : Instr) : Bool :=
  let c := s.ctx t
  let here : State := { s with focus := { ticket := t, pos := b.pos, slot := slot } }
  (if Instr.isTileAccess i then c.behindMtx b.pos else Instr.inOrder i && !s.inTurn t b i)
    || (Instr.readsView i && b.words.any SlotWord.hidesStores)
    || (c.queues.any fun q => q.2.any fun e => !e.filled && (match e.taken with
        | some (p, sl, _) => p == b.pos && sl == slot
        | none => false))
    || (match i with
        | .vmac d _ _ _ _ _ => c.accumulating b.pos d.toNat
        | .vfmac d _ _ _ _ _ => c.accumulating b.pos d.toNat
        | _ => false)
    || (c.fenced b.pos && here.isRemote (here.loadSegs i))

/-- Whether a read of a register in bundle m meets an uncorrectable error; an accumulator read by VMAC follows the chain of
earlier writes (R77). -/
def Context.badRead (c : Context) (m : Nat) (chain : Bool) (code : Nat) : Bool :=
  let acc := chain && decide (192 ≤ code) && decide (code < 208)
  let ls := if acc then c.land.filter fun l => decide (l.src < m) else c.land
  match landed (fun w => if w.code == some code then some () else none) (if acc then m + 3 else m) ls with
  | some (l, _) => l.bad
  | none => c.badReg.contains code

/-- The cause of the error that a word would consume in a register or a popped entry (R385). -/
def State.consumed (s : State) (t : Nat) (b : Bundle) (slot : Nat) (i : Instr) : Option Nat :=
  let c := s.ctx t
  let chain := match i with
    | .vmac .. => true
    | .vfmac .. => true
    | _ => false
  if (Instr.uses 0 i).reads.any (c.badRead b.pos chain) then some 6
  else c.queues.findSome? fun q => q.2.findSome? fun e => match e.taken with
    | some (p, sl, _) => if p == b.pos && sl == slot then e.bad else none
    | none => none

/-- A word starts: it is executed with the focus on it, or its operands hold an error. -/
def State.startWord1 (ex : Instr → State → Out) (s : State) (t : Nat) (b : Bundle) (slot : Nat) (i : Instr) : Out :=
  let s : State := { s with focus := { ticket := t, pos := b.pos, slot := slot } }
  match s.consumed t b slot i with
  | some cause => ((s.trap 11 cause 0 0).takeTraps t).done
  | none => thenStep (ex i s) fun s => (s.takeTraps t).done

/-- Starts the oldest word of a slot, where it can start. -/
def State.startSlot (ex : Instr → State → Out) (s : State) (t slot : Nat) : Out :=
  let c := s.ctx t
  if c.state == .empty || c.state == .faulted || c.state == .saved then .next s
  else match c.nextWord slot with
    | none => .next s
    | some (b, w) =>
      match w.instr with
      | none => .next s
      | some i => if !w.startable || s.heldBack t b slot i then .next s else s.startWord1 ex t b slot i

/-! ### Upsets and evictions (R233, R385, R427) -/

/-- Marks entry n of a queue. -/
def badEntry (n : Nat) (es : List Entry) : List Entry :=
  ((List.range es.length).zip es).map fun e => if e.1 == n then { e.2 with bad := some 6 } else e.2

def badLanding (n : Nat) (ls : List Landing) : List Landing :=
  ((List.range ls.length).zip ls).map fun l => if l.1 == n then { l.2 with bad := true } else l.2

/-! ### What the device does by itself -/

/-- The next step of an operation that needs no answer from outside. -/
def Op.event (o : Op) : Option Instr :=
  match o.kind with
  | .cpy _ _ _ accepted next => some (if accepted then .cpyPiece o.id next else .cpyAcceptance o.id)
  | .red .. => some (.redApplication o.id [])
  | .pbset _ => some (.pbsetFlush o.id)
  | .play .sent .. => some (.playArrival o.id)
  | .play .parked .. => some (.playPerform o.id none)
  | .play .fetching .. => some (.playValidation o.id)
  | .play .ready .. => some (.playPerform o.id none)
  | .tq _ => some (.tableQuery o.id)
  | .tbldef .. => some (.tbldefSuboperation o.id)
  | .tbldefDrop _ => some (.tbldefSuboperation o.id)
  | .trepl _ => some (.treplSuboperation o.id)
  | .rset .. => some (.rsetSuboperation o.id)
  | .rsetDrop _ => some (.rsetDropSuboperation o.id)
  | .rins .. => some (.rinsSuboperation o.id)
  | .rdel .. => some (.rdelSuboperation o.id)
  | .rage .. => some (.rageSuboperation o.id)
  | .rsel .. => some (.rselSuboperation o.id)
  | .rselInfo .. => some (.rselInfoSuboperation o.id)
  | .pfree .. => some (.pfreeSuboperation o.id)
  | .pseal .. => some (.psealSuboperation o.id)
  | .pattr .. => some (.pattrSuboperation o.id)
  | .binit .. => some (.binitSuboperation o.id)
  | .binitFree _ => some (.binitSuboperation o.id)
  | .barr .. => some (.barrierArrival o.id)
  | .coll .. => some (.collective o.id)
  | .tspawn .. => some (.taskEntry o.id)
  | .act3 .. => some (.taskRecordEnqueue o.id)
  | .upload q _ => some (.graph q)
  | .kick _ => none
  | .peer _ => none
  | .resumeAt _ => none
  | .node g n => some (.graphNodeCompletion g n)
  | .mtx .. => some (.mtxWorkEnd o.id)
  | .scrub .. => none
  | .sysLoad .. => none
  | .sysWrite .. => none
  | .sysAmo .. => none
  | .hostWrite .. => none

/-- The steps, other than those of operations, that the device can take by itself. -/
def State.ownEvents (s : State) : List Instr :=
  (s.services.filterMap fun v => match v.answer with
    | some a => if v.func == 0 then some (.serviceCompletion v.id (a.1 == 0)) else none
    | none => none)
  ++ (s.collapsing.flatMap fun c => (List.range 4).map fun d => .dieAcknowledge c.asid c.page d)
  ++ (s.sets.flatMap fun r => (r.rows.filter (·.writing)).map fun x => .spillWrite r.desc.asid r.desc.handle x.lidx)
  ++ (s.ctxs.flatMap fun e => match e.2.fault with
    | some _ => [.faultRecordWrite e.1, .notice e.1]
    | none => if e.2.block == some .drain then [.drainEnd e.1] else if e.2.pending == [] then [] else [.asynchronousTrap e.1])
  ++ (s.kernels.filterMap fun e => if e.2.state == .loading then some (.loadingCheck e.1) else none)
  ++ s.launches.map (fun e => .launchCompletion e.1)
  ++ (s.graphs.flatMap fun e => (e.2.nodes.filter fun n => 2 ≤ n.2.status && n.2.status != 3 && n.2.status != 4).map fun n =>
    .graphNodeCompletion e.1 n.1)
  ++ (if s.unmap.getLsbD 2 then [.unmapDone] else [])
  ++ (match s.chosen with
    | some (q, .command t) =>
      if t.node.isSome then [.taskDispatch]
      else match recType t.record with
        | 2 => [.load q]
        | 3 => [.unload q]
        | 4 => [.graph q]
        | 5 => [.graphDrop q]
        | _ => [.taskDispatch]
    | some _ => [.taskDispatch]
    | none => [])
  ++ (s.queues.map fun e => .recordTake e.1)

/-- Takes a list of steps one after another. -/
def takeSteps (ex : Instr → State → Out) : List Instr → State → Out
  | [], s => .next s
  | i :: is, s => thenStep (ex i s) (takeSteps ex is)

/-- The commands and accesses of nobody that waited for a page go on once it has been served or refused: RESUME_AT, KICK, a
request of a peer, and an access whose link has fenced (R415). -/
def State.resumeOne (s : State) (o : Op) : State :=
  if o.wait.isSome then s
  else match o.kind, o.who with
    | .resumeAt t, _ => s.goResume o t
    | .kick v, _ => s.kickStep v (some o)
    | .peer r, _ => s.goPeer o r
    | .sysWrite .., none => s.goOn o
    | .sysAmo .., none => s.goOn o
    | _, _ => s

def State.resumeWaiting (s : State) : State := s.ops.foldl State.resumeOne s

/-- Every operation in flight, and then the rest of the device, goes on by a step. -/
def State.engines (ex : Instr → State → Out) (s : State) : Out :=
  thenStep (takeSteps ex (s.ops.filterMap Op.event) s) fun s =>
    let s := s.resumeWaiting
    takeSteps ex s.ownEvents s

/-- The slots of a bundle in their order. -/
def slotOrder : List Nat := [0, 1, 2, 3, 4, 5, 6, 7]

/-- Starts what can start in the slots of a list. -/
def startSlots (ex : Instr → State → Out) (t : Nat) : List Nat → State → Out
  | [], s => .next s
  | slot :: rest, s => thenStep (s.startSlot ex t slot) (startSlots ex t rest)

/-- The oldest bundle goes on: its words start, its load data return, its MTX word is accepted and it commits. -/
def State.finishBundle (ex : Instr → State → Out) (t : Nat) (s : State) : Out :=
  thenStep (startSlots ex t slotOrder s) fun s =>
    match (s.ctx t).inflight with
    | [] => .next s
    | b :: _ =>
      thenStep (if (s.remoteLoad t b.pos 1).isNone then ex (.loadDataReturn t b.pos 1) s else .next s) fun s =>
        thenStep (ex (.mtxAcceptance t) s) (ex (.bundleCommit t))

/-- A context that has met a trap or a wait while it did not run takes it as it runs (Table 4-3). -/
def Context.owes (c : Context) : Bool := c.trapDue || c.waitsFor false || c.waitsFor true

/-- A context runs one bundle: it dispatches if none is in flight, and goes on as far as it can. -/
def State.runBundle (ex : Instr → State → Out) (t : Nat) (s : State) : Out :=
  if (s.ctx t).inflight == [] || (s.ctx t).owes then thenStep (ex (.bundleDispatch t) s) (State.finishBundle ex t)
  else s.finishBundle ex t

/-- Whether a context has got on: it has dispatched, committed or changed its state. -/
def Context.moved (c d : Context) : Bool :=
  c.pos != d.pos || c.inflight.length != d.inflight.length || c.state != d.state

/-- A core by itself: its RUNNING context runs a bundle, or a READY one is chosen; where it cannot get on, the engines do. -/
def State.autoCore (ex : Instr → State → Out) (s : State) (k : Nat) : Out :=
  match (s.switchOrder k).find? fun t => (s.ctx t).state == .running with
  | some t =>
    if (firstDue (s.ctx t).pos (s.ctx t).pending).isSome && (s.ctx t).inflight == [] && (s.ctx t).block != some .drain then ex (.asynchronousTrap t) s
    else thenStep (s.runBundle ex t) fun s' => if (s.ctx t).moved (s'.ctx t) then .next s' else s'.engines ex
  | none =>
    if (s.switchOrder k).any fun t => (s.ctx t).state == .ready then ex (.contextSwitch k) s else s.engines ex

/-! ### The schedule -/

/-- An uncorrectable error comes to stand at a byte of a place. -/
def State.upset (s : State) (p : Place) (a cause : Nat) : State := { s with upsets := s.upsets ++ [Upset.mk p a cause] }

/-- Data that reach the started words of a bundle over the network carry a parity error (R427). -/
def Bundle.parity (b : Bundle) (cause : Nat) : Bundle :=
  { b with words := b.words.map fun w => if w.progress == .started then { w with bad := some cause } else w }

/-- A core gives back a sector of its L1: an owned one goes home first, and an error in it is reported (R228,
R385). -/
def State.releaseSector (s : State) (core sector : Nat) : State :=
  match SMap.get? s.l1 (sectorKey core sector) with
  | none => s
  | some x =>
    let l := sector / 4
    let y := s.lineTimes l
    let told := if x.owned then s.dirtyUpsets [(sectorKey core sector, x)] else []
    told.foldl (fun s u => s.reportUpset u)
      ({ s with
        l1 := SMap.erase s.l1 (sectorKey core sector)
        lines := if x.owned then SMap.set s.lines l (max y.1 x.written, max y.2 x.lease) else s.lines } : State)

/-- One move of the schedule. -/
def State.move (ex : Instr → State → Out) (s : State) : Move → Out
  | .ev i => if Instr.isEvent i then ex i s else .next s
  | .word t slot => s.startSlot ex t slot
  | .auto k => s.autoCore ex k
  | .evict line => .next (s.evict line)
  | .release core sector => .next (s.releaseSector core sector)
  | .upsetMem pa => .next (s.upset .phys pa 8)
  | .upsetCache pa => .next (s.upset .phys pa 7)
  | .upsetLscr off => .next (s.upset .lscr off 7)
  | .upsetScratch k off => .next (s.upset (.scratch k) off 7)
  | .upsetReg t code => .next (s.modCtx t fun c => { c with badReg := c.badReg ++ [code] })
  | .upsetQueue t q n => .next (s.modCtx t fun c => c.setQueue q (badEntry n (c.queue q)))
  | .upsetLanding t n => .next (s.modCtx t fun c => { c with land := badLanding n c.land })
  | .upsetMtx k code => .next (s.modCore k fun c => { c with badMtx := c.badMtx ++ [code] })
  | .parity t pos cause => .next (s.modBundle t pos fun b => if 6 ≤ cause && cause ≤ 8 then b.parity cause else b)
  | .parityEvent addr => .next (s.report 1 0 addr [])
  | .patrol pa => .next (s.patrol pa)
  | .remote va bs => .next (s.poke .remote va bs)
  | .fab link a =>
    if link < 2 || 10 ≤ link || !(s.link link).usable || !s.memberOn link then .next s
    else .next { s with fabArrivals := s.fabArrivals ++ [(s.nextId, a)], nextId := s.nextId + 1 }
  | .fabLost taskid j => .next { s with fabLost := s.fabLost ++ [(taskid, j, 2 ^ 64)] }
  | .sendFlit l header payload => .next (s.sendFlit l header payload)
  | .flitPasses l => .next (s.flitPasses l)
  | .flitsTaken l seq => .next (s.flitsTaken l seq)
  | .flitsAsked l seq => .next (s.flitsAsked l seq)
  | .lemant off bs => .next { s with lemant := { s.lemant with sram := Mem.write s.lemant.sram off bs } }

/-- The contexts whose matrix word can be accepted: those that could before, and behind them, lower ones first, those that can
now (R177). -/
def State.orderMtx (s : State) : State :=
  let kept := s.mtxOrder.filter s.acceptable
  { s with mtxOrder := kept ++ (s.ctxs.map (·.1)).filter fun t => s.acceptable t && !kept.contains t }

/-- What follows every step from a state: idle cores have selected a context, matrix words stand in the order of their
acceptance, heads that may pre-empt have claimed their cores, and the save areas hold what has changed in SAVED contexts (R92,
R177, R351, R393). -/
def State.afterStep (before s : State) : State := (s.selectContexts.orderMtx.claimCores).saveChanges before

/-- The next move of the schedule, or, where that is empty, the focused core by itself. -/
def State.advance (ex : Instr → State → Out) (s : State) : Out :=
  match s.agenda with
  | m :: rest => State.move ex { s with agenda := rest } m
  | [] => s.autoCore ex (coreOf s.focus.ticket)

/-- One step of the device. -/
def State.drive (ex : Instr → State → Out) (s : State) : Out := thenStep (s.advance ex) fun t => .next (s.afterStep t)

end Sys2Proof.Machine
end

