-- ==== Sys2Proof/Machine/Loader.lean ====
section
/-!
DEFINITION. The load that stands for LOAD and LAUNCH records of a host: one bundle of one word in the memory of a mapped
address space, and a running context whose next bundle it is (assumption 8).
-/
namespace Sys2Proof.Machine

/-- The slot in which a word of an opcode space is issued. -/
def spaceSlot : Space → Nat
  | .scl => 0
  | .adr => 1
  | .idx => 2
  | .vec => 3
  | .mtx => 5
  | .sfu => 6
  | .eng => 7

/-- The slot of a table word, by the first opcode space that has it (assumption 2). -/
def slotOfWord (w : Nat) : Nat := ((spaceOf w allSpaces).map fun x => spaceSlot x.1).getD 0

def loadBase : Nat := 0x1_0000

/-- The captured header: a code segment of 64 bytes at the kernel's base, twelve tiles, one context, a whole scratchpad. -/
def loadHeader : Nat :=
  0x4B56_4B48 + 2 ^ 32 + 2 ^ 48 + 12 * 2 ^ 56 + 0x180000 * 2 ^ 64 + 64 * 2 ^ 256 + 2 ^ 368

/-- The task record behind the launch. -/
def loadTask : Task :=
  { id := 0, record := 1, asid := some 0, time := 0, deps := 0, service := none, node := none, resume := none }

def loadLaunch : Launch :=
  { task := loadTask, kernel := 0, asid := 0, queue := 0, handler := false, c := 1, lw := 0, lh := 0, gw := 0, gh := 0,
    x0 := 0, y0 := 0, ox := 0, oy := 0, ended := [], faulted := false, preempted := false, saved := [], savedCores := [],
    area := 0, areaLen := 0, groups := [(0, { Barrier.free with state := 1, count := 1 })], colls := [], time := 0 }

def loadKernel : Kernel :=
  { state := .resident, asid := 0, base := loadBase, hdr := loadHeader, code := [], captured := true, live := 1, item := 0,
    queue := 0, off := 0, taskid := 0, wait := none, denied := [] }

/-- One bundle of one word. -/
def loadBundle (slot w : Nat) : List Byte := leBytes 4 (2 ^ (24 + slot)) ++ leBytes 4 w

/-- The running context of the launch, with the registers that its place held. -/
def Context.loaded (c : Context) : Context :=
  { c with
    who := { launch := 0, inst := 0 }, state := .running, reason := 0, arg := 0, block := none, handler := false, asid := 0
    land := [], awaited := [], pc := loadBase, inflight := [], fetchWait := none, town := 0xFFF, grants := 0xFFF, pending := []
    brkSkip := none, fault := none, met := none }

/-- One bundle of one word at the load's base, with the tables that map it: an address space whose first 64 GiB are
physical addresses. -/
def State.loadMemory (s : State) (slot w : Nat) : State :=
  let m := Mem.write s.mem 0x200000 (leBytes 32 (0x210000 + 1))
  let m := Mem.write m 0x210000 (leBytes 8 (0x220000 + 1))
  let m := Mem.write m 0x220000 (leBytes 8 0xF)
  let m := Mem.write m loadBase (loadBundle slot w)
  { s with mem := m, astb := 0x200001, faulting := [], collapsing := [], upsets := [] }

/-- Places a word as the next bundle of context 0 of core 0, which the next step runs. -/
def State.placeWord (s : State) (slot w : Nat) : State :=
  let s := s.loadMemory slot w
  let s : State := { s with
    agenda := []
    focus := { ticket := 0, pos := 0, slot := 0 }
    lemant := { s.lemant with power := .normal }
    launches := SMap.set s.launches 0 loadLaunch
    kernels := SMap.set s.kernels 0 { loadKernel with code := Mem.ofBytes (loadBundle slot w) } }
  (s.modCore 0 fun c => { c with last := 3 }).modCtx 0 Context.loaded

end Sys2Proof.Machine
end

