-- ==== Sys2Proof/Machine/Step.lean ====
section
/-!
DEFINITION. One step of the device, and the state whose next step runs a given word.
-/
namespace Sys2Proof.Machine

/-- One step: the next move of the schedule, or, where it is empty, the focused core by itself. -/
def step (s : State) : Host.Outcome State Fault Refusal := s.drive exec

/-- The state with a table word stored where the next step fetches its bundle. -/
def State.withFetchWord (s : State) (nbits w : Nat) : State := s.placeWord (slotOfWord w) (w % 2 ^ nbits)

end Sys2Proof.Machine
end

