-- ==== Sys2Proof/Safety.lean ====
section
/-!
DEFINITION. What counts as a safe run of the device, and the terms in which the statements speak: what a register reads
as, the results that a word lands, and what a word or a step of the device leaves as it was.
-/
namespace Sys2Proof

open Sys2Proof.Machine

/-! ### Runs -/

/-- The states that steps lead to from a state. -/
inductive Reaches (s : State) : State → Prop where
  | here : Reaches s s
  | step {t u : State} : Reaches s t → Machine.step t = .next u → Reaches s u

/-- No step from a state, nor from any that follows it, ends in a fault or a refusal. -/
def Safe (s : State) : Prop := ∀ t, Reaches s t → ∃ u, Machine.step t = .next u

/-- The keys of a finite map rise strictly. -/
def Ordered {α : Type} (m : SMap α) : Prop := m.Pairwise fun a b => a.1 < b.1

/-! ### Registers -/

/-- The registers in which results land. -/
inductive Reg where
  | s (n : Nat)
  | i (n : Nat)
  | v (n : Nat)
  | a (n : Nat)
  | p (n : Nat)
  | slackr
  | pbk
  deriving DecidableEq, Repr

/-- The registers that read as a constant: s0 and p0. -/
def Reg.fixed : Reg → Bool
  | .s n => n == 0
  | .p n => n == 0
  | _ => false

/-- The register that a write names. -/
def writeReg : Write → Reg
  | .s n _ => .s n
  | .i n _ => .i n
  | .v n _ => .v n
  | .a n _ => .a n
  | .p n _ => .p n
  | .slackr _ => .slackr
  | .pbk _ => .pbk

/-- What a register of a context reads as in the bundle at a position. -/
def regRead (c : Context) (m : Nat) : Reg → Nat
  | .s n => (c.readS m n).toNat
  | .i n => (c.readI m n).toNat
  | .v n => (c.readV m n).toNat
  | .a n => (c.readA m n).toNat
  | .p n => (c.readP m n).toNat
  | .slackr => (c.readSlackr m).toNat
  | .pbk => (c.readPbk m).toNat

/-- Another result for the register is in flight that has landed at bundle m and remains over one that the word in focus
issues with latency `lat`: it lands later, or at the same bundle from a later issue. -/
def overtaken (s : State) (lat : Nat) (r : Reg) (m : Nat) : Bool :=
  s.cur.land.any fun l => writeReg l.write == r && decide (l.pos ≤ m) &&
    (decide (s.focus.pos + lat < l.pos) || (l.pos == s.focus.pos + lat && decide (s.focus.pos < l.src)))

/-- The results of the word in focus: each register of the list reads as its value from the bundle `lat` later on, unless
another result remains over it; a constant register takes none; every other reading is what it was. -/
def Lands (s t : State) (lat : Nat) (rs : List (Reg × Nat)) : Prop :=
  ∀ m r, regRead t.cur m r =
    match rs.find? (fun x => x.1 == r) with
    | some x => if !r.fixed && decide (s.focus.pos + lat ≤ m) && !overtaken s lat r m then x.2 else regRead s.cur m r
    | none => regRead s.cur m r

/-! ### What a word leaves as it was -/

/-- The word in a slot of the bundle at a position has executed; the rest of the bundle is as it was. -/
def executed (pos slot : Nat) (b : Bundle) : Bundle :=
  if b.pos = pos then
    { b with words := b.words.map fun w =>
        if w.slot = slot ∧ w.progress = .queued ∧ w.wait = none then { w with progress := .executed } else w }
  else b

/-- The device outside the context of the word in focus is as it was. -/
def ContextOnly (s t : State) : Prop :=
  t = { s with ctxs := t.ctxs } ∧ (∀ k, k ≠ s.focus.ticket → t.ctx k = s.ctx k) ∧ ∀ a, Mem.read t.mem a = Mem.read s.mem a

/-- The frame of a word that lands results and does nothing else: the device outside its context is as it was, and in its
context only results in flight and the word's own progress change. -/
def LandsOnly (s t : State) : Prop :=
  ContextOnly s t ∧
    t.cur = { s.cur with land := t.cur.land, inflight := s.cur.inflight.map (executed s.focus.pos s.focus.slot) }

/-- A word completes with results: one next state, whose results and frame are these. -/
def Results (i : Instr) (s : State) (lat : Nat) (rs : List (Reg × Nat)) : Prop :=
  ∃ t, exec i s = .next t ∧ Lands s t lat rs ∧ LandsOnly s t

/-- A word completes with one scalar result. -/
def ScalarResult (i : Instr) (s : State) (lat : Nat) (d : BitVec 6) (x : Word) : Prop :=
  Results i s lat [(.s d.toNat, x.toNat)]

/-- A word completes with one index result. -/
def IndexResult (i : Instr) (s : State) (lat : Nat) (d : BitVec 6) (x : Index) : Prop :=
  Results i s lat [(.i d.toNat, x.toNat)]

/-- A bundle whose control transfer has been decided. -/
def targeted (pos : Nat) (target : Option Nat) (b : Bundle) : Bundle :=
  if b.pos = pos ∧ target ≠ none then { b with target := target } else b

/-- A control transfer completes: its results land at the next bundle; if it is taken, the context fetches next at the
target, which its bundle keeps; nothing else changes. -/
def Transfers (i : Instr) (s : State) (rs : List (Reg × Nat)) (target : Option Nat) : Prop :=
  ∃ t, exec i s = .next t ∧ Lands s t 1 rs ∧ ContextOnly s t ∧
    t.cur = { s.cur with
      land := t.cur.land
      pc := target.getD s.cur.pc
      inflight := (s.cur.inflight.map (targeted s.focus.pos target)).map (executed s.focus.pos s.focus.slot) }

/-- A bundle with an effect that waits for its commit, in slot order. -/
def withEffect (pos slot : Nat) (e : Effect) (b : Bundle) : Bundle :=
  if b.pos = pos then { b with effects := insertEffect (slot, e) b.effects } else b

/-- A word that has read its way from `s` to `u` completes by leaving an effect for the commit of its bundle, and nothing else
changes before that. -/
def LeavesFrom (i : Instr) (s u : State) (e : Effect) : Prop :=
  ∃ t, exec i s = .next t ∧ ContextOnly u t ∧
    t.cur = { u.cur with
      inflight := (u.cur.inflight.map (withEffect u.focus.pos u.focus.slot e)).map (executed u.focus.pos u.focus.slot) }

/-- A word completes by leaving an effect for the commit of its bundle, and nothing else changes before that. -/
def Leaves (i : Instr) (s : State) (e : Effect) : Prop := LeavesFrom i s s e

/-- A word completes without any effect. -/
def NoEffect (i : Instr) (s : State) : Prop :=
  ∃ t, exec i s = .next t ∧ ContextOnly s t ∧
    t.cur = { s.cur with inflight := s.cur.inflight.map (executed s.focus.pos s.focus.slot) }

/-! ### Vectors -/

/-- Element j of width e of a number. -/
def elem (e x j : Nat) : Nat := x / 2 ^ (e * j) % 2 ^ e

/-- A queue entry that a word has filled with a datum of a width. -/
def filledBy (pos slot width x : Nat) (e : Entry) : Entry :=
  if e.pos = pos ∧ e.slot = slot ∧ e.part = 0 then
    { e with filled := true, width := width, data := BitVec.ofNat 1024 (x % 2 ^ width) }
  else e

/-- A word completes by filling the entry that it has reserved in a queue, and nothing else changes. -/
def Pushes (i : Instr) (s : State) (q width x : Nat) : Prop :=
  ∃ t, exec i s = .next t ∧ ContextOnly s t ∧
    (∀ k, t.cur.queue k = if k = q then (s.cur.queue k).map (filledBy s.focus.pos s.focus.slot width x) else s.cur.queue k) ∧
    t.cur = { s.cur with
      queues := t.cur.queues
      inflight := s.cur.inflight.map (executed s.focus.pos s.focus.slot) }

/-- A word completes with one whole vector, in a vector register or, by a code of 60 to 63, in a store-data queue. -/
def VectorResult (i : Instr) (s : State) (lat : Nat) (d : BitVec 6) (W : Nat) (x : Vec) : Prop :=
  x.toNat / 2 ^ W = s.vold d / 2 ^ W ∧
    if d.toNat < 60 then Results i s lat [(.v d.toNat, x.toNat)] else Pushes i s (storeQ (d.toNat - 60)) W x.toNat

/-- A word completes with the elements `f` of a window where the predicate is set; an inactive element is the old one of
the destination, or zero where the destination is a queue or the word zeroes it; the bits above the window stay. -/
def Elementwise (i : Instr) (s : State) (lat : Nat) (d : BitVec 6) (zero : Bool) (p : Pred) (e W : Nat) (f : Nat → Int) :
    Prop :=
  ∃ x, VectorResult i s lat d W x ∧ ∀ j, j < W / e →
    elem e x.toNat j = if p.getLsbD (j * e / 8) then wrap e (f j)
      else if zero ∨ 60 ≤ d.toNat then 0 else elem e (s.vold d) j

/-- A word completes with every element of a window, whatever a predicate holds. -/
def Windowed (i : Instr) (s : State) (lat : Nat) (d : BitVec 6) (e W : Nat) (f : Nat → Int) : Prop :=
  ∃ x, VectorResult i s lat d W x ∧ ∀ j, j < W / e → elem e x.toNat j = wrap e (f j)

/-! ### Traps -/

/-- A bundle in which the word of a slot has trapped. -/
def trapping (pos slot : Nat) (tr : Trap) (b : Bundle) : Bundle :=
  if b.pos = pos then
    { b with
      words := b.words.map fun w => if w.slot = slot then { w with progress := .trapped, wait := none } else w
      traps := b.traps ++ [tr] }
  else b

/-- A trap of a class and cause that the tables of an address have decided reports the errors that their walk has met; any other
reports nothing (R428). -/
def decided (u : State) (cls cause addr : Nat) : State :=
  if 5 ≤ cls ∧ cls ≤ 7 ∧ (cause = 3 ∨ cause = 4) then u.reportWalk u.cur.asid addr else u

/-- The word in focus, which has read its way from `s` to `u`, raises a trap of a class and cause, which its bundle keeps until
its words have executed (R447); its effect does not take place. -/
def TrapsFrom (i : Instr) (s u : State) (cls cause addr level : Nat) : Prop :=
  ∃ t, exec i s = .next t ∧ ContextOnly (decided u cls cause addr) t ∧
    t.cur = { u.cur with
      inflight := u.cur.inflight.map (trapping u.focus.pos u.focus.slot
        { cls := cls, cause := cause, slot := u.focus.slot, addr := addr, aux := if auxIsWord cls then s.curRaw else 0,
          level := level, code := 0, isAsync := false, due := 0 }) }

/-- The word in focus raises a trap, and nothing else changes but the event log, where a walk has met an error. -/
def Traps (i : Instr) (s : State) (cls cause addr level : Nat) : Prop := TrapsFrom i s s cls cause addr level

/-! ### Loads -/

/-- The word in a slot of a bundle has started, with the cause of an error in the data it has read. -/
def began (pos slot : Nat) (bad : Option Nat) (b : Bundle) : Bundle :=
  if b.pos = pos then
    { b with words := b.words.map fun w =>
        if w.slot = slot then { w with progress := .started, wait := none, bad := bad, refused := [] } else w }
  else b

/-- The device as a load of these pieces finds it, with A set in the leaves of their pages (R249). -/
def marked (s : State) (segs : List Seg) : State := s.mark s.cur.who s.cur.asid s.die segs false

/-- The bytes of the pieces of a load, in order. -/
def loaded (s : State) (segs : List Seg) : List Byte :=
  segs.flatMap ((marked s segs).readSeg s.cur.who s.cur.asid s.die)

/-- From one state to another only memory, the times of lines, the copies in L1s and the event log change, and the log
only where an uncorrectable error stands somewhere. -/
def Touches (s t : State) : Prop :=
  t = { s with
    mem := t.mem, lines := t.lines, l1 := t.l1, lemant := { s.lemant with log := t.lemant.log }, freeIx := t.freeIx } ∧
  (s.upsets = [] → t.lemant = s.lemant ∧ t.freeIx = s.freeIx)

/-- The frame of a load: of the device outside the context only the A bits of its leaves, the times of lines, the copies
in L1s and, where errors stand, the event log change, and in the context only results in flight, queues, LTIME, which does not
fall, and the word's own progress. -/
def ReadsOnly (s t : State) (segs : List Seg) : Prop :=
  Touches s { t with ctxs := s.ctxs } ∧ t.mem = (marked s segs).mem ∧
  (∀ k, k ≠ s.focus.ticket → t.ctx k = s.ctx k) ∧ s.cur.ltime ≤ t.cur.ltime ∧
  t.cur = { s.cur with
    land := t.cur.land
    queues := t.cur.queues
    ltime := t.cur.ltime
    inflight := s.cur.inflight.map (began s.focus.pos s.focus.slot
      (((marked s segs).upsetOf s.cur.who s.cur.asid s.die segs).map (·.cause))) }

/-- A load completes with a register result from device memory; the word ends when its data have returned. -/
def LoadsInto (i : Instr) (s : State) (segs : List Seg) (lat : Nat) (r : Reg) (x : Nat) : Prop :=
  ∃ t, exec i s = .next t ∧ Lands s t lat [(r, x)] ∧ ReadsOnly s t segs ∧ t.cur.queues = s.cur.queues

/-- A load completes with a datum in the entry that it has reserved in a load queue. -/
def LoadsQueue (i : Instr) (s : State) (segs : List Seg) (q width x : Nat) : Prop :=
  ∃ t, exec i s = .next t ∧ ReadsOnly s t segs ∧ t.cur.land = s.cur.land ∧
    ∀ k, t.cur.queue k = if k = q then (s.cur.queue k).map (filledBy s.focus.pos s.focus.slot width x) else s.cur.queue k

/-! ### Words with several kinds of effect -/

/-- A word that has read its way from `s` to `u` completes with results, a datum for a queue, an LTIME raised by the times it
has waited for, and effects for the commit of its bundle; nothing else changes. -/
def CompletesFrom (i : Instr) (s u : State) (lat : Nat) (rs : List (Reg × Nat)) (push : Option (Nat × Nat × Nat))
    (times : List Nat) (effects : List Effect) : Prop :=
  ∃ t, exec i s = .next t ∧ Lands u t lat rs ∧ ContextOnly u t ∧
    (∀ k, t.cur.queue k = match push with
      | some (q, width, x) =>
        if k = q then (u.cur.queue k).map (filledBy u.focus.pos u.focus.slot width x) else u.cur.queue k
      | none => u.cur.queue k) ∧
    t.cur = { u.cur with
      land := t.cur.land
      queues := t.cur.queues
      ltime := times.foldl max u.cur.ltime
      inflight := (effects.foldl (fun bs e => bs.map (withEffect u.focus.pos u.focus.slot e)) u.cur.inflight).map
        (executed u.focus.pos u.focus.slot) }

/-- A word completes with results, a datum for a queue, an LTIME raised by the times it has waited for, and effects for the
commit of its bundle; nothing else changes. -/
def Completes (i : Instr) (s : State) (lat : Nat) (rs : List (Reg × Nat)) (push : Option (Nat × Nat × Nat))
    (times : List Nat) (effects : List Effect) : Prop := CompletesFrom i s s lat rs push times effects

/-- A bundle whose matrix word has started with its operands. -/
def buffering (pos slot : Nat) (w : MtxWork) (b : Bundle) : Bundle :=
  if b.pos = pos then
    { b with
      mtx := some w
      words := b.words.map fun x => if x.slot = slot then { x with progress := .started, wait := none, refused := [] } else x }
  else b

/-- A matrix word starts with its operands and waits for acceptance (R177). -/
def Buffers (i : Instr) (s : State) (w : MtxWork) : Prop :=
  ∃ t, exec i s = .next t ∧ ContextOnly s t ∧
    t.cur = { s.cur with inflight := s.cur.inflight.map (buffering s.focus.pos s.focus.slot w) }

/-- The word in a slot of the bundle at a position stands at a progress and waits for nothing; one that starts forgets the
pages that it has been refused. -/
def progressed (pos slot : Nat) (p : Progress) (b : Bundle) : Bundle :=
  if b.pos = pos then
    { b with words := b.words.map fun w => if w.slot = slot then
        { w with progress := p, wait := none, refused := if p = .started then [] else w.refused } else w }
  else b

/-- A context is suspended by a trap at bundle `n`, whose header stands at `pc`, to resume at `rpc` in position `rpos`: what
bundles from `rpos` on have done is withdrawn, its registers and every other context are as they were, and memory is. -/
def Suspended (s t : State) (k : Nat) (tr : Trap) (n pc rpos rpc : Nat) : Prop :=
  let c := s.ctx k
  let d := t.ctx k
  d.state = .faulted ∧ d.pos = rpos ∧ d.pc = rpc ∧
  (∃ f, d.fault = some f ∧ f.trap = tr ∧ f.pos = n ∧ f.pc = pc ∧ f.rpc = rpc ∧ f.rpos = rpos ∧ f.stage = 0) ∧
  d.land = c.land.filter (fun l => decide (l.src < rpos)) ∧
  d.inflight = c.inflight.filter (fun b => decide (b.pos < rpos)) ∧
  (d.s = c.s ∧ d.i = c.i ∧ d.v = c.v ∧ d.a = c.a ∧ d.p = c.p ∧ d.tags = c.tags ∧ d.slackr = c.slackr ∧ d.pbk = c.pbk) ∧
  (∀ q, (d.held q).map (fun e => (e.pos, e.slot, e.part, e.data)) =
    ((c.queue q).filter fun e => decide (e.pos < rpos) && (match e.taken with
      | some (p, _, _) => decide (rpos ≤ p)
      | none => true)).map (fun e => (e.pos, e.slot, e.part, e.data))) ∧
  (∀ j, j ≠ k → t.ctx j = s.ctx j) ∧
  (∀ a, Mem.read t.mem a = Mem.read s.mem a) ∧
  (∀ o ∈ t.ops, o ∈ s.ops)

/-! ### Events -/

/-- An event answers a next state, in which contexts whose waits are met have become READY (R73), for which `p` holds before
that. -/
def After (i : Instr) (s : State) (p : State → Prop) : Prop := ∃ t : State, exec i s = .next t.releaseBlocked ∧ p t

/-- What the issuer of an operation holds once it has ended: the time that a FENCE takes, and its tag, one command fewer, SET
by the last one, with the failure and the time (R214, Table 9-4). -/
def told (o : Op) (failed : Bool) (c : Context) : Context :=
  let c : Context := match o.kind with
    | .red .. => { c with redTime := max c.redTime o.time }
    | _ => { c with engTime := max c.engTime o.time }
  match o.tag with
  | none => c
  | some g =>
    let t : TagState :=
      { count := (c.tag g).count - 1, set := decide ((c.tag g).count ≤ 1), err := (c.tag g).err || failed,
        time := max (c.tag g).time o.time }
    { c with tags := SMap.set c.tags g t }

/-- An instance, on its core or saved with its launch, changes by `f`; no other context does. -/
def Changes (s t : State) (w : Who) (f : Context → Context) : Prop :=
  match s.ticketOf w with
  | some k => t.ctx k = f (s.ctx k) ∧ (∀ j, j ≠ k → t.ctx j = s.ctx j) ∧ t.launches = s.launches
  | none => (∀ j, t.ctx j = s.ctx j) ∧
      t.launches = SMap.modify s.launches w.launch fun l => { l with saved := SMap.modify l.saved w.inst f }

/-- An operation of an instance ends: it is in flight no more, its issuer changes by `f` and is told, and nothing else changes
but the greatest time seen. -/
def Ends (s t : State) (o : Op) (w : Who) (failed : Bool) (f : Context → Context) : Prop :=
  t = { s with ops := s.ops.filter (fun x => x.id != o.id), floor := max s.floor o.time, ctxs := t.ctxs, launches := t.launches } ∧
  Changes s t w fun c => told o failed (f c)

/-- An event ends an operation in a state that it has brought about. -/
def EndsAfter (i : Instr) (s u : State) (o : Op) (w : Who) (failed : Bool) (f : Context → Context) : Prop :=
  After i s fun t => Ends u t o w failed f

/-- An operation in flight of an instance. -/
def InFlight (s : State) (id : Nat) (o : Op) (w : Who) : Prop := s.opGet id = some o ∧ o.who = some w ∧ w.launch < 2 ^ 64

/-- The entries that a command has reserved in a result queue, filled: the data and the status word of each part. -/
def answered (o : Op) (slot q parts width : Nat) (data status : Nat → Nat) (bad : Entry → Option Nat) (c : Context) : Context :=
  { c with queues := SMap.set c.queues q ((c.queue q).map fun e =>
      if e.pos = o.pos ∧ e.slot = slot ∧ e.part < parts then
        { e with filled := true, width := width, data := BitVec.ofNat 1024 (data e.part),
                 status := BitVec.ofNat 64 (status e.part), time := o.time, bad := bad e }
      else e) }

/-- The dispatch of a bundle (R63, R205): it joins the bundles in flight, the bundle count and the PC advance, its pops leave
their queues and its pushes reserve their entries, LTIME rises to the events that it is ordered after, and no register changes;
a WWAIT marks its token. -/
def Dispatches (s t : State) (k hdr : Nat) (ws : List Issued) : Prop :=
  let c := s.ctx k
  let d := t.ctx k
  t = { s with ctxs := t.ctxs, cores := t.cores } ∧
  (∀ j, j ≠ k → t.ctx j = s.ctx j) ∧
  (∀ j, t.core j = { s.core j with tokens := (t.core j).tokens }) ∧
  (∀ j, (t.core j).tokens.map (fun x => { x with taken := none }) = (s.core j).tokens.map fun x => { x with taken := none }) ∧
  d = { c with
    inflight := c.inflight ++
      [{ pos := c.pos, pc := c.pc, hdr := hdr,
         words := ws.map fun w => { slot := w.slot, raw := w.raw, progress := .queued, wait := none, bad := none },
         following := c.pc + 4 + 4 * (maskSlots hdr).length, target := none, effects := [], mtx := none, traps := [] }]
    pos := c.pos + 1
    pc := c.pc + 4 + 4 * (maskSlots hdr).length
    queues := d.queues
    ltime := max c.ltime (ws.foldl (fun acc w => max acc (s.eventTime k w)) 0)
    met := c.met.filter fun x => decide (c.pos < x.1)
    brkSkip := none } ∧
  ∀ q, d.held q = (c.held q).drop (countOf q (popsOf ws)) ++
    ((pushesOf ws).filter fun x => x.2.1 == q).map fun x => Entry.reserved c.pos x.1 x.2.2

/-- A context leaves RUNNING for a wait: it changes by `f`, and its core counts from it (R92). -/
def Waits (s t : State) (k : Nat) (f : Context → Context) : Prop :=
  t = { s with ctxs := t.ctxs, cores := t.cores } ∧ t.ctx k = f (s.ctx k) ∧ (∀ j, j ≠ k → t.ctx j = s.ctx j) ∧
  (∀ j, t.core j = if j = coreOf k ∧ (s.ctx k).state = .running then { s.core j with last := k % 4 } else s.core j)

end Sys2Proof
end

