-- ==== Sys2Proof/Certificates/Slice0/Obligations.lean ====
section
/-!
DEFINITION. The statements about the device.
-/

open Sys2Proof Sys2Proof.Machine

/-! ### The SCL slot -/

/-- ADD, SUB, AND, OR, XOR and ANDN complete with their 64-bit results, which land at the next bundle (R101). -/
def Sys2Proof.ScalarSumsAndLogic : Prop :=
  ∀ (s : State) (d a b : BitVec 6),
    ScalarResult (.add d a b) s 1 d (s.rs a + s.rs b) ∧
    ScalarResult (.sub d a b) s 1 d (s.rs a - s.rs b) ∧
    ScalarResult (.and d a b) s 1 d (s.rs a &&& s.rs b) ∧
    ScalarResult (.or d a b) s 1 d (s.rs a ||| s.rs b) ∧
    ScalarResult (.xor d a b) s 1 d (s.rs a ^^^ s.rs b) ∧
    ScalarResult (.andn d a b) s 1 d (s.rs a &&& ~~~ s.rs b)

/-- The shifts and rotations of an n-bit value by k, by kind code: 0 zeros in below, 1 zeros in above, 2 floored
division of the signed value, 3 rotation to the left (R102). -/
def Sys2Proof.shifted {n : Nat} (kind : Nat) (x : BitVec n) (k : Nat) : BitVec n :=
  if kind = 0 then BitVec.ofNat n (x.toNat * 2 ^ k)
  else if kind = 1 then BitVec.ofNat n (x.toNat / 2 ^ k)
  else if kind = 2 then BitVec.ofInt n (x.toInt / 2 ^ k)
  else if k = 0 then x else BitVec.ofNat n (x.toNat * 2 ^ k) ||| BitVec.ofNat n (x.toNat / 2 ^ (n - k))

/-- SLL, SRL, SRA and ROTL complete with sA shifted or rotated by the low six bits of sB, and SHI by its constant (R102,
R109). -/
def Sys2Proof.ScalarShifts : Prop :=
  ∀ (s : State) (d a b : BitVec 6) (kind : BitVec 2) (n : BitVec 6),
    ScalarResult (.sll d a b) s 1 d (shifted 0 (s.rs a) ((s.rs b).toNat % 64)) ∧
    ScalarResult (.srl d a b) s 1 d (shifted 1 (s.rs a) ((s.rs b).toNat % 64)) ∧
    ScalarResult (.sra d a b) s 1 d (shifted 2 (s.rs a) ((s.rs b).toNat % 64)) ∧
    ScalarResult (.rotl d a b) s 1 d (shifted 3 (s.rs a) ((s.rs b).toNat % 64)) ∧
    ScalarResult (.shi d a kind n) s 1 d (shifted kind.toNat (s.rs a) n.toNat)

/-- MUL, MULH, DIV and REM complete with the halves of the exact product and with the quotient toward zero and its
remainder, a zero divisor giving all ones and the dividend (R103, R104). -/
def Sys2Proof.ScalarProductsAndQuotients : Prop :=
  ∀ (s : State) (d a b : BitVec 6),
    (∀ u, ScalarResult (.mul d a b u) s 3 d (s.rs a * s.rs b)) ∧
    ScalarResult (.mulh d a b 0) s 3 d (BitVec.ofInt 64 ((s.rs a).toInt * (s.rs b).toInt / 2 ^ 64)) ∧
    ScalarResult (.mulh d a b 1) s 3 d (BitVec.ofNat 64 ((s.rs a).toNat * (s.rs b).toNat / 2 ^ 64)) ∧
    ScalarResult (.div d a b 0) s 12 d
      (if s.rs b = 0 then BitVec.allOnes 64 else BitVec.ofInt 64 ((s.rs a).toInt.tdiv (s.rs b).toInt)) ∧
    ScalarResult (.div d a b 1) s 12 d
      (if s.rs b = 0 then BitVec.allOnes 64 else BitVec.ofNat 64 ((s.rs a).toNat / (s.rs b).toNat)) ∧
    ScalarResult (.rem d a b 0) s 12 d
      (if s.rs b = 0 then s.rs a else BitVec.ofInt 64 ((s.rs a).toInt.tmod (s.rs b).toInt)) ∧
    ScalarResult (.rem d a b 1) s 12 d
      (if s.rs b = 0 then s.rs a else BitVec.ofNat 64 ((s.rs a).toNat % (s.rs b).toNat))

/-- `k` is the number of leading zeros of an n-bit number. -/
def Sys2Proof.IsClz (n x k : Nat) : Prop := if x = 0 then k = n else k < n ∧ 2 ^ (n - 1 - k) ≤ x ∧ x < 2 ^ (n - k)

/-- `k` is the number of trailing zeros of an n-bit number. -/
def Sys2Proof.IsCtz (n x k : Nat) : Prop := if x = 0 then k = n else k < n ∧ x % 2 ^ k = 0 ∧ x / 2 ^ k % 2 = 1

/-- The number of one bits of a bit vector. -/
def Sys2Proof.ones {n : Nat} (x : BitVec n) : Nat := ((List.range n).filter fun j => x.getLsbD j).length

/-- MIN, MAX, SLT and SEQ complete with their comparison under the reading that F[0] selects, SEL with the operand that bit
0 of its predicate picks, and CLZ, CTZ and POPC with their counts (R105, R106, R107). -/
def Sys2Proof.ScalarComparesAndCounts : Prop :=
  ∀ (s : State) (d a b : BitVec 6) (p : BitVec 3),
    ScalarResult (.min d a b 0) s 1 d (if (s.rs a).toInt ≤ (s.rs b).toInt then s.rs a else s.rs b) ∧
    ScalarResult (.min d a b 1) s 1 d (if (s.rs a).toNat ≤ (s.rs b).toNat then s.rs a else s.rs b) ∧
    ScalarResult (.max d a b 0) s 1 d (if (s.rs a).toInt ≥ (s.rs b).toInt then s.rs a else s.rs b) ∧
    ScalarResult (.max d a b 1) s 1 d (if (s.rs a).toNat ≥ (s.rs b).toNat then s.rs a else s.rs b) ∧
    ScalarResult (.slt d a b 0) s 1 d (if (s.rs a).toInt < (s.rs b).toInt then 1 else 0) ∧
    ScalarResult (.slt d a b 1) s 1 d (if (s.rs a).toNat < (s.rs b).toNat then 1 else 0) ∧
    ScalarResult (.seq d a b) s 1 d (if s.rs a = s.rs b then 1 else 0) ∧
    ScalarResult (.sel d a b p) s 1 d (if regRead s.cur s.focus.pos (.p p.toNat) % 2 = 1 then s.rs a else s.rs b) ∧
    (∃ k, IsClz 64 (s.rs a).toNat k ∧ ScalarResult (.clz d a) s 1 d (BitVec.ofNat 64 k)) ∧
    (∃ k, IsCtz 64 (s.rs a).toNat k ∧ ScalarResult (.ctz d a) s 1 d (BitVec.ofNat 64 k)) ∧
    ScalarResult (.popc d a) s 1 d (BitVec.ofNat 64 (ones (s.rs a)))

/-- ADDI, ANDI, ORI, XORI, SLTI, LI and LIQ complete with their results; LIQ keeps the 48 bits of sD outside the quarter
that it replaces (R108, R110). -/
def Sys2Proof.ScalarImmediates : Prop :=
  ∀ (s : State) (d a : BitVec 6) (i : BitVec 14) (j : BitVec 20) (q : BitVec 2) (v : BitVec 16),
    ScalarResult (.addi d a i) s 1 d (s.rs a + BitVec.ofInt 64 i.toInt) ∧
    ScalarResult (.andi d a i) s 1 d (s.rs a &&& BitVec.ofInt 64 i.toInt) ∧
    ScalarResult (.ori d a i) s 1 d (s.rs a ||| BitVec.ofNat 64 i.toNat) ∧
    ScalarResult (.xori d a i) s 1 d (s.rs a ^^^ BitVec.ofNat 64 i.toNat) ∧
    ScalarResult (.slti d a i) s 1 d (if (s.rs a).toInt < i.toInt then 1 else 0) ∧
    ScalarResult (.li d j) s 1 d (BitVec.ofInt 64 j.toInt) ∧
    ∃ x : Word, ScalarResult (.liq d q v) s 1 d x ∧
      ∀ k, k < 64 → x.getLsbD k = if k / 16 = q.toNat then v.getLsbD (k % 16) else (s.rs d).getLsbD k

/-- The integer words of the SCL slot: sums, logic, shifts, products, quotients, comparisons, counts and immediates (R101 to
R110). -/
def Obligations.ScalarArithmetic : Prop :=
  Sys2Proof.ScalarSumsAndLogic ∧ Sys2Proof.ScalarShifts ∧
    Sys2Proof.ScalarProductsAndQuotients ∧ Sys2Proof.ScalarComparesAndCounts ∧
    Sys2Proof.ScalarImmediates

/-- A floating result lands as its 32-bit code with zeros above it. -/
def Sys2Proof.FloatResult (i : Instr) (s : State) (d : BitVec 6) (x : Nat) : Prop :=
  x < 2 ^ 32 ∧ ScalarResult i s 4 d (BitVec.ofNat 64 x)

/-- The FP32 code in the low half of a scalar register. -/
def Sys2Proof.f32of (s : State) (r : BitVec 6) : Nat := (s.rs r).toNat % 2 ^ 32

/-- The scalar floating-point words complete with the operation on the codes in bits 31 to 0 of their sources, rounded once
by the mode of the word, in bits 31 to 0 of sD with zeros above; FCMP gives 0 or 1 (R111, R112, R113, R114). -/
def Sys2Proof.ScalarFloatingPoint : Prop :=
  ∀ (s : State) (d a b : BitVec 6) (m : BitVec 2) (c : BitVec 3),
    FloatResult (.fadd d a b m) s d (fpAdd .fp32 (Rounding.ofCode m.toNat) (f32of s a) (f32of s b)) ∧
    FloatResult (.fsub d a b m) s d (fpSub .fp32 (Rounding.ofCode m.toNat) (f32of s a) (f32of s b)) ∧
    FloatResult (.fmul d a b m) s d (fpMul .fp32 (Rounding.ofCode m.toNat) (f32of s a) (f32of s b)) ∧
    FloatResult (.fma d a b m) s d (fpFma .fp32 (Rounding.ofCode m.toNat) (f32of s a) (f32of s b) (f32of s d)) ∧
    FloatResult (.fmin d a b) s d (fpMin .fp32 (f32of s a) (f32of s b)) ∧
    FloatResult (.fmax d a b) s d (fpMax .fp32 (f32of s a) (f32of s b)) ∧
    FloatResult (.fcmp d a b c) s d (if fpCmp .fp32 c.toNat (f32of s a) (f32of s b) then 1 else 0)

/-- FCVT completes, by its kind, with an integer rounded and saturated to 64 bits, with an integer rounded to FP32, or with
a code of another format (R115, Table 5-4). -/
def Sys2Proof.ScalarConversions : Prop :=
  ∀ (s : State) (d a : BitVec 6) (m : BitVec 2),
    let mode := Rounding.ofCode m.toNat
    let x := s.rs a
    ScalarResult (.fcvt d a 0 m) s 4 d (BitVec.ofInt 64 (toInt 64 false mode (decodeF .fp32 (x.toNat % 2 ^ 32)))) ∧
    ScalarResult (.fcvt d a 1 m) s 4 d (BitVec.ofInt 64 (toInt 64 true mode (decodeF .fp32 (x.toNat % 2 ^ 32)))) ∧
    FloatResult (.fcvt d a 2 m) s d (roundF .fp32 mode (ofInt x.toInt)) ∧
    FloatResult (.fcvt d a 3 m) s d (roundF .fp32 mode (ofInt x.toNat)) ∧
    FloatResult (.fcvt d a 4 m) s d (roundF .bf16 mode (decodeF .fp32 (x.toNat % 2 ^ 32))) ∧
    FloatResult (.fcvt d a 5 m) s d (roundF .fp32 mode (decodeF .bf16 (x.toNat % 2 ^ 16))) ∧
    FloatResult (.fcvt d a 6 m) s d (roundF .fp16 mode (decodeF .fp32 (x.toNat % 2 ^ 32))) ∧
    FloatResult (.fcvt d a 7 m) s d (roundF .fp32 mode (decodeF .fp16 (x.toNat % 2 ^ 16)))

/-- The floating-point words of the SCL slot, and its conversions. -/
def Obligations.ScalarFloats : Prop := Sys2Proof.ScalarFloatingPoint ∧ Sys2Proof.ScalarConversions

/-! ### Control transfer -/

/-- The conditions of Table 5-5. -/
def Sys2Proof.bcHolds (c : BitVec 3) (x y : Word) : Prop :=
  (c = 0 ∧ x = y) ∨ (c = 1 ∧ x ≠ y) ∨ (c = 2 ∧ x.toInt < y.toInt) ∨ (c = 3 ∧ x.toInt ≥ y.toInt) ∨
    (c = 6 ∧ x.toNat < y.toNat) ∨ (c = 7 ∧ x.toNat ≥ y.toNat)

/-- The target of a relative transfer: four times the offset from the header address of the bundle, within the 56 bits of a
PC (assumption 9). -/
def Sys2Proof.relative (b : Bundle) (off : Int) : Nat := (((b.pc : Int) + 4 * off) % 2 ^ 56).toNat

/-- BC and DBNZ are taken exactly when their conditions hold, and DBNZ lands the decremented counter at the next bundle
(R117, R120). That a target wraps at 56 bits is the model's (assumption 9). -/
def Sys2Proof.ConditionalTransfers : Prop :=
  ∀ (s : State) (b : Bundle) (c : BitVec 3) (x y : BitVec 6) (o : BitVec 11), s.curBundle = some b →
    (c ≠ 4 → c ≠ 5 → bcHolds c (s.rs x) (s.rs y) → Transfers (.bc c x y o) s [] (some (relative b o.toInt))) ∧
    (c ≠ 4 → c ≠ 5 → ¬ bcHolds c (s.rs x) (s.rs y) → Transfers (.bc c x y o) s [] none) ∧
    (s.rs x ≠ 1 → Transfers (.dbnz x o) s [(.s x.toNat, (s.rs x - 1).toNat)] (some (relative b o.toInt))) ∧
    (s.rs x = 1 → Transfers (.dbnz x o) s [(.s x.toNat, 0)] none)

/-- JMP, JAL and JR are always taken; JAL and JR land the address of the bundle that follows theirs, at the next bundle
(R118, R119). That a target wraps at 56 bits is the model's (assumption 9). -/
def Sys2Proof.JumpsAndLinks : Prop :=
  ∀ (s : State) (b : Bundle) (d a : BitVec 6) (o : BitVec 26) (o' : BitVec 20), s.curBundle = some b →
    Transfers (.jmp o) s [] (some (relative b o.toInt)) ∧
    Transfers (.jal d o') s [(.s d.toNat, b.following % 2 ^ 64)] (some (relative b o'.toInt)) ∧
    Transfers (.jr d a) s [(.s d.toNat, b.following % 2 ^ 64)] (some ((s.rs a).toNat / 4 % 2 ^ 54 * 4))

/-- The control transfers: conditional branches, counted loops, jumps and links. -/
def Obligations.ControlTransfers : Prop := Sys2Proof.ConditionalTransfers ∧ Sys2Proof.JumpsAndLinks

/-! ### Slack, CSRs, fences, traps and the end of an instance -/

/-- SLACK and CSRW write SLACKR from the next bundle, a value above 16 as 16; a handler's CSRW of FCMD is a command at
commit (R85, R121, R122). -/
def Sys2Proof.SlackAndCsrWrites : Prop :=
  ∀ (s : State) (a : BitVec 6) (n : BitVec 14),
    Results (.slack n) s 1 [(.slackr, min n.toNat 16)] ∧
    Results (.csrw a 2) s 1 [(.slackr, min ((s.rs a).toNat % 32) 16)] ∧
    Leaves (.csrw a 0x20) s (.fcmd (s.rs a))

/-- CSRR completes two bundles on with what its CSR holds: PC and CSTAT as of its bundle, SLACKR and PBK as landed, and the
others as they stand, FCMD as ERR among zeros (R83, R95, R122, R388, Tables 4-7 to 4-12). -/
def Sys2Proof.CsrReads : Prop :=
  ∀ (s : State) (b : Bundle) (d : BitVec 6), s.curBundle = some b →
    ScalarResult (.csrr d 0x000) s 2 d (BitVec.ofNat 64 b.pc) ∧
    ScalarResult (.csrr d 0x001) s 2 d
      (BitVec.ofNat 64 (2 + (if s.cur.handler then 2 ^ 3 else 0) + s.focus.ticket % 4 * 2 ^ 16)) ∧
    ScalarResult (.csrr d 0x002) s 2 d (BitVec.ofNat 64 (regRead s.cur s.focus.pos .slackr)) ∧
    ScalarResult (.csrr d 0x003) s 2 d s.cur.nbv ∧
    ScalarResult (.csrr d 0x004) s 2 d (BitVec.ofNat 64 (regRead s.cur s.focus.pos .pbk)) ∧
    (∃ x : Word, (∀ g, g < 64 → x.getLsbD g = (s.cur.tag g).set) ∧ ScalarResult (.csrr d 0x008) s 2 d x) ∧
    (∃ x : Word, (∀ g, g < 64 → x.getLsbD g = (s.cur.tag g).err) ∧ ScalarResult (.csrr d 0x009) s 2 d x) ∧
    ScalarResult (.csrr d 0x00A) s 2 d (BitVec.ofNat 64 s.cur.ltime) ∧
    ScalarResult (.csrr d 0x00B) s 2 d s.cur.town ∧
    ScalarResult (.csrr d 0x010) s 2 d s.cur.core ∧
    ScalarResult (.csrr d 0x011) s 2 d s.cur.inst ∧
    ScalarResult (.csrr d 0x012) s 2 d s.cur.grpb ∧
    ScalarResult (.csrr d 0x013) s 2 d s.cur.grps ∧
    ScalarResult (.csrr d 0x014) s 2 d s.cur.argp ∧
    ScalarResult (.csrr d 0x015) s 2 d s.cur.fltp ∧
    ScalarResult (.csrr d 0x016) s 2 d s.cur.plst ∧
    ScalarResult (.csrr d 0x020) s 2 d (if s.fcmd.getLsbD 3 then 8 else 0)

/-- The word in focus has no page or log to wait for. -/
def Sys2Proof.Unwaiting (s : State) : Prop :=
  ∀ b ∈ s.cur.inflight, b.pos = s.focus.pos → ∀ w ∈ b.words, w.slot = s.focus.slot → w.wait = none

/-- An access that the context has sent on a link from an earlier bundle is outstanding, or an earlier bundle has not
committed. -/
def Sys2Proof.LinkWait (s : State) : Prop :=
  (∃ b bs, s.cur.inflight = b :: bs ∧ b.pos ≠ s.focus.pos) ∨
    ∃ o ∈ s.ops, o.onLink = true ∧ o.who = some s.cur.who ∧ o.pos < s.focus.pos

/-- FENCE.eng and FENCE.red, which have held their bundle before dispatch, execute at once; FENCE.sys and FENCE.all execute
when every window access of earlier bundles has completed, and until then have only started (R123, R124). That they wait until
every earlier bundle has committed, by when its window accesses have been sent, is the model's order (log entries 14 and 79). -/
def Sys2Proof.FencesExecute : Prop :=
  ∀ (s : State) (k : BitVec 3), Unwaiting s →
    ∃ t, exec (.fence k) s = .next t ∧ ContextOnly s t ∧
      ((k.getLsbD 2 = false ∨ ¬ LinkWait s) →
        t.cur = { s.cur with inflight := s.cur.inflight.map (progressed s.focus.pos s.focus.slot .executed) }) ∧
      ((k.getLsbD 2 = true ∧ LinkWait s) →
        t.cur = { s.cur with inflight := s.cur.inflight.map (progressed s.focus.pos s.focus.slot .started) })

/-- The words that write and read context CSRs, and the fences; the order in which a fence waits is the model's choice (log
entries 14 and 79). -/
def Obligations.CsrsAndFences : Prop := Sys2Proof.SlackAndCsrWrites ∧ Sys2Proof.CsrReads ∧ Sys2Proof.FencesExecute

/-- TRAP and DONE leave what they do for the commit of their bundle (R125, R127). -/
def Sys2Proof.TrapAndDoneWaitForCommit : Prop :=
  ∀ (s : State) (i : BitVec 20), Leaves (.trap i) s (.progTrap i.toNat) ∧ Leaves .done s .done

/-- BRK suspends its context at its own bundle, to resume there, with its code in the trap (R88, R90, R126). -/
def Sys2Proof.BreakpointSuspends : Prop :=
  ∀ (s : State) (b : Bundle) (i : BitVec 20), s.curBundle = some b →
    ∃ t, exec (.brk i) s = .next t ∧
      Suspended s t s.focus.ticket
        { cls := 14, cause := 0, slot := 0, addr := 0, aux := 0, level := 0, code := i.toNat, isAsync := false, due := 0 }
        s.focus.pos b.pc s.focus.pos b.pc

/-- TRAP and DONE act after their bundle has committed, and BRK before its bundle. -/
def Obligations.ProgramTraps : Prop := Sys2Proof.TrapAndDoneWaitForCommit ∧ Sys2Proof.BreakpointSuspends

/-! ### The IDX slot -/

/-- h(x, seed) of R46. -/
def Sys2Proof.mixed (x seed : Index) : Index :=
  let h := x ^^^ seed
  let h := (h ^^^ (h >>> 16)) * 0x9A3D4C27
  let h := (h ^^^ (h >>> 15)) * 0xD16B58E5
  h ^^^ (h >>> 16)

/-- IADD, ISUB, IADDI, ISHI, IAND, IOR, IMIN and IMAX complete with their 32-bit results at the next bundle (R129, R130). -/
def Sys2Proof.IndexArithmetic : Prop :=
  ∀ (s : State) (d a b : BitVec 6) (i : BitVec 14) (k : BitVec 2) (n : BitVec 5),
    let x := s.ri a.toNat
    let y := s.ri b.toNat
    IndexResult (.iadd d a b) s 1 d (x + y) ∧
    IndexResult (.isub d a b) s 1 d (x - y) ∧
    IndexResult (.iaddi d a i) s 1 d (x + BitVec.ofInt 32 i.toInt) ∧
    IndexResult (.ishi d a k n) s 1 d (shifted k.toNat x n.toNat) ∧
    IndexResult (.iand d a b) s 1 d (x &&& y) ∧
    IndexResult (.ior d a b) s 1 d (x ||| y) ∧
    IndexResult (.imin d a b 0) s 1 d (if x.toInt ≤ y.toInt then x else y) ∧
    IndexResult (.imin d a b 1) s 1 d (if x.toNat ≤ y.toNat then x else y) ∧
    IndexResult (.imax d a b 0) s 1 d (if x.toInt ≥ y.toInt then x else y) ∧
    IndexResult (.imax d a b 1) s 1 d (if x.toNat ≥ y.toNat then x else y)

/-- IMOV moves between the scalar and the index bank in its three forms, IPOPC counts the bits of an index or a predicate,
ISURV gives the slot of a token among the survivors, and IHASH the hash (R131, R133, R134, R135). -/
def Sys2Proof.MovesCountsAndHash : Prop :=
  ∀ (s : State) (d a b : BitVec 6),
    let x := s.ri a.toNat
    let bitmap := s.rv 0 a.toNat
    let token := (s.ri b.toNat).toNat % 256
    IndexResult (.imov d a 0 0) s 1 d (BitVec.ofNat 32 (s.rs a).toNat) ∧
    ScalarResult (.imov d a 0 1) s 1 d (BitVec.ofInt 64 x.toInt) ∧
    ScalarResult (.imov d a 1 1) s 1 d (BitVec.ofNat 64 x.toNat) ∧
    IndexResult (.ipopc d a 0) s 1 d (BitVec.ofNat 32 (ones x)) ∧
    IndexResult (.ipopc d a 1) s 1 d (BitVec.ofNat 32 (ones (s.rp a.toNat))) ∧
    IndexResult (.isurv d a b) s 2 d
      (if bitmap.getLsbD token then BitVec.ofNat 32 ((List.range token).filter fun j => bitmap.getLsbD j).length
       else 0xFFFFFFFF) ∧
    IndexResult (.ihash d a b) s 2 d (mixed x (s.ri b.toNat))

/-- A predicate of all ones or of all zeros. -/
def Sys2Proof.allOrNone (b : Prop) [Decidable b] : Nat := if b then 2 ^ 128 - 1 else 0

/-- ICAD advances the cursors of the lesser or equal keys without carry between them and lands the match predicate with
them; ICMP lands all ones or all zeros by its condition (R132, R136). -/
def Sys2Proof.CompareAndAdvance : Prop :=
  ∀ (s : State) (d a b : BitVec 6) (p : BitVec 3),
    let x := s.ri a.toNat
    let y := s.ri b.toNat
    let ca := (s.ri d.toNat).toNat % 2 ^ 16
    let cb := (s.ri d.toNat).toNat / 2 ^ 16
    Results (.icad d a b p) s 1
      [(.i d.toNat, (if y.toNat ≤ x.toNat then (cb + 1) % 2 ^ 16 else cb) * 2 ^ 16 +
          (if x.toNat ≤ y.toNat then (ca + 1) % 2 ^ 16 else ca)),
        (.p p.toNat, allOrNone (x = y))] ∧
    Results (.icmp d a b 0 0) s 1 [(.p d.toNat, allOrNone (x = y))] ∧
    Results (.icmp d a b 0 1) s 1 [(.p d.toNat, allOrNone (x ≠ y))] ∧
    Results (.icmp d a b 0 2) s 1 [(.p d.toNat, allOrNone (x.toInt < y.toInt))] ∧
    Results (.icmp d a b 0 3) s 1 [(.p d.toNat, allOrNone (x.toInt ≥ y.toInt))] ∧
    Results (.icmp d a b 1 0) s 1 [(.p d.toNat, allOrNone (x = y))] ∧
    Results (.icmp d a b 1 1) s 1 [(.p d.toNat, allOrNone (x ≠ y))] ∧
    Results (.icmp d a b 1 2) s 1 [(.p d.toNat, allOrNone (x.toNat < y.toNat))] ∧
    Results (.icmp d a b 1 3) s 1 [(.p d.toNat, allOrNone (x.toNat ≥ y.toNat))]

/-- PLOG completes with the operation on its predicates, or with the first bytes that an index counts (R137). -/
def Sys2Proof.PredicateLogic : Prop :=
  ∀ (s : State) (d a b : BitVec 6),
    let x := s.rp a.toNat
    let y := s.rp b.toNat
    Results (.plog d a b 0) s 1 [(.p d.toNat, (x &&& y).toNat)] ∧
    Results (.plog d a b 1) s 1 [(.p d.toNat, (x ||| y).toNat)] ∧
    Results (.plog d a b 2) s 1 [(.p d.toNat, (x ^^^ y).toNat)] ∧
    Results (.plog d a b 3) s 1 [(.p d.toNat, (x &&& ~~~ y).toNat)] ∧
    Results (.plog d a b 4) s 1 [(.p d.toNat, (~~~ x).toNat)] ∧
    ∃ z : Pred, Results (.plog d a b 5) s 1 [(.p d.toNat, z.toNat)] ∧
      ∀ j, j < 128 → z.getLsbD j = decide (j < (s.ri a.toNat).toNat)

/-- The words of the IDX slot: index arithmetic, moves, counts, hashing, compare-and-advance and predicate logic. -/
def Obligations.IndexAndPredicateWords : Prop :=
  Sys2Proof.IndexArithmetic ∧ Sys2Proof.MovesCountsAndHash ∧ Sys2Proof.CompareAndAdvance ∧ Sys2Proof.PredicateLogic

/-! ### The VEC slots and the SFU -/

/-- An integer held between two bounds. -/
def Sys2Proof.clamp (lo hi z : Int) : Int := if z < lo then lo else if hi < z then hi else z

/-- The number that a source operand of a vector word holds. -/
def Sys2Proof.source (s : State) (k : Nat) (r : BitVec 6) : Nat := (s.rv k r.toNat).toNat

/-- The integer element instructions of Table 6-2 complete with their functions of the signed or unsigned elements (R138 to
R142, R145). -/
def Sys2Proof.VectorIntegerElements : Prop :=
  ∀ (s : State) (d a b : BitVec 6) (p : BitVec 3) (w : BitVec 2) (t : BitVec 3), w.toNat ≤ 2 → t.toNat ≤ 3 →
    let e := elemBits t.toNat
    let W := 256 * 2 ^ w.toNat
    let half : Int := 2 ^ (e - 1)
    let x := fun j => elem e (source s 0 a) j
    let y := fun j => elem e (source s 1 b) j
    let sx := fun j => sext (x j) e
    let sy := fun j => sext (y j) e
    let Put := fun (i : Instr) (f : Nat → Int) => Elementwise i s 2 d false (s.rp p.toNat) e W f
    Put (.vadd d a b p w t) (fun j => (x j : Int) + y j) ∧
    Put (.vsub d a b p w t) (fun j => (x j : Int) - y j) ∧
    Put (.vadds d a b p w t) (fun j => clamp (-half) (half - 1) (sx j + sy j)) ∧
    Put (.vaddsn d a b p w t) (fun j => clamp 0 (2 * half - 1) ((x j : Int) + y j)) ∧
    Put (.vsubs d a b p w t) (fun j => clamp (-half) (half - 1) (sx j - sy j)) ∧
    Put (.vsubsn d a b p w t) (fun j => clamp 0 (2 * half - 1) ((x j : Int) - y j)) ∧
    Put (.vmul d a b p w t) (fun j => (x j : Int) * y j) ∧
    Put (.vmulh d a b p w t) (fun j => sx j * sy j / (2 * half)) ∧
    Put (.vmin d a b p w t) (fun j => if sx j ≤ sy j then x j else y j) ∧
    Put (.vmax d a b p w t) (fun j => if sx j ≥ sy j then x j else y j) ∧
    Put (.vminn d a b p w t) (fun j => if x j ≤ y j then x j else y j) ∧
    Put (.vmaxn d a b p w t) (fun j => if x j ≥ y j then x j else y j)

/-- VAND, VOR and VXOR complete with their bitwise functions for elements of every type (R145). -/
def Sys2Proof.VectorBitwiseElements : Prop :=
  ∀ (s : State) (d a b : BitVec 6) (p : BitVec 3) (w : BitVec 2) (t : BitVec 3), w.toNat ≤ 2 →
    let e := elemBits t.toNat
    let W := 256 * 2 ^ w.toNat
    let x := fun j => elem e (source s 0 a) j
    let y := fun j => elem e (source s 1 b) j
    Elementwise (.vand d a b p w t) s 2 d false (s.rp p.toNat) e W (fun j => ((x j &&& y j : Nat) : Int)) ∧
    Elementwise (.vor d a b p w t) s 2 d false (s.rp p.toNat) e W (fun j => ((x j ||| y j : Nat) : Int)) ∧
    Elementwise (.vxor d a b p w t) s 2 d false (s.rp p.toNat) e W (fun j => ((x j ^^^ y j : Nat) : Int))

/-- The shifts and rotations of an e-bit element by k, by kind code. -/
def Sys2Proof.shiftedElem (kind e x k : Nat) : Int :=
  if kind = 0 then x * 2 ^ k
  else if kind = 1 then x / 2 ^ k
  else if kind = 2 then sext x e / 2 ^ k
  else (x * 2 ^ k % 2 ^ e : Nat) + (x / 2 ^ (e - k) : Nat)

/-- VSHL, VSHR and VSRA complete with each element of A shifted by the low bits of that of B, and VSHI with each shifted or
rotated by its constant, unpredicated (R145, R146). -/
def Sys2Proof.VectorShifts : Prop :=
  ∀ (s : State) (d a b n : BitVec 6) (p k : BitVec 3) (w : BitVec 2) (t : BitVec 3), w.toNat ≤ 2 → t.toNat ≤ 3 →
    let e := elemBits t.toNat
    let W := 256 * 2 ^ w.toNat
    let x := fun j => elem e (source s 0 a) j
    let y := fun j => elem e (source s 1 b) j % e
    let Put := fun (i : Instr) (f : Nat → Int) => Elementwise i s 2 d false (s.rp p.toNat) e W f
    Put (.vshl d a b p w t) (fun j => shiftedElem 0 e (x j) (y j)) ∧
    Put (.vshr d a b p w t) (fun j => shiftedElem 1 e (x j) (y j)) ∧
    Put (.vsra d a b p w t) (fun j => shiftedElem 2 e (x j) (y j)) ∧
    (n.toNat < e → k.toNat ≤ 3 →
      Windowed (.vshi d a n k w t) s 2 d e W (fun j => shiftedElem k.toNat e (x j) n.toNat))

/-- The conditions of R147. -/
def Sys2Proof.elementsMeet (c e x y : Nat) : Prop :=
  (c = 0 ∧ x = y) ∨ (c = 1 ∧ x ≠ y) ∨ (c = 2 ∧ sext x e < sext y e) ∨ (c = 3 ∧ sext x e ≥ sext y e) ∨
    (c = 4 ∧ x < y) ∨ (c = 5 ∧ x ≥ y)

/-- A compare completes with a predicate whose bits of active elements are their conditions and whose others are as the
destination had them. -/
def Sys2Proof.Compares (i : Instr) (s : State) (lat : Nat) (d p : BitVec 3) (e W : Nat) (cond : Nat → Prop) : Prop :=
  ∃ z : Pred, Results i s lat [(.p d.toNat, z.toNat)] ∧ ∀ k, k < 128 →
    (z.getLsbD k = true ↔
      if k < W / 8 ∧ (s.rp p.toNat).getLsbD (k / (e / 8) * e / 8) = true then cond (k / (e / 8))
      else (s.rp d.toNat).getLsbD k = true)

/-- VCMP and VFCMP complete with the byte bits of active elements set by their conditions, and VSEL with elements of A where
its selector is set and of B elsewhere (R147, R148, R150). -/
def Sys2Proof.VectorComparesAndSelection : Prop :=
  ∀ (s : State) (c dp : BitVec 3) (d a b : BitVec 6) (p : BitVec 3) (w : BitVec 2) (t : BitVec 3), w.toNat ≤ 2 →
    let e := elemBits t.toNat
    let W := 256 * 2 ^ w.toNat
    let x := fun j => elem e (source s 0 a) j
    let y := fun j => elem e (source s 1 b) j
    (t.toNat ≤ 3 → c.toNat ≤ 5 → Compares (.vcmp c dp a b p w t) s 2 dp p e W fun j => elementsMeet c.toNat e (x j) (y j)) ∧
    (4 ≤ t.toNat → t.toNat ≤ 6 → c.toNat ≤ 4 → Compares (.vfcmp c dp a b p w t) s 4 dp p e W fun j =>
      fpCmp (fmtOf t.toNat false) c.toNat (x j) (y j) = true) ∧
    Windowed (.vsel d a b p w t) s 2 d e W fun j => if (s.rp p.toNat).getLsbD (j * e / 8) then x j else y j

/-- The integer element-wise words of the VEC slot, its comparisons and its selection. -/
def Obligations.VectorIntegers : Prop :=
  Sys2Proof.VectorIntegerElements ∧ Sys2Proof.VectorBitwiseElements ∧
    Sys2Proof.VectorShifts ∧ Sys2Proof.VectorComparesAndSelection

/-- The floating element instructions complete with the operation on each pair of elements, rounded once to nearest even;
VFMA adds the old element of its destination, and VFMIN and VFMAX follow R31 (R149). -/
def Sys2Proof.VectorFloatingElements : Prop :=
  ∀ (s : State) (d a b : BitVec 6) (p : BitVec 3) (w : BitVec 2) (t : BitVec 3),
    w.toNat ≤ 2 → 4 ≤ t.toNat → t.toNat ≤ 6 →
    let f := fmtOf t.toNat false
    let e := elemBits t.toNat
    let W := 256 * 2 ^ w.toNat
    let x := fun j => elem e (source s 0 a) j
    let y := fun j => elem e (source s 1 b) j
    let Put := fun (i : Instr) (g : Nat → Nat) => Elementwise i s 4 d false (s.rp p.toNat) e W fun j => (g j : Int)
    Put (.vfadd d a b p w t) (fun j => fpAdd f .rne (x j) (y j)) ∧
    Put (.vfsub d a b p w t) (fun j => fpSub f .rne (x j) (y j)) ∧
    Put (.vfmul d a b p w t) (fun j => fpMul f .rne (x j) (y j)) ∧
    Put (.vfma d a b p w t) (fun j => fpFma f .rne (x j) (y j) (elem e (s.vold d) j)) ∧
    Put (.vfmin d a b p w t) (fun j => fpMin f (x j) (y j)) ∧
    Put (.vfmax d a b p w t) (fun j => fpMax f (x j) (y j))

/-- One element converted by VCVT between type codes (Table 6-3). -/
def Sys2Proof.converted (dt st : Nat) (dE5 sE5 sat : Bool) (m x : Nat) : Int :=
  let es := elemBits st
  let ed := elemBits dt
  let half : Int := 2 ^ (ed - 1)
  let v : Int := if m % 2 = 1 then x else sext x es
  if st ≤ 3 ∧ dt ≤ 3 then
    if es = ed then x
    else if ed < es ∧ sat then (if m / 2 = 1 then clamp 0 (2 * half - 1) v else clamp (-half) (half - 1) v)
    else v
  else if st ≤ 3 then roundF (fmtOf dt dE5) (Rounding.ofCode m) (ofInt (sext x es))
  else if dt ≤ 3 then toInt ed false (Rounding.ofCode m) (decodeF (fmtOf st sE5) x)
  else if fmtOf st sE5 = fmtOf dt dE5 then x
  else roundF (fmtOf dt dE5) (Rounding.ofCode m) (decodeF (fmtOf st sE5) x) sat

/-- VCVT completes with its n = W / max(es, ed) elements converted and zeros above them in the window (R151, Table 6-3). -/
def Sys2Proof.VectorConversions : Prop :=
  ∀ (s : State) (d a : BitVec 6) (st : BitVec 3) (e5 : BitVec 1) (m : BitVec 2) (sat y : BitVec 1) (w : BitVec 2)
    (t : BitVec 3), w.toNat ≤ 2 →
    let es := elemBits st.toNat
    let ed := elemBits t.toNat
    let W := 256 * 2 ^ w.toNat
    let n := W / max es ed
    ∃ x, VectorResult (.vcvt d a st e5 m sat y w t) s 4 d W x ∧
      (∀ j, j < n → elem ed x.toNat j =
        wrap ed (converted t.toNat st.toNat (e5 == 1) (y == 1) (sat == 1) m.toNat (elem es (source s 0 a) j))) ∧
      x.toNat % 2 ^ W / 2 ^ (ed * n) = 0

/-- The floating-point element-wise words of the VEC slot, and its conversions. -/
def Obligations.VectorFloats : Prop := Sys2Proof.VectorFloatingElements ∧ Sys2Proof.VectorConversions

/-! ### Accumulators -/

/-- The elements of a window that contribute to a lane, g to a lane, lowest first. -/
def Sys2Proof.contributors (p : Pred) (e W g k : Nat) : List Nat :=
  (List.range (W / e)).filter fun j => j / g == k && p.getLsbD (j * e / 8)

/-- `r` is q / 2^k rounded to the nearest integer, ties to even. -/
def Sys2Proof.IsNearestEven (q : Int) (k : Nat) (r : Int) : Prop :=
  2 * (q - r * 2 ^ k).natAbs ≤ 2 ^ k ∧ (2 * (q - r * 2 ^ k).natAbs = 2 ^ k → r % 2 = 0)

/-- VMAC, VFMAC, VACLR and VNARROW complete: the active products are added into their lanes of the accumulator as earlier
bundles leave it, a floating lane rounding once; VACLR gives zero; VNARROW moves half of the landed accumulator into
elements with zeros above them (R77, R152, R153, R154, R155). -/
def Obligations.Accumulation : Prop :=
  ∀ (s : State) (d a b : BitVec 6) (p : BitVec 3) (w : BitVec 2) (t : BitVec 3), w.toNat ≤ 2 →
    let e := elemBits t.toNat
    let W := 256 * 2 ^ w.toNat
    let x := fun j => elem e (source s 0 a) j
    let y := fun j => elem e (source s 1 b) j
    let old := (s.cur.chainA s.focus.pos d.toNat).toNat
    (t.toNat ≤ 2 → ∃ z : Acc, Results (.vmac d a b p w t) s 4 [(.a d.toNat, z.toNat)] ∧
      let L := if t.toNat = 2 then 64 else 32
      let g := if t.toNat = 0 then 2 else 1
      ∀ k, k < 2048 / L → elem L z.toNat k =
        wrap L ((elem L old k : Int) +
          ((contributors (s.rp p.toNat) e W g k).map fun j => sext (x j) e * sext (y j) e).sum)) ∧
    (4 ≤ t.toNat → ∃ z : Acc, Results (.vfmac d a b p w t) s 4 [(.a d.toNat, z.toNat)] ∧
      let f := fmtOf t.toNat false
      let g := if t.toNat = 7 then 2 else 1
      ∀ k, k < 64 → elem 32 z.toNat k =
        if contributors (s.rp p.toNat) e W g k = [] then elem 32 old k
        else roundF .fp32 .rne ((contributors (s.rp p.toNat) e W g k).foldl
          (fun acc j => acc.add .rne ((decodeF f (x j)).mul (decodeF f (y j)))) (decodeF .fp32 (elem 32 old k)))) ∧
    Results (.vaclr d) s 4 [(.a d.toNat, 0)] ∧
    ∀ (h : BitVec 1) (sh : BitVec 5),
      let L := if t.toNat = 3 then 64 else 32
      let n := min (1024 / L) (W / e)
      let lane := fun j => elem L (regRead s.cur s.focus.pos (.a a.toNat)) (1024 / L * h.toNat + j)
      let half : Int := 2 ^ (e - 1)
      ∃ z, VectorResult (.vnarrow d a h sh p w t) s 3 d W z ∧ z.toNat % 2 ^ W / 2 ^ (e * n) = 0 ∧
        ∀ j, j < n →
          ((s.rp p.toNat).getLsbD (j * e / 8) = false →
            elem e z.toNat j = if 60 ≤ d.toNat then 0 else elem e (s.vold d) j) ∧
          ((s.rp p.toNat).getLsbD (j * e / 8) = true → t.toNat ≤ 3 → ∃ r, IsNearestEven (sext (lane j) L) sh.toNat r ∧
            elem e z.toNat j = wrap e (clamp (-half) (half - 1) r)) ∧
          ((s.rp p.toNat).getLsbD (j * e / 8) = true → 4 ≤ t.toNat → elem e z.toNat j =
            if t.toNat = 6 then lane j
            else roundF (fmtOf t.toNat false) .rne (decodeF .fp32 (lane j)) (sh.getLsbD 4) % 2 ^ e)

/-! ### Movement, reductions, codes, bytes -/

/-- VPERM, VSHUF, VBCAST, VSLIDE, VINS and VEXT complete with their elements (R156 to R160). -/
def Obligations.VectorMovement : Prop :=
  ∀ (s : State) (d a b : BitVec 6) (p : BitVec 3) (w : BitVec 2) (t : BitVec 3), w.toNat ≤ 2 →
    let e := elemBits t.toNat
    let W := 256 * 2 ^ w.toNat
    let n := W / e
    let h := n / 2
    let x := fun j => elem e (source s 0 a) j
    let y := fun j => elem e (source s 1 b) j
    let k := (s.ri b.toNat).toNat % n
    Elementwise (.vperm d a b p w t) s 3 d false (s.rp p.toNat) e W (fun j => if y j < n then x (y j) else 0) ∧
    Windowed (.vshuf d a b 0 w t) s 3 d e W (fun j => if j % 2 = 0 then x (j / 2) else y (j / 2)) ∧
    Windowed (.vshuf d a b 1 w t) s 3 d e W (fun j => if j % 2 = 0 then x (h + j / 2) else y (h + j / 2)) ∧
    Windowed (.vshuf d a b 2 w t) s 3 d e W (fun j => if j < h then x (2 * j) else y (2 * (j - h))) ∧
    Windowed (.vshuf d a b 3 w t) s 3 d e W (fun j => if j < h then x (2 * j + 1) else y (2 * (j - h) + 1)) ∧
    Windowed (.vshuf d a b 4 w t) s 3 d e W (fun j => x (n - 1 - j)) ∧
    (∀ z : BitVec 1, Elementwise (.vbcast d a z p w t) s 2 d (z == 1) (s.rp p.toNat) e W fun _ => (s.rs a).toNat) ∧
    Elementwise (.vslide d a b p w t) s 3 d false (s.rp p.toNat) e W (fun j =>
      if 0 ≤ (j : Int) + b.toInt ∧ (j : Int) + b.toInt < n then x ((j : Int) + b.toInt).toNat else 0) ∧
    (d.toNat < 60 → Windowed (.vins d a b p w t) s 2 d e W fun j =>
      if j = k ∧ (s.rp p.toNat).getLsbD (k * e / 8) then (s.rs a).toNat else elem e (s.vold d) j) ∧
    ScalarResult (.vext d a b w t) s 2 d
      (if t.toNat ≤ 3 then BitVec.ofInt 64 (sext (x k) e) else BitVec.ofNat 64 (x k))

/-- The integer reductions of Table 6-6, over elements in order. -/
def Sys2Proof.reduced (op e : Nat) (ys : List Nat) : Nat :=
  match op with
  | 0 => ys.sum % 2 ^ e
  | 1 => ys.foldl (fun m y => if sext y e < sext m e then y else m) (2 ^ (e - 1) - 1)
  | 2 => ys.foldl (fun m y => if sext y e > sext m e then y else m) (2 ^ (e - 1))
  | 3 => ys.foldl (fun m y => if y < m then y else m) (2 ^ e - 1)
  | 4 => ys.foldl (fun m y => if y > m then y else m) 0
  | 5 => ys.foldl (fun m y => m &&& y) (2 ^ e - 1)
  | 6 => ys.foldl (fun m y => m ||| y) 0
  | _ => ys.foldl (fun m y => m ^^^ y) 0

/-- The active elements among the first k of a source. -/
def Sys2Proof.activeElems (s : State) (a : BitVec 6) (p : BitVec 3) (e k : Nat) : List Nat :=
  ((List.range k).filter fun j => (s.rp p.toNat).getLsbD (j * e / 8)).map fun j => elem e (source s 0 a) j

/-- VRED and VSCAN of integers complete with the reduction of the active elements in element 0 and zeros above, and with that
of the active elements up to each, or before each under .excl; of floating elements, with the tree of R42 and R43 or the
least or greatest by R31 (R161, Table 6-6). -/
def Obligations.ReductionsAndScans : Prop :=
  ∀ (s : State) (d a : BitVec 6) (o : BitVec 3) (m : BitVec 2) (excl : BitVec 1) (p : BitVec 3) (w : BitVec 2)
    (t : BitVec 3), w.toNat ≤ 2 → t.toNat ≤ 6 →
    let e := elemBits t.toNat
    let W := 256 * 2 ^ w.toNat
    let n := W / e
    let lanes := s.lanes a p e W
    let upTo := fun (j : Nat) => if excl = 1 then j else j + 1
    (t.toNat ≤ 3 →
      Windowed (.vred d a o m p w t) s 5 d e W
        (fun j => if j = 0 then reduced o.toNat e (activeElems s a p e n) else 0) ∧
      Windowed (.vscan d a o excl m p w t) s 6 d e W (fun j => reduced o.toNat e (activeElems s a p e (upTo j)))) ∧
    (4 ≤ t.toNat →
      (o = 0 →
        Windowed (.vred d a o m p w t) s 5 d e W (fun j => if j = 0 then
          treeResult (fmtOf t.toNat false) (Rounding.ofCode m.toNat)
            (scanBlocks (lanes.map (Option.map fun x => fpConvert (fmtOf t.toNat false) .fp32 .rne false x)) n 8 0 none)
          else 0) ∧
        Windowed (.vscan d a o excl m p w t) s 6 d e W (fun j =>
          treeResult (fmtOf t.toNat false) (Rounding.ofCode m.toNat)
            (scanBlocks (lanes.map (Option.map fun x => fpConvert (fmtOf t.toNat false) .fp32 .rne false x)) (upTo j) 8 0
              none))) ∧
      (o = 1 ∨ o = 2 →
        Windowed (.vred d a o m p w t) s 5 d e W (fun j => if j = 0 then
          redMinMax (fmtOf t.toNat false) o.toNat (activeElems s a p e n) else 0) ∧
        Windowed (.vscan d a o excl m p w t) s 6 d e W (fun j =>
          redMinMax (fmtOf t.toNat false) o.toNat (activeElems s a p e (upTo j)))))

/-- VPACK4, VUNPK4, VPAIR4 and VSGNPK complete with their four-bit codes, bytes and sign bits (R162 to R165). -/
def Sys2Proof.FourBitCodesAndSignatures : Prop :=
  ∀ (s : State) (d a b : BitVec 6) (h : BitVec 1) (k : BitVec 3) (w : BitVec 2) (t : BitVec 3), w.toNat ≤ 2 →
    let W := 256 * 2 ^ w.toNat
    let n := W / 8
    let e := elemBits t.toNat
    let code := fun r x j => elem 4 (source s r x) (h.toNat * n + j)
    let byte := fun j => if j < n then elem 8 (source s 0 a) j else elem 8 (source s 1 b) (j - n)
    Windowed (.vpack4 d a b w 0) s 3 d 4 W (fun j => clamp (-8) 7 (sext (byte j) 8)) ∧
    Windowed (.vpack4 d a b w 7) s 3 d 4 W (fun j => roundF .e2m1 .rne (decodeF .e4m3 (byte j))) ∧
    Windowed (.vunpk4 d a h w 0) s 3 d 8 W (fun j => sext (code 0 a j) 4) ∧
    Windowed (.vunpk4 d a h w 7) s 3 d 8 W (fun j => roundF .e4m3 .rne (decodeF .e2m1 (code 0 a j))) ∧
    Windowed (.vpair4 d a b h w 0) s 3 d 8 W (fun j => code 0 a j + 16 * code 1 b j) ∧
    (d.toNat < 60 → (k.toNat + 1) * (W / e) ≤ W → ∃ z : Vec,
      Results (.vsgnpk d a k w t) s 3 [(.v d.toNat, z.toNat)] ∧ ∀ m, m < 1024 → z.getLsbD m =
        if k.toNat * (W / e) ≤ m ∧ m < (k.toNat + 1) * (W / e) then
          (elem e (source s 0 a) (m - k.toNat * (W / e))).testBit (e - 1)
        else (s.vold d).testBit m)

/-- The order of two strings of n bytes, lowest address first: −1, 0 or +1. -/
def Sys2Proof.IsByteOrder (n x y : Nat) (r : Int) : Prop :=
  (r = 0 ∧ ∀ k, k < n → elem 8 x k = elem 8 y k) ∨
    ∃ k, k < n ∧ (∀ m, m < k → elem 8 x m = elem 8 y m) ∧
      ((elem 8 x k < elem 8 y k ∧ r = -1) ∨ (elem 8 x k > elem 8 y k ∧ r = 1))

/-- `r` is the least of the n places at which a byte stands, or n. -/
def Sys2Proof.IsBytePlace (n x byte : Nat) (r : Int) : Prop :=
  (r = n ∧ ∀ k, k < n → elem 8 x k ≠ byte) ∨
    ∃ k, k < n ∧ r = k ∧ elem 8 x k = byte ∧ ∀ m, m < k → elem 8 x m ≠ byte

/-- VHASH, VBCMP, VBFIND, VPOPC and VCLZ complete with their elements (R166, R167, R168). -/
def Sys2Proof.VectorBytesHashesAndCounts : Prop :=
  ∀ (s : State) (d a b : BitVec 6) (z : BitVec 1) (p : BitVec 3) (w : BitVec 2) (t : BitVec 3),
    w.toNat ≤ 2 → t.toNat ≤ 3 →
    let e := elemBits t.toNat
    let W := 256 * 2 ^ w.toNat
    let x := fun e j => elem e (source s 0 a) j
    let y := fun e j => elem e (source s 1 b) j
    Elementwise (.vhash d a b p w 2) s 3 d false (s.rp p.toNat) 32 W
      (fun j => (mixed (BitVec.ofNat 32 (x 32 j)) (BitVec.ofNat 32 (y 32 j))).toNat) ∧
    (∃ f, (∀ j, j < W / e → IsByteOrder (e / 8) (x e j) (y e j) (f j)) ∧
      Elementwise (.vbcmp d a b p w t) s 2 d false (s.rp p.toNat) e W f) ∧
    (∃ f, (∀ j, j < W / e → IsBytePlace (e / 8) (x e j) (y e j % 256) (f j)) ∧
      Elementwise (.vbfind d a b p w t) s 2 d false (s.rp p.toNat) e W f) ∧
    Elementwise (.vpopc d a z p w t) s 2 d (z == 1) (s.rp p.toNat) e W (fun j => ones (BitVec.ofNat e (x e j))) ∧
    ∃ f : Nat → Nat, (∀ j, j < W / e → IsClz e (x e j) (f j)) ∧
      Elementwise (.vclz d a z p w t) s 2 d (z == 1) (s.rp p.toNat) e W fun j => f j

/-- The words of four-bit codes and signatures, and of bytes, hashes and counts. -/
def Obligations.VectorCodes : Prop := Sys2Proof.FourBitCodesAndSignatures ∧ Sys2Proof.VectorBytesHashesAndCounts

/-- The CRC of R172 over 32 bits of data, lowest first. -/
def Sys2Proof.crc32c (c x : Nat) : Nat :=
  (List.range 32).foldl (fun c k => if (c ^^^ (x >>> k)) % 2 = 1 then (c >>> 1) ^^^ 0x82F63B78 else c >>> 1) c

/-- The SFU words complete with the correctly rounded functions of FP32 elements, with RNG128 on lanes of 128 bits and with
CRC-32C (R44, R45, R170, R171, R172). -/
def Obligations.SpecialFunctions : Prop :=
  ∀ (s : State) (d a b : BitVec 6) (p : BitVec 3) (w : BitVec 2) (t : BitVec 3), w.toNat ≤ 1 →
    let W := 256 * 2 ^ w.toNat
    let x := fun j => elem 32 (source s 0 a) j
    let y := fun j => elem 32 (source s 1 b) j
    let Put := fun (i : Instr) (lat : Nat) (f : Nat → Nat) =>
      Elementwise i s lat d false (s.rp p.toNat) 32 W fun j => (f j : Int)
    Put (.sexp2 d a p w t) 8 (fun j => roundF .fp32 .rne (decodeF .fp32 (x j)).exp2) ∧
    Put (.slog2 d a p w t) 8 (fun j => roundF .fp32 .rne (decodeF .fp32 (x j)).log2) ∧
    Put (.srcp d a p w t) 8 (fun j => roundF .fp32 .rne (FVal.one.div (decodeF .fp32 (x j)))) ∧
    Put (.srsq d a p w t) 8 (fun j => roundF .fp32 .rne (decodeF .fp32 (x j)).rsqrt) ∧
    Put (.ssqrt d a p w t) 12 (fun j => roundF .fp32 .rne (decodeF .fp32 (x j)).sqrt) ∧
    Put (.sdiv d a b p w t) 12 (fun j => roundF .fp32 .rne ((decodeF .fp32 (x j)).div (decodeF .fp32 (y j)))) ∧
    Put (.scrc d a b p w t) 4 (fun j => crc32c (x j) (y j)) ∧
    Elementwise (.rng128 d a b p w t) s 6 d false (s.rp p.toNat) 128 W
      (fun j => rng128 (elem 128 (source s 0 a) j) (elem 64 (source s 1 b) (2 * j)))

/-! ### The ADR slot -/

/-- The base-plus-offset address of an ADR word, in units of its size, modulo 2^64 (R196, R201). -/
def Sys2Proof.offsetAddress (s : State) (a : BitVec 6) (size : Nat) (o : BitVec 11) : Nat :=
  (s.rs a + BitVec.ofInt 64 (o.toInt * size)).toNat

/-- The base-plus-index address of LDX and STX. -/
def Sys2Proof.indexAddress (s : State) (a b : BitVec 6) (scaled : BitVec 1) (size : Nat) : Nat :=
  (s.rs a + s.rs b * BitVec.ofNat 64 (if scaled = 1 then size else 1)).toNat

/-- The checks of a load of device memory find nothing against it. -/
def Sys2Proof.Readable (s : State) (segs : List Seg) : Prop :=
  s.chk 6 segs true false (fun _ => true) true 0 = .ok ∧ s.isRemote segs = false

/-- The latency of a load: 4 within the window of the core's own scratchpad, 6 elsewhere (Table 4-5). -/
def Sys2Proof.latencyAt (a : Nat) : Nat :=
  if 0xFF_FF00_0000_0000 ≤ a ∧ a < 0xFF_FF00_0018_0000 then 4 else 6

/-- What a load of a SZ code gives: sign-extended for codes 0 to 3, zero-extended for 4 to 6 (Table 3-5). -/
def Sys2Proof.widened (z x : Nat) : Word := if z ≤ 3 then BitVec.ofInt 64 (sext x (8 * 2 ^ (z % 4))) else BitVec.ofNat 64 x

/-- The number of a list of bytes, the first the least significant (R4). -/
def Sys2Proof.number (bs : List Byte) : Nat := bs.foldr (fun b n => b.toNat + 256 * n) 0

/-- LD, LDX and LDV complete with the bytes at their addresses, extended by their size, at the latency of Table 4-5; memory
keeps every byte but the A bits of the leaves used (R201, R202). -/
def Obligations.RegisterLoads : Prop :=
  ∀ (s : State) (d a b : BitVec 6) (c : BitVec 1) (z : BitVec 3) (o : BitVec 11), z.toNat ≤ 6 →
    let size := 2 ^ (z.toNat % 4)
    let m := [(offsetAddress s a size o, size)]
    let x := [(indexAddress s a b c size, size)]
    let v := [(offsetAddress s a 8 o, 128)]
    (Readable s m → LoadsInto (.ld d a z o) s m (latencyAt (offsetAddress s a size o)) (.s d.toNat)
      (widened z.toNat (number (loaded s m))).toNat) ∧
    (Readable s x → LoadsInto (.ldx d a b c z) s x (latencyAt (indexAddress s a b c size)) (.s d.toNat)
      (widened z.toNat (number (loaded s x))).toNat) ∧
    (Readable s v → LoadsInto (.ldv d a o) s v (latencyAt (offsetAddress s a 8 o)) (.v d.toNat) (number (loaded s v)))

/-- Element j of a strided or gathered access: whether it is active, and its address (R208, R209). -/
def Sys2Proof.strideElement (s : State) (a b : BitVec 6) (z p : BitVec 3) (w : BitVec 2) (j : Nat) : Bool × Nat :=
  ((s.rp p.toNat).getLsbD (j * 2 ^ z.toNat),
    (s.rs a + BitVec.ofNat 64 ((s.ri b.toNat).toNat * (32 * 2 ^ w.toNat) + 2 ^ z.toNat * j)).toNat)

def Sys2Proof.gatherElement (s : State) (a b : BitVec 6) (z p : BitVec 3) (j : Nat) : Bool × Nat :=
  ((s.rp p.toNat).getLsbD (j * 2 ^ z.toNat),
    (s.rs a + BitVec.ofNat 64 (2 ^ z.toNat * elem 32 (source s 1 b) j)).toNat)

/-- The datum of a queue load: its active elements are the bytes read, in order, and the others zero. -/
def Sys2Proof.Gathers (i : Instr) (s : State) (q e n : Nat) (f : Nat → Bool × Nat) : Prop :=
  ∃ x : Vec, LoadsQueue i s (s.loadSegs i) q (8 * e * n) x.toNat ∧ ∀ j, j < n →
    elem (8 * e) x.toNat j = if (f j).1
      then number (((loaded s (s.loadSegs i)).drop (e * ((List.range j).filter fun k => (f k).1).length)).take e) else 0

/-- The pieces of the active elements of a queue load, in order. -/
def Sys2Proof.activePieces (e n : Nat) (f : Nat → Bool × Nat) : List Seg :=
  ((List.range n).filter fun j => (f j).1).map fun j => ((f j).2, e)

/-- The addresses of the bytes of some pieces, in order. -/
def Sys2Proof.addressesOf (segs : List Seg) : List Nat := segs.flatMap fun g => (List.range g.2).map (g.1 + ·)

/-- QLD and QGTH complete by filling the entry they have reserved with their active elements, read in one access, and zeros
for the others; QGTH reads exactly its active elements, and QLD the runs that its active elements make, whose bytes are those of
the active elements in order (R208, R209). -/
def Obligations.QueueLoads : Prop :=
  ∀ (s : State) (q : BitVec 2) (a b : BitVec 6) (z p : BitVec 3) (w : BitVec 2), z.toNat ≤ 3 → w.toNat ≤ 2 →
    let e := 2 ^ z.toNat
    let n := 32 * 2 ^ w.toNat / e
    (Readable s (s.loadSegs (.qld q a b z p w)) →
      Gathers (.qld q a b z p w) s q.toNat e n (strideElement s a b z p w)) ∧
    s.loadSegs (.qld q a b z p w) =
      (joinRuns ((activePieces e n (strideElement s a b z p w)).map fun g => (g.1, List.replicate g.2 0))).map
        (fun g => (g.1, g.2.length)) ∧
    addressesOf (s.loadSegs (.qld q a b z p w)) = addressesOf (activePieces e n (strideElement s a b z p w)) ∧
    (n ≤ 32 → s.loadSegs (.qgth q a b z p w) = activePieces e n (gatherElement s a b z p)) ∧
    (n ≤ 32 → Readable s (s.loadSegs (.qgth q a b z p w)) →
      Gathers (.qgth q a b z p w) s q.toNat e n (gatherElement s a b z p))

/-- The pieces of a scatter's active elements, in order, with the bytes of the popped entry's elements. -/
def Sys2Proof.scattered (s : State) (e n : Nat) (f : Nat → Bool × Nat) : List (Nat × List Byte) :=
  let data : Vec := ((s.popped 0).map Entry.data).getD 0
  ((List.range n).filter fun j => (f j).1).map fun j => ((f j).2, leBytes e (elem (8 * e) data.toNat j))

/-- The byte that a list of pieces stores at an address: that of the last piece that holds it. -/
def Sys2Proof.storedAt (segs : List (Nat × List Byte)) (a : Nat) : Option Byte :=
  segs.foldl (fun r g => if g.1 ≤ a ∧ a < g.1 + g.2.length then g.2[a - g.1]? else r) none

/-- A store-like word's checks find nothing against it, and every page of it is mapped. -/
def Sys2Proof.Writable (s : State) (segs : List Seg) (admitted : RKind → Bool) (aligned : Bool) (a : Nat) : Prop :=
  s.storeChk s.cur.who s.cur.asid s.die (coreOf s.focus.ticket) segs admitted aligned a = .ok []

/-- Where its checks find nothing against it, a store leaves its bytes at its address for the commit of its bundle, and
changes no byte before (R198, R201, R202, R208, R209). -/
def Sys2Proof.StoresWaitForCommit : Prop :=
  ∀ (s : State) (d a b : BitVec 6) (c : BitVec 1) (z p : BitVec 3) (o : BitVec 11) (q w : BitVec 2),
    z.toNat ≤ 3 → w.toNat ≤ 2 →
    let e := 2 ^ z.toNat
    let n := 32 * 2 ^ w.toNat / e
    let go := fun (i : Instr) (segs : List (Nat × List Byte)) =>
      Writable s (segs.map fun g => (g.1, g.2.length)) (fun _ => true) true 0 → Leaves i s (.store segs false)
    go (.st d a z o) [(offsetAddress s a e o, leBytes e (s.rs d).toNat)] ∧
    go (.stx d a b c z) [(indexAddress s a b c e, leBytes e (s.rs d).toNat)] ∧
    go (.stv d a o) [(offsetAddress s a 8 o, leBytes 128 (source s 0 d))] ∧
    (n ≤ 32 → go (.qsct q a b z p w) (scattered s e n (gatherElement s a b z p))) ∧
    go (.qst q a b z p w) (joinRuns (scattered s e n (strideElement s a b z p w))) ∧
    ∀ m, storedAt (joinRuns (scattered s e n (strideElement s a b z p w))) m =
      storedAt (scattered s e n (strideElement s a b z p w)) m

/-- Where their checks find nothing against them, AMO, CAS and RED leave their operation for the commit of their bundle, with
their operands taken at their size (R199, R210 to R213). -/
def Sys2Proof.AtomicsWaitForCommit : Prop :=
  ∀ (s : State) (d a b : BitVec 6) (r : BitVec 2) (e : BitVec 1) (f : BitVec 4),
    let va := (s.rs a).toNat
    let n := if e = 1 then 8 else 4
    let low := fun (x : Word) => x.toNat % 2 ^ (8 * n)
    (s.chk 6 [(va, n)] true true (fun k => k != .host) (va % n == 0) va = .ok →
      s.upsetOf s.cur.who s.cur.asid s.die [(va, n)] = none →
      Leaves (.amo d a b r e f) s (.amo f.toNat (e == 1) r.toNat va (low (s.rs b)) d.toNat) ∧
      Leaves (.cas d a b r e) s (.cas (e == 1) r.toNat va (low (s.rs d)) (low (s.rs b)) d.toNat)) ∧
    (Writable s [(va, n)] (fun k => k != .host && k != .peer) (va % n == 0) va →
      Leaves (.red a b e f) s (.red f.toNat (e == 1) va (low (s.rs b))))

/-- LEA completes with its address, and PREF without any effect (R203, R204). -/
def Sys2Proof.AddressesAndPrefetches : Prop :=
  ∀ (s : State) (d a : BitVec 6) (i : BitVec 14) (l : BitVec 1) (z : BitVec 3) (o : BitVec 11),
    ScalarResult (.lea d a i) s 1 d (s.rs a + BitVec.ofInt 64 i.toInt) ∧ NoEffect (.pref l a z o) s

/-- Stores, REDs and atomics leave their effects for commit; LEA and PREF make no access. -/
def Obligations.StoresAndAtomics : Prop :=
  Sys2Proof.StoresWaitForCommit ∧ Sys2Proof.AtomicsWaitForCommit ∧ Sys2Proof.AddressesAndPrefetches

/-- A load, store or atomic whose address has a bit of [63:56] set raises LOAD_FAULT with cause SPACE and that address, and
an AMO, CAS or RED of 8 bytes of generic memory at an odd multiple of 4 raises cause ALIGN
(R196, R197). -/
def Sys2Proof.AccessFaults : Prop :=
  ∀ (s : State) (d a b : BitVec 6) (c e : BitVec 1) (z : BitVec 3) (o : BitVec 11) (r : BitVec 2) (f : BitVec 4),
    z.toNat ≤ 3 →
    let size := 2 ^ z.toNat
    let m := offsetAddress s a size o
    let x := indexAddress s a b c size
    let v := offsetAddress s a 8 o
    let at_ := (s.rs a).toNat
    (2 ^ 56 ≤ m → Traps (.ld d a z o) s 6 1 m 0 ∧ Traps (.st d a z o) s 6 1 m 0) ∧
    (2 ^ 56 ≤ x → Traps (.ldx d a b c z) s 6 1 x 0 ∧ Traps (.stx d a b c z) s 6 1 x 0) ∧
    (2 ^ 56 ≤ v → Traps (.ldv d a o) s 6 1 v 0 ∧ Traps (.stv d a o) s 6 1 v 0) ∧
    (2 ^ 56 ≤ at_ → Traps (.amo d a b r e f) s 6 1 at_ 0 ∧ Traps (.cas d a b r e) s 6 1 at_ 0 ∧
      Traps (.red a b e f) s 6 1 at_ 0) ∧
    (at_ < 2 ^ 55 - 8 → at_ % 8 = 4 → Traps (.amo d a b r 1 f) s 6 2 at_ 0 ∧ Traps (.cas d a b r 1) s 6 2 at_ 0 ∧
      Traps (.red a b 1 f) s 6 2 at_ 0)

/-- A load of one byte of generic memory takes LOAD_FAULT with cause PERM where its page lacks R, with cause PAGE and the
level where its page cannot be mapped, and waits where its page awaits mapping: a RUNNING context is in PAGE-WAIT, its
registers and the device's memory as they were; a page that has been refused it while it waited for another gives cause PAGE
(R73, R183, R197, R198). That memory is unchanged is stated of host-assisted mode, in
which the request leaves by the host window. -/
def Sys2Proof.PageFaultsAndWaits : Prop :=
  ∀ (s : State) (d a : BitVec 6) (o : BitVec 11),
    let va := offsetAddress s a 1 o
    let page := s.page s.cur.asid s.die va true false false
    va < 2 ^ 55 →
      (page = .perm → Traps (.ld d a 0 o) s 6 3 va 0) ∧
      (∀ l, page = .cannot l → Traps (.ld d a 0 o) s 6 4 va l) ∧
      (∀ l, page = .awaits → s.refusedLevel (va / 65536) = some l → Traps (.ld d a 0 o) s 6 4 va l) ∧
      (page = .awaits → s.refusedLevel (va / 65536) = none → ∃ t, exec (.ld d a 0 o) s = .next t ∧
        t.cur = { s.cur with
          state := if s.cur.state = .running then .pageWait else s.cur.state
          reason := if s.cur.state = .running then 8 else s.cur.reason
          arg := if s.cur.state = .running then 0 else s.cur.arg
          inflight := s.cur.inflight.map fun b => if b.pos = s.focus.pos then
            { b with words := b.words.map fun w => if w.slot = s.focus.slot then
                { w with progress := .queued, wait := some (.page 6 [(va / 65536, va)]) } else w }
            else b } ∧
        (∀ k, k ≠ s.focus.ticket → t.ctx k = s.ctx k) ∧
        (s.hwMode 0 = false → t.mem = s.mem))

/-- The A and D bits: an access changes no byte of memory but in the leaves it uses, whose low byte gains A, and D for a
write; in the one leaf of an access of one page exactly that; and errors that its walks have met are reported (R249, R428). -/
def Sys2Proof.AccessedAndDirty : Prop :=
  ∀ (s : State) (w : Who) (asid die : Nat) (segs : List Seg) (write : Bool),
    let t := s.mark w asid die segs write
    let bits : Nat := if write then 0x30 else 0x10
    Touches s t ∧ t.lines = s.lines ∧ t.l1 = s.l1 ∧
    (∀ a, Mem.read t.mem a = Mem.read s.mem a ∨
      (a % 8 = 0 ∧ Mem.read t.mem a = Mem.read s.mem a ||| BitVec.ofNat 8 bits)) ∧
    (∀ p pa e level addr, pagesOf segs = [p] → s.kindOf w asid segs = .generic →
      s.page asid die p.2 (!write) write false = .ok pa e level addr →
      Mem.le t.mem addr 8 = Nat.lor (Mem.le s.mem addr 8) bits ∧
        ∀ a, a < addr ∨ addr + 8 ≤ a → Mem.read t.mem a = Mem.read s.mem a)

/-- The device after a load access that a word's checks make (R260, R295, R310, R358). -/
def Sys2Proof.afterRead (s : State) (va n : Nat) : State := (s.load [(va, n)]).1

/-- A load access that a word's checks make changes no byte but those that gain A in the leaves it uses, no time but LTIME,
which does not fall, and those of lines and of copies in L1s, reports the errors that its walks have met, and marks its word
with an error in what it has read (R229, R249, R385, R428). -/
def Sys2Proof.ChecksRead : Prop :=
  ∀ (s : State) (va n : Nat),
    let t := afterRead s va n
    Touches s { t with ctxs := s.ctxs } ∧
    (∀ a, Mem.read t.mem a = Mem.read s.mem a ∨ (a % 8 = 0 ∧ Mem.read t.mem a = Mem.read s.mem a ||| 0x10)) ∧
    (∀ j, j ≠ s.focus.ticket → t.ctx j = s.ctx j) ∧ s.cur.ltime ≤ t.cur.ltime ∧
    t.cur = { s.cur with
      ltime := t.cur.ltime
      inflight := s.cur.inflight.map fun b => if b.pos = s.focus.pos then
        { b with words := b.words.map fun w => if w.slot = s.focus.slot then
            { w with bad := ((marked s [(va, n)]).upsetOf s.cur.who s.cur.asid s.die [(va, n)]).map (·.cause) } else w }
        else b }

/-- What the checks of an access find: faults, waits for pages, and the bits that a page table keeps of accesses. -/
def Obligations.ChecksOfAccesses : Prop :=
  Sys2Proof.AccessFaults ∧ Sys2Proof.PageFaultsAndWaits ∧ Sys2Proof.AccessedAndDirty ∧ Sys2Proof.ChecksRead

/-! ### The MTX slot -/

/-- The rows of a tile access, a signed stride apart, modulo 2^64. -/
def Sys2Proof.tilePieces (s : State) (a b : BitVec 6) (n k : Nat) : List Seg :=
  (List.range n).map fun (i : Nat) => ((s.rs a + BitVec.ofInt 64 ((s.rs b).toInt * (i : Int))).toNat, k)

/-- The tile registers are the core's tiles from the base of the context's bank on (R174, R186). -/
def Sys2Proof.ownedTile (s : State) (t : BitVec 4) : Nat := s.cur.tileAt t.toNat

/-- A tensor scale: none for s0, else the FP32 code in the register (R39). -/
def Sys2Proof.tensorScale (s : State) (r : BitVec 6) : Option Nat := if r = 0 then none else some ((s.rs r).toNat % 2 ^ 32)

/-- The MTX words start with the operands that their bundle reads and wait for acceptance, TLD, TST and SLD once their
addresses, aligned to 64 bytes, pass their checks (R177, R183 to R188, R191 to R194). -/
def Obligations.MatrixWordsStart : Prop :=
  ∀ (s : State) (t u : BitVec 4) (r : BitVec 1) (a b v : BitVec 6) (e : BitVec 2) (w : BitVec 3) (n q x : BitVec 2)
    (i o y : BitVec 4) (p : BitVec 3) (g c z : BitVec 1),
    let k := 2 ^ e.toNat
    let rows := tilePieces s a b (256 / k) (256 * k)
    let turned := tilePieces s a b 256 256
    let aligned := (s.rs a).toNat % 64 == 0 && (s.rs b).toNat % 64 == 0
    let at_ := (s.rs a).toNat
    let size := 2048 * (n.toNat + 1)
    let chunk := (s.ri i.toNat).toNat % 512
    (s.chk 7 rows true false RKind.device aligned at_ = .ok →
      Buffers (.tld t r a b e) s (.tld (ownedTile s t) rows (r == 1) k)) ∧
    (s.chk 7 rows false true RKind.device aligned at_ = .ok → Buffers (.tst t 0 a b e) s (.tst (ownedTile s t) rows false k)) ∧
    (s.chk 7 turned false true RKind.device aligned at_ = .ok →
      Buffers (.tst t 1 a b e) s (.tst (ownedTile s t) turned true k)) ∧
    (s.chk 7 [(at_, size)] true false RKind.device (at_ % 64 == 0) at_ = .ok →
      Buffers (.sld a w n) s (.sld w.toNat (n.toNat + 1) at_)) ∧
    Buffers (.tzero t) s (.tzero (ownedTile s t)) ∧
    Buffers (.tgetr t v i) s (.tgetr (ownedTile s t) chunk v.toNat) ∧
    Buffers (.tsetr t v i) s (.tsetr (ownedTile s t) chunk (s.rv 0 v.toNat)) ∧
    Buffers (.mlds t a o p g) s (.mlds (ownedTile s t) o.toNat p.toNat (g == 1) (tensorScale s a)) ∧
    Buffers .mswap s .mswap ∧
    Buffers (.mma t u a o w g c q) s
      (.mma (ownedTile s t) (ownedTile s u) o.toNat q.toNat w.toNat (c == 1) (g == 1) (tensorScale s a)) ∧
    Buffers (.tcvt t u a o y x z) s (.tcvt (ownedTile s t) (ownedTile s u) o.toNat y.toNat x.toNat (z == 1) (tensorScale s a)) ∧
    Buffers (.tadd t u o) s (.tadd (ownedTile s t) (ownedTile s u) o.toNat)

/-! ### Engine commands -/

/-- A read that a word's checks make finds nothing against it: neither its own checks, nor a page to which the ADR word of its
bundle stores and which awaits mapping, nor an error that the stores of its bundle leave. -/
def Sys2Proof.Checked (s : State) (va n : Nat) : Prop :=
  s.chk 6 [(va, n)] true false RKind.device true 0 = .ok ∧ s.adrHolds [(va, n)] = [] ∧
    s.view.upsetOf s.cur.who s.cur.asid s.die [(va, n)] = none

/-- The bytes that a word's check reads, those that the ADR and MTX words of its bundle write among them (R6). -/
def Sys2Proof.bytesAt (s : State) (va n : Nat) : List Byte := s.view.readSeg s.cur.who s.cur.asid s.die (va, n)

/-- Reads one after another find nothing against them. -/
def Sys2Proof.AllChecked : State → List Seg → Prop
  | _, [] => True
  | s, g :: gs => Checked s g.1 g.2 ∧ AllChecked (afterRead s g.1 g.2) gs

/-- The number under which an engine finds a playbook: its physical address, with its key slot on an ENC page. -/
def Sys2Proof.bookAt (s : State) (pa pte : Nat) : Nat := (s.leafPlace s.cur.asid pte).code pa

/-- An instance page of a table, or a spill page, that a context may give to an engine: mapped, readable, writable, BANK,
neither encrypted nor a KV page. -/
def Sys2Proof.BankPage (s : State) (va : Nat) : Prop :=
  ∃ pa e level addr, s.page s.cur.asid s.die va true false false = .ok pa e level addr ∧
    pteW e = true ∧ pteEnc e = false ∧ pteBank e = true ∧ pteKv e = false

/-- CPY, PBSET, PLAY, TQ, TREPL, TBLDEF and TBLDEF.drop leave their commands for the commit of their bundle once their
checks pass, PBSET with its write of PBK; the playbook's translation sets A, the model's choice for PBSET and PLAY (log entry
99), and TBLDEF reads its descriptor first and sets no A in its instances' leaves, its choice too (log entry 116) (R219, R268,
R282, R295, R297). -/
def Sys2Proof.CopyPlayAndTableCommands : Prop :=
  ∀ (s : State) (t a b c : BitVec 6) (e n : BitVec 1),
    let g := t.toNat
    let x := (s.rs a).toNat
    let y := (s.rs b).toNat
    let len := (s.rs c).toNat
    let v := (s.rv 1 b.toNat).toNat
    let pbk := regRead s.cur s.focus.pos .pbk
    let lineOk := x % 256 = 0 ∧ ((s.region s.cur.who s.cur.asid x).map Region.kind = some RKind.lscr ∨
      (x < 2 ^ 55 ∧ s.page s.cur.asid s.die x true false false ≠ .perm ∧
        ∀ pa pte level addr, s.page s.cur.asid s.die x true false false = .ok pa pte level addr →
          pteW pte = true ∧ pteBank pte = false))
    (len < 2 ^ 40 → s.rangeBad x len = false → s.rangeBad y len = false →
      Leaves (.cpy t a b c) s (.cmd (some g) (.cpy x y len false 0))) ∧
    (x = 0 → Completes (.pbset t a) s 1 [(.pbk, 0)] none [] [.cmd (some g) (.pbset none)]) ∧
    (∀ pa pte level addr, x ≠ 0 → x % 64 = 0 → x < 2 ^ 55 → x % 65536 + 8448 ≤ 65536 →
      s.page s.cur.asid s.die x true false false = .ok pa pte level addr →
      CompletesFrom (.pbset t a) s (s.readThrough s.cur.asid x addr) 1 [(.pbk, x)] none [] [.cmd (some g) (.pbset (some (bookAt s pa pte)))]) ∧
    (lineOk → pbk = 0 → Leaves (.play t a b) s (.cmd none (.play .sent g x (v % 2 ^ 512) none [] s.focus.slot))) ∧
    (∀ pb pte level addr, lineOk → pbk ≠ 0 → s.page s.cur.asid s.die pbk true false false = .ok pb pte level addr →
      LeavesFrom (.play t a b) s (s.readThrough s.cur.asid pbk addr)
        (.cmd none (.play .sent g x (v % 2 ^ 512) (some (bookAt s pb pte)) [] s.focus.slot))) ∧
    Leaves (.tq t a b e n) s (.cmd (some g) (.tq (Query.mk x
      (if n = 1 then (List.range 64).map (elem 16 v) else (List.range 128).map (elem 8 v)) (n == 1) (e == 1) s.focus.slot none 0 0
      0 []))) ∧
    (x % 32 = 0 → x < 2 ^ 55 →
      Leaves (.tbldefDrop t a) s (.cmd (some g) (.tbldefDrop x)) ∧
      Leaves (.trepl t a) s (.cmd (some g) (.trepl x)) ∧
      (∀ d, Checked s x 32 → TableDesc.ofBytes (bytesAt s x 32) = some d →
        (∀ j, j ≤ d.copies → BankPage (afterRead s x 32) (d.base + 65536 * j)) →
        LeavesFrom (.tbldef t a) s ((afterRead s x 32).reportWalks ((List.range (d.copies + 1)).map fun j => d.base + 65536 * j))
          (.cmd (some g) (.tbldef x d.base d.logn d.copies d.wide false))))

/-- The set commands leave their commands once their handles and descriptors pass; RSET reads its descriptor first
(R309 to R316, R319). -/
def Sys2Proof.SetCommands : Prop :=
  ∀ (s : State) (t a b : BitVec 6) (m : BitVec 3) (f : BitVec 1) (k : BitVec 7),
    let g := t.toNat
    let x := (s.rs a).toNat
    let v := (s.rv 1 b.toNat).toNat
    (∀ d, x % 64 = 0 → x < 2 ^ 55 → Checked s x 64 → SetDesc.ofBytes s.cur.asid (bytesAt s x 64) = some d →
      (∀ va ∈ d.pages, BankPage (afterRead s x 64) va ∧ s.heldPage s.cur.asid va = false) →
      LeavesFrom (.rset t a) s ((afterRead s x 64).reportWalks d.pages) (.cmd (some g) (.rset d false))) ∧
    (x < 2 ^ 21 →
      Leaves (.rsetDrop t a) s (.cmd (some g) (.rsetDrop x)) ∧
      Leaves (.rins t a b) s (.cmd (some g) (.rins x (v % 2 ^ 337))) ∧
      Leaves (.rdel t a b) s (.cmd (some g) (.rdel x ((s.rs b).toNat % 2 ^ 32))) ∧
      Leaves (.rage t a b) s (.cmd (some g) (.rage x (sext (s.rs b).toNat 8)))) ∧
    (x / 2 ^ 32 < 2 ^ 21 →
      Leaves (.rsel m a b f k) s (.cmd none (.rsel (x / 2 ^ 32) (x % 2 ^ 32) (v % 2 ^ 256)
        (if f = 1 then some (v / 2 ^ 256 % 2 ^ 16, v / 2 ^ 272 % 2 ^ 16) else none) k.toNat (m.toNat + 1) s.focus.slot)) ∧
      Leaves (.rselInfo a) s (.cmd none (.rselInfo (x / 2 ^ 32) s.focus.slot)))

/-- TQP, PLAYP and RSELP complete with the data and the status of the entry that their bundle has popped, two bundles on, and
the context's LTIME rises to the entry's; PLAYP leaves its status for PLST (R231, R284, R299, R320). -/
def Sys2Proof.ResultQueuePops : Prop :=
  ∀ (s : State) (d a : BitVec 6) (e : Entry), s.popped 0 = some e →
    let pop := fun (i : Instr) (effects : List Effect) =>
      if d.toNat < 60 then
        Completes i s 2 [(.v d.toNat, e.data.toNat), (.s a.toNat, e.status.toNat)] none [e.time] effects
      else Completes i s 2 [(.s a.toNat, e.status.toNat)] (some (storeQ (d.toNat - 60), 1024, e.data.toNat)) [e.time] effects
    pop (.tqp d a) [] ∧ pop (.playp d a) [.plst e.status] ∧ pop (.rselp d a) []

/-- The times of the tags of a mask that are SET. -/
def Sys2Proof.tagTimes (s : State) (mask : Word) : List Nat :=
  ((List.range 64).filter fun g => mask.getLsbD g && (s.cur.tag g).set).map fun g => (s.cur.tag g).time

/-- A tag that is PENDING (Table 8-4): it counts commands and is not SET. -/
def Sys2Proof.pendingTag (s : State) (g : Nat) : Prop := (s.cur.tag g).set = false ∧ 0 < (s.cur.tag g).count

/-- TWANY and TWALL complete when a tag, or every tag, of the mask is SET, wait while one can become so, and raise
ENGINE_FAULT where the wait can never be met; TFFR gives the lowest SET tag with its TERR bit and TCLR leaves its clearing
for commit (R214, R216, R231, Table 8-6). -/
def Sys2Proof.TagWords : Prop :=
  ∀ (s : State) (d a : BitVec 6),
    let mask := s.rs a
    let selected := fun g => g < 64 ∧ mask.getLsbD g = true
    let set := fun g => (s.cur.tag g).set = true
    ((∃ g, selected g ∧ set g) → Completes (.twany a) s 0 [] none (tagTimes s mask) []) ∧
    ((∀ g, selected g → ¬ set g) → (∃ g, selected g ∧ pendingTag s g) → exec (.twany a) s = .next s) ∧
    ((∀ g, selected g → ¬ set g ∧ ¬ pendingTag s g) → Traps (.twany a) s 8 0 0 0) ∧
    ((∀ g, selected g → set g) → Completes (.twall a) s 0 [] none (tagTimes s mask) []) ∧
    ((∀ g, selected g → set g ∨ pendingTag s g) → (∃ g, selected g ∧ pendingTag s g) → exec (.twall a) s = .next s) ∧
    ((∃ g, selected g ∧ ¬ set g ∧ ¬ pendingTag s g) → Traps (.twall a) s 8 0 0 0) ∧
    ((∀ g, selected g → ¬ set g) → ∀ c, Completes (.tffr d a c) s 2 [(.s d.toNat, 64)] none [] []) ∧
    (∀ g, selected g → set g → (∀ k, k < g → ¬ (selected k ∧ set k)) →
      let x := g + if (s.cur.tag g).err then 128 else 0
      Completes (.tffr d a 0) s 2 [(.s d.toNat, x)] none [(s.cur.tag g).time] [] ∧
      Completes (.tffr d a 1) s 2 [(.s d.toNat, x)] none [(s.cur.tag g).time] [.tclr (BitVec.ofNat 64 (2 ^ g))]) ∧
    Leaves (.tclr a) s (.tclr mask)

/-- The tag words, and the pops of the result queues. -/
def Obligations.TagsAndResultQueues : Prop := Sys2Proof.ResultQueuePops ∧ Sys2Proof.TagWords

/-- PALLOC, PFREE, PSEAL and PATTR leave their operations once their checks pass, which read the pool's descriptor, the bitmaps
and the record that they need; PFREE of a referenced page raises PAGE_REFERENCED, and otherwise marks its slot freeing
(R260 to R263). -/
def Sys2Proof.PageCommands : Prop :=
  ∀ (s : State) (t a b : BitVec 6) (k : BitVec 1) (p : Pool),
    let g := t.toNat
    let x := (s.rs a).toNat
    let y := (s.rs b).toNat
    (let u := afterRead s x 64
     let found := u.view.findSlot s.cur.who s.cur.asid p 256 (number (bytesAt u y 1)) []
     let reads := found.2.map (fun c => (p.bitmap c, p.bitmapLen)) ++
       match found.1 with
       | some slot => [(p.record slot, 64)]
       | none => []
     x % 64 = 0 → Checked s x 64 → Pool.ofBytes x (bytesAt s x 64) = some p →
      u.chk 6 [(y, 1)] true true RKind.device true 0 = .ok → AllChecked u reads →
      LeavesFrom (.palloc t a b) s (reads.foldl (fun s g => afterRead s g.1 g.2) u) (.palloc x y g)) ∧
    (∀ slot,
      let u := afterRead s y 64
      let v := afterRead u (p.record slot) 64
      let record := leNat (bytesAt u (p.record slot) 64)
      let key := v.homeKey s.cur.who s.cur.asid (p.record slot)
      y % 64 = 0 → Checked s y 64 → Pool.ofBytes y (bytesAt s y 64) = some p → p.slotOf x = some slot →
      Checked u (p.record slot) 64 → recordAlloc record = true → s.isFreeing key = false →
      s.heldPage s.cur.asid x = false →
      LeavesFrom (.pseal t a b) s v (.cmd (some g) (.pseal y x slot)) ∧
      (recordRref record ≠ 0 → TrapsFrom (.pfree t a b) s v 10 0 0 0) ∧
      (recordRref record = 0 → ∃ w, exec (.pfree t a b) s = .next w ∧
        w = { v with ctxs := w.ctxs, freeing := s.freeing ++ [(key, s.cur.who, s.focus.pos)] } ∧
        (∀ j, j ≠ s.focus.ticket → w.ctx j = v.ctx j) ∧
        w.cur = { v.cur with inflight := (v.cur.inflight.map (withEffect s.focus.pos s.focus.slot
          (.cmd (some g) (.pfree y x slot)))).map (executed s.focus.pos s.focus.slot) })) ∧
    (∀ pa e level addr, x < 2 ^ 55 → s.page s.cur.asid s.die x false false false = .ok pa e level addr →
      s.heldPage s.cur.asid x = false → pteW e = true → (k = 1 → pteEnc e = false) → pteKv e = false → pteRepl e = false →
      LeavesFrom (.pattr t a k) s (s.reportWalk s.cur.asid x) (.cmd (some g) (.pattr x (k == 1))))

/-- TSPAWN and COLL leave their commands once their checks pass, TSPAWN with the record that it reads and a new ARGP
(R357, R358, R364, R365). -/
def Sys2Proof.SpawnsAndCollectives : Prop :=
  ∀ (s : State) (t a b q : BitVec 6) (c z : BitVec 2) (e : BitVec 1) (o : BitVec 3),
    let g := t.toNat
    let x := (s.rs a).toNat
    let y := (s.rs b).toNat
    let record := leNat (bytesAt s x 64)
    let size := if z = 1 then 8 else 4
    (x % 64 = 0 → s.spaceBad s.cur.who s.cur.asid RKind.device [(x, 64)] = none → Checked s x 64 →
      taskReason record = none → (b = 0 ∨ y % 8 = 0) →
      LeavesFrom (.tspawn t a b q) s (afterRead s x 64) (.cmd (some g) (.tspawn q.toNat s.cur.handler
        (Task.ofRecord 0 (if b = 0 then record else recSet record 1 y) (some s.cur.asid) 0)))) ∧
    (0 < y → y ≤ 16384 → x % size = 0 → s.spaceBad s.cur.who s.cur.asid RKind.device [(x, y * size)] = none →
      s.chk 6 [(x, y * size)] true true RKind.device true 0 = .ok →
      Leaves (.coll t a b c e z o) s (.cmd (some g) (.coll (CollArg.mk o.toNat z.toNat (e == 1) c.toNat x y 0) none none)))

/-- The engine commands leave their work for commit; the bits that their page tables keep are the model's choice (log entries
99 and 116). -/
def Obligations.EngineCommands : Prop :=
  Sys2Proof.CopyPlayAndTableCommands ∧ Sys2Proof.SetCommands ∧ Sys2Proof.PageCommands ∧ Sys2Proof.SpawnsAndCollectives

/-- BINIT, BINIT.free, BARR and WWATCH leave their operations for commit, BINIT with a count of 1 to 65,535 and WWATCH with a
range of the caller's own scratchpad. A BWAIT asks before it dispatches: its condition holds once the phase has flipped, or
where a flip has released its context from the wait, whose time it then takes (R374, R375); it is awaited at the old phase; and
on a FREE barrier, or one of another address space, it can never hold. A dispatched BWAIT completes, and WWAIT with the token
that its bundle has popped; a WWAIT without token or armed comparator raises ENGINE_FAULT (R371 to R380). -/
def Obligations.BarriersAndWakes : Prop :=
  ∀ (s : State) (t a b : BitVec 6) (c : BitVec 8) (g : BitVec 1) (k : BitVec 3),
    let x := (s.rs a).toNat
    let len := (s.rs b).toNat
    (0 < x → x < 2 ^ 16 → Leaves (.binit t a c) s (.cmd (some t.toNat) (.binit c.toNat x))) ∧
    ((x = 0 ∨ 2 ^ 16 ≤ x) → Traps (.binit t a c) s 8 0 0 0) ∧
    Leaves (.binitFree t c) s (.cmd (some t.toNat) (.binitFree c.toNat)) ∧
    Leaves (.barr t g c) s (.barr c.toNat (g == 1) t.toNat) ∧
    NoEffect (.bwait a g c) s ∧
    (∀ (m raw : Nat),
      let d := s.ctx m
      let ph := (d.readS d.pos a.toNat).getLsbD 0
      let bar := s.deviceBarrier c.toNat
      let asked := fun (g : BitVec 1) (v : Wait.Verdict) =>
        (s.waitOf m { slot := 7, raw := raw, instr := .bwait a g c }).map (·.1) = some v
      let time := s.eventTime m { slot := 7, raw := raw, instr := .bwait a g c }
      (∀ y, d.met = some (d.pos, y) → asked g .holds ∧ time = y) ∧
      ((∀ y, d.met ≠ some (d.pos, y)) →
        time = (if g = 1 then (s.groupBarrier d).flipTime else bar.flipTime) ∧
        ((s.groupBarrier d).ph ≠ ph → asked 1 .holds) ∧ ((s.groupBarrier d).ph = ph → asked 1 (.awaits 0)) ∧
        (bar.state ≠ 0 → bar.asid = d.asid →
          (bar.ph ≠ ph → asked 0 .holds) ∧ (bar.ph = ph → asked 0 (.awaits c.toNat))) ∧
        (bar.state = 0 ∨ bar.asid ≠ d.asid → asked 0 .never))) ∧
    (∀ off, s.ownOffset x = some off → len ≤ 0x18_0000 → off + len ≤ hdrScratch (s.hdrOf s.cur.who) →
      s.compFree s.focus.ticket k.toNat = true → Leaves (.wwatch k a b) s (.wwatch k.toNat off len)) ∧
    (∀ y, s.takenToken = some y → Completes (.wwait t a) s 2
      [(.s t.toNat, (y.comp + (if y.coal then 16 else 0) + y.hits * 2 ^ 8 + y.off * 2 ^ 32) % 2 ^ 64)] none [y.time] []) ∧
    (s.takenToken = none → s.token s.focus.ticket x = none →
      (∀ e ∈ (s.core (coreOf s.focus.ticket)).comps, e.2.armed = true → e.2.owner = s.cur.who → selected x e.1 = false) →
      Traps (.wwait t a) s 8 0 0 0)

/-! ### Bundles and contexts -/

/-- A trap raised before dispatch, in a slot, with the slot word or header in AUX. -/
def Sys2Proof.earlyTrap (cls slot aux : Nat) : Trap :=
  { cls := cls, cause := 0, slot := slot, addr := 0, aux := aux, level := 0, code := 0, isAsync := false, due := 0 }

/-- FETCH_FAULT at a page, with the header in AUX where another page holds it (Table 3-15 steps 2 and 5). -/
def Sys2Proof.fetchFault (cause page level aux : Nat) : Trap :=
  { earlyTrap 5 8 aux with cause := cause, addr := page * 65536, level := level }

/-- The fetch of a bundle, by steps 1 to 5 of Table 3-15: a PC outside the code segment; the page of the header; the header
itself, with a slot or more, no reserved bit and its words inside the segment; and the page of the words that cross into the
next one. What is found is the slot words in order, with the leaves used and an error among the bytes (R50, R60, R62). -/
def Sys2Proof.BundlesAreFetched : Prop :=
  ∀ (s : State) (k : Nat),
    let c := s.ctx k
    let seg := s.codeSegment c.who
    let page := fun (va : Nat) => s.page c.asid (dieOf (coreOf k)) va false false true
    let hdr := number (s.codeBytes c.who c.pc 4)
    let slots := (List.range 8).filter fun i => hdr / 2 ^ (24 + i) % 2 == 1
    let n := 4 + 4 * slots.length
    let words := slots.zip ((List.range slots.length).map fun i =>
      number (((s.codeBytes c.who c.pc n).drop (4 + 4 * i)).take 4))
    let shaped := hdr / 2 ^ 24 ≠ 0 ∧ hdr % 2 ^ 23 = 0 ∧ c.pc + n ≤ seg.1 + seg.2
    let inside := seg.1 ≤ c.pc ∧ c.pc < seg.1 + seg.2
    let here := c.pc / 65536
    (¬ inside → s.fetchBundle k = .trap (earlyTrap 1 8 0) []) ∧
    (inside →
      (page c.pc = .perm → s.fetchBundle k = .trap (fetchFault 3 here 0 0) []) ∧
      (∀ l, page c.pc = .cannot l → s.fetchBundle k = .trap (fetchFault 4 here l 0) []) ∧
      (page c.pc = .awaits → s.fetchBundle k = .awaits c.pc []) ∧
      ∀ pa e level leaf, page c.pc = .ok pa e level leaf →
        (¬ shaped → s.fetchBundle k = .trap (earlyTrap 1 8 hdr) [leaf]) ∧
        (shaped → c.pc % 65536 + n ≤ 65536 → s.fetchBundle k = .bundle hdr words [leaf] (s.upsetIn .phys pa n)) ∧
        (shaped → 65536 < c.pc % 65536 + n →
          let next := (here + 1) * 65536
          (page next = .perm → s.fetchBundle k = .trap (fetchFault 3 (here + 1) 0 hdr) [leaf]) ∧
          (∀ l, page next = .cannot l → s.fetchBundle k = .trap (fetchFault 4 (here + 1) l hdr) [leaf]) ∧
          (page next = .awaits → s.fetchBundle k = .awaits next [leaf]) ∧
          ∀ pa' e' level' leaf', page next = .ok pa' e' level' leaf' →
            s.fetchBundle k = .bundle hdr words [leaf, leaf']
              ((s.upsetIn .phys pa (next - c.pc)).or (s.upsetIn .phys pa' (c.pc + n - next)))))

/-- The checks of a fetched bundle, by steps 6 to 8 of Table 3-15: of each word in slot order, that its opcode is defined and
open to its context, ILLEGAL_OP, and that its reserved fields are zero, MBZ; then ILLEGAL_BUNDLE where two words name one
destination, and PRIVILEGE for the first CSRW of another CSR than SLACKR and FCMD (R59, R60, R81, R95, R194, R388). -/
def Sys2Proof.BundleChecks : Prop :=
  ∀ (c : Context) (hdr : Nat) (raws : List (Nat × Nat)),
    (∀ slot raw, (decodeSpace (slotSpace slot) raw = .bad → c.checkWord slot raw = .error 2) ∧
      ∀ i mbz, decodeSpace (slotSpace slot) raw = .word i mbz →
        let closed := (c.handler = false ∧ ∃ r, i = .csrr r 0x20 ∨ i = .csrw r 0x20) ∨
          (i.space? = some .mtx ∧ (c.tiles = [] ∨ ∃ j ∈ Instr.tileReads i ++ Instr.tileWrites i, c.tiles.length ≤ j))
        (closed → c.checkWord slot raw = .error 2) ∧
        (¬ closed → c.checkWord slot raw = if mbz then .error 3 else .ok i)) ∧
    (∀ before slot raw after cls, raws = before ++ (slot, raw) :: after → (∀ r ∈ before, ∃ i, c.checkWord r.1 r.2 = .ok i) →
      c.checkWord slot raw = .error cls → c.checkBundle hdr raws = .error (earlyTrap cls slot raw)) ∧
    ∀ ws : List Issued, raws = ws.map (fun w => (w.slot, w.raw)) → (∀ w ∈ ws, c.checkWord w.slot w.raw = .ok w.instr) →
      let apart := ws.Pairwise fun x y => ∀ d, d ∈ x.dests → d ∉ y.dests
      let barred := fun (w : Issued) => ∃ r n, w.instr = .csrw r n ∧ n ≠ 2 ∧ n ≠ 0x20
      (¬ apart → c.checkBundle hdr raws = .error (earlyTrap 1 8 hdr)) ∧
      (apart → (∀ w ∈ ws, ¬ barred w) → c.checkBundle hdr raws = .ok ws) ∧
      (∀ before w after, apart → ws = before ++ w :: after → (∀ x ∈ before, ¬ barred x) → barred w →
        c.checkBundle hdr raws = .error (earlyTrap 4 w.slot w.raw))

/-- A bundle stalls exactly when a result that lands by it has not been computed, a word lags behind it by more than the slack,
or at all for SYNC, a tag test stands behind a tagged command or clear that has not committed, or a tile of its MTX word is not
ready (R84, R215). A word has not started while it is queued, a FENCE.sys until it executes, and an MTX word other than TLD, TST
and SLD until it is accepted (R124, R177). -/
def Sys2Proof.BundlesStall : Prop :=
  (∀ w : SlotWord, w.unstarted = true ↔ w.progress = .queued ∨ (w.progress = .started ∧ ∃ i, w.instr = some i ∧
    ((∃ n, i = .fence n) ∨ (i.space? = some .mtx ∧ Instr.isTileAccess i = false)))) ∧
  ∀ (s : State) (k hdr : Nat) (ws : List Issued),
    let c := s.ctx k
    let m := c.pos
    s.stalls k hdr ws = true ↔
      (∃ a ∈ c.awaited, a.pos ≤ m) ∨
      (∃ b ∈ c.inflight, ∃ w ∈ b.words, ∃ i, w.instr = some i ∧ (w.progress ≠ .executed ∨ Instr.atCommit i = true) ∧
        ((Instr.discards i = true ∧ b.pos + 6 ≤ m) ∨
          ∃ d ∈ (Instr.uses (s.loadLat k b.pos i) i).dests, d.1 < 400 ∧ b.pos + d.2 ≤ m)) ∨
      (∃ b ∈ c.inflight, (∃ w ∈ b.words, w.unstarted = true) ∧ (hdr / 2 ^ 23 % 2 = 1 ∨ regRead c m .slackr < m - b.pos)) ∨
      ((∃ w ∈ ws, (∃ a, w.instr = .twany a ∨ w.instr = .twall a) ∨ ∃ d a n, w.instr = .tffr d a n) ∧
        ∃ b ∈ c.inflight, ∃ w ∈ b.words, ∃ i, w.instr = some i ∧ Instr.marksTags i = true) ∨
      ∃ w ∈ ws, w.instr.space? = some .mtx ∧ s.tilesReady k w.instr = false

/-- What a sound bundle that does not stall waits for or faults on. The first word that pops an entry which no earlier bundle
has reserved, pushes where its queue is full, or waits for what can never come raises ENGINE_FAULT; otherwise the first word
blocks whose pop finds no data yet, a load queue at the first entry that is missing, or whose wait is not met (R73, R74, R205 to
R207, R447). -/
def Sys2Proof.BundlesHold : Prop :=
  ∀ (s : State) (k : Nat) (ws : List Issued),
    let c := s.ctx k
    let short := fun (w : Issued) =>
      (∃ before after q j, popsOf ws = before ++ (w.slot, q, j) :: after ∧ (c.held q).length ≤ countOf q before) ∨
      (∃ before after q j, pushesOf ws = before ++ (w.slot, q, j) :: after ∧
        queueDepth q < (c.held q).length - countOf q (popsOf ws) + countOf q before + 1) ∨
      ∃ v, s.waitOf k w = some v ∧ v.1 = .never
    let found := fun (q n : Nat) => ∃ e, (c.held q)[n]? = some e ∧ e.filled = true
    let due := fun (x : Nat × Nat) => c.popHold (countOf x.1 (popsOf ws)) x.1
    ((∀ w ∈ ws, ¬ short w) → s.engineFaultAt k ws = none) ∧
    (∀ before w after, ws = before ++ w :: after → (∀ x ∈ before, ¬ short x) → short w → s.engineFaultAt k ws = some w) ∧
    (∀ n q,
      (q < 4 → (∀ m, m < n → found q m) → c.popHold n q = none) ∧
      (∀ m, q < 4 → m < n → (∀ i, i < m → found q i) → ¬ found q m → c.popHold n q = some (Hold.mk 1 q (.loadq q (m + 1)))) ∧
      (4 ≤ q → q < 8 → c.popHold n q = none) ∧
      (8 ≤ q → (found q 0 → c.popHold n q = none) ∧ (¬ found q 0 → c.popHold n q = some (Hold.mk 2 (q - 8) (.result q))))) ∧
    ∀ w : Issued,
      (∀ before x after h, (Instr.uses 0 w.instr).pops = before ++ x :: after → (∀ y ∈ before, due y = none) →
        due x = some h → s.wordHold k ws w = some h) ∧
      ((∀ x ∈ (Instr.uses 0 w.instr).pops, due x = none) →
        (∀ a r b, s.waitOf k w = some (.awaits a, r, b) → s.wordHold k ws w = some (Hold.mk r a b)) ∧
        ((∀ a r b, s.waitOf k w ≠ some (.awaits a, r, b)) → s.wordHold k ws w = none))

/-- A context that may dispatch: RUNNING, with no trap, wait or undecided control transfer of its own bundles and no
asynchronous trap to take first, outside TRIP and not draining (R61, R73, R96, R384). -/
def Sys2Proof.MayDispatch (s : State) (k : Nat) : Prop :=
  (s.ctx k).state = .running ∧ (s.ctx k).block ≠ some .drain ∧ (s.ctx k).trapDue = false ∧ (s.ctx k).waitsFor false = false ∧
  (s.ctx k).waitsFor true = false ∧ (s.ctx k).transfers = false ∧ firstDue (s.ctx k).pos (s.ctx k).pending = none ∧
  s.lemant.power ≠ .trip

/-- The device once the code pages of a bundle have been used: A is set in the leaves that it has read through, and errors that
its walks have met are reported (R249, R428). -/
def Sys2Proof.fetched (s : State) (k : Nat) (f : Fetched) : State :=
  f.leaves.foldl (fun s a => s.orPte a 0x10)
    ((f.walked (s.ctx k).pc).foldl (fun u va => u.reportWalk (s.ctx k).asid va) s)

/-- The device with an error among the code bytes of a bundle reported. -/
def Sys2Proof.codeReported (s : State) : Option Upset → State
  | some u => s.reportUpset u
  | none => s

/-- BUNDLE_DISPATCH, for a context that may dispatch: a fetch that meets a bad page or a bundle that fails its checks suspends
the context once every earlier bundle has committed, a code page that awaits mapping makes it wait, and a bundle that is sound
and does not stall raises ENGINE_FAULT, blocks, or dispatches. Before that a RUNNING context takes the trap that its oldest
bundle has to report, or enters PAGE-WAIT for what a word of its bundles waits for, and one that drains is BLOCKED again (R60,
R63, R73, R84, R88, R96, R447). The model's choices are that a fetch sets A in the leaves it uses (log entry 22), that REASON
and ARG are those of the lowest slot (16), that an ENGINE_FAULT before dispatch is reported at the lowest slot that raises one
(55), that code bytes with an error are reported and used as they stand (70), and that a BRK which its bundle has dispatched
without is met again if that bundle is discarded (112). -/
def Sys2Proof.BundlesGo : Prop :=
  ∀ (s : State) (k : Nat),
    let c := s.ctx k
    let f := s.fetchBundle k
    let u := fetched s k f
    let at_ := fun (tr : Trap) => After (.bundleDispatch k) s fun t => Suspended u t k tr c.pos c.pc c.pos c.pc
    (c.state = .running →
      (c.block = some .drain → After (.bundleDispatch k) s fun t => Waits s t k fun c =>
        { c with state := .blocked, reason := 6, arg := 0 }) ∧
      (∀ b rest tr, c.block ≠ some .drain → c.inflight = b :: rest → b.settled = true → lowestTrap b.traps = some tr →
        After (.bundleDispatch k) s fun t => Suspended s t k tr b.pos b.pc b.pos b.pc) ∧
      (c.block ≠ some .drain → c.trapDue = false → (c.waitsFor false = true ∨ c.waitsFor true = true) →
        After (.bundleDispatch k) s fun t => Waits s t k fun c =>
          { c with state := .pageWait, reason := if c.waitsFor false then 8 else 9, arg := 0 })) ∧
    (MayDispatch s k →
      (∀ tr leaves, f = .trap tr leaves → c.inflight = [] → at_ tr) ∧
      (∀ va leaves, f = .awaits va leaves → After (.bundleDispatch k) s fun t => Waits (u.needPage c.asid va false) t k fun c =>
          { c with state := .pageWait, reason := 10, arg := 0, fetchWait := some (va / 65536) }) ∧
      (∀ hdr raws leaves bad tr, f = .bundle hdr raws leaves bad → c.checkBundle hdr raws = .error tr →
        c.inflight = [] → at_ tr) ∧
      (∀ hdr raws leaves bad ws', f = .bundle hdr raws leaves bad → c.checkBundle hdr raws = .ok ws' →
        let ws := c.effective ws'
        u.stalls k hdr ws = false →
          (∀ w, u.engineFaultAt k ws = some w → c.inflight = [] → at_ (earlyTrap 8 w.slot w.raw)) ∧
          (∀ h, u.engineFaultAt k ws = none → ws.findSome? (u.wordHold k ws) = some h →
            After (.bundleDispatch k) s fun t => Waits u t k fun c =>
              { c with state := .blocked, reason := h.reason, arg := h.arg, block := some h.block }) ∧
          (u.engineFaultAt k ws = none → ws.findSome? (u.wordHold k ws) = none → brkCode ws = none →
            After (.bundleDispatch k) s fun t => Dispatches (codeReported u bad) t k hdr ws)))

/-- A bundle is fetched and checked, stalls, faults or holds, and dispatches. The model's choices are those of log entries 16,
22, 55, 70 and 112. -/
def Obligations.BundlesDispatch : Prop :=
  Sys2Proof.BundlesAreFetched ∧ Sys2Proof.BundleChecks ∧ Sys2Proof.BundlesStall ∧ Sys2Proof.BundlesHold ∧ Sys2Proof.BundlesGo

/-- A word of a bundle whose data have returned has executed. -/
def Sys2Proof.returned (pos slot : Nat) (bs : List Bundle) : List Bundle := bs.map (progressed pos slot .executed)

/-- No trap of the oldest bundle of a context can be taken yet: it has none, or a word of it has still to execute (R447). -/
def Sys2Proof.Untrapped (c : Context) : Prop := ∀ b, c.inflight.head? = some b → b.traps = [] ∨ b.settled = false

/-- The instance in a context ends (R96): the context becomes EMPTY, its comparators, tokens and membership of its group's
barrier go, and its launch notes it. -/
def Sys2Proof.EndsInstance (s t : State) (k : Nat) (terminated : Bool) : Prop :=
  let c := s.ctx k
  t = { s with
    ctxs := t.ctxs
    cores := t.cores
    floor := max s.floor c.ltime
    launches := SMap.modify s.launches c.who.launch fun l => { l with
      ended := l.ended ++ [c.who.inst]
      faulted := l.faulted || terminated
      time := max l.time c.ltime
      groups := SMap.modify l.groups (l.gidxOf c.who.inst) Barrier.lose } } ∧
  t.ctx k = Context.empty ∧ (∀ j, j ≠ k → t.ctx j = s.ctx j) ∧
  ∀ j, t.core j = if j = coreOf k then
      { s.core j with
        comps := (s.core j).comps.filter fun e => e.2.owner != c.who
        tokens := (s.core j).tokens.filter fun x => x.owner != c.who }
    else s.core j

/-- The operations in flight without the matrix work of an instance, which a drain lets run (R90, R91). -/
def Sys2Proof.withoutMtx (s : State) (w : Who) : State :=
  { s with ops := s.ops.filter fun o => match o.kind with
      | .mtx .. => o.who != some w
      | _ => true }

/-- LOAD_DATA_RETURN: the word of a load whose data return has executed; a load on a link receives the bytes as they stand at
the other end, waits there for a page, or is refused; data with an error, or with a parity error that they have met on the
network, are a MACHINE_CHECK of that word. CONTEXT_SWITCH: a core without a RUNNING context runs the READY one that it has
selected, or else the next in cyclic order. ASYNCHRONOUS_TRAP: a pending trap suspends its context at a boundary. DRAIN_END: a
drained context becomes EMPTY, or FAULTED where a trap is pending (R87, R92, R96, R384, R385, R427). The model's choices are
that a drain takes the first pending trap of any class, where R257 speaks of LOST (log entry 66), and removes the matrix work
that it has let run (65). -/
def Obligations.ContextsGoOn : Prop :=
  ∀ (s : State) (k pos : Nat) (w : SlotWord) (i : Instr),
    let c := s.ctx k
    let here : State := { s with focus := { ticket := k, pos := pos, slot := 1 } }
    (s.wordAt k pos 1 = some w → w.progress = .started →
      (w.bad = none → s.remoteLoad k pos 1 = none →
        Untrapped { c with inflight := returned pos 1 c.inflight } →
        After (.loadDataReturn k pos 1) s fun t => t = { here with ctxs := t.ctxs } ∧
          t.ctx k = { c with inflight := returned pos 1 c.inflight } ∧ ∀ j, j ≠ k → t.ctx j = s.ctx j) ∧
      (∀ o, s.remoteLoad k pos 1 = some o → w.instr = some i → here.windowHeld o = false → o.wait = none →
        let segs := here.loadSegs i
        let rest := s.ops.filter fun x => x.id != o.id
        let bad := ((here.upsetOf noWho s.expAsid 0 (here.ownSegs segs)).map (·.cause)).or w.bad
        (∀ cause, here.far o segs true false = .performed → bad = some cause →
          let tr : Trap := { earlyTrap 11 1 0 with cause := cause }
          Untrapped { c with inflight := c.inflight.map (trapping pos 1 tr) } →
          After (.loadDataReturn k pos 1) s fun t => t = { here with ctxs := t.ctxs, ops := rest } ∧
            t.ctx k = { c with inflight := c.inflight.map (trapping pos 1 tr) } ∧ ∀ j, j ≠ k → t.ctx j = s.ctx j) ∧
        (here.far o segs true false = .performed → bad = none →
          let r := here.farTime segs false
          let u : State := { r.1 with floor := max r.1.floor r.2 }
          let d := (u.loadInto (segs.flatMap here.farBytes) i).cur
          Untrapped { d with inflight := returned pos 1 d.inflight } →
          After (.loadDataReturn k pos 1) s fun t => t = { u with ctxs := t.ctxs, ops := rest } ∧
            t.ctx k = { d with inflight := returned pos 1 d.inflight } ∧ ∀ j, j ≠ k → t.ctx j = s.ctx j) ∧
        (∀ u, here.far o segs true false = .waits u → After (.loadDataReturn k pos 1) s fun t => t = u) ∧
        (∀ cause a, here.far o segs true false = .refused cause a →
          let tr : Trap := { earlyTrap 6 1 w.raw with cause := cause, addr := a }
          Untrapped { c with inflight := c.inflight.map (trapping pos 1 tr) } →
          After (.loadDataReturn k pos 1) s fun t => t = { decided here 6 cause a with ctxs := t.ctxs, ops := rest } ∧
            t.ctx k = { c with inflight := c.inflight.map (trapping pos 1 tr) } ∧ ∀ j, j ≠ k → t.ctx j = s.ctx j)) ∧
      (∀ cause, w.bad = some cause → s.remoteLoad k pos 1 = none →
        let tr : Trap := { earlyTrap 11 1 0 with cause := cause }
        Untrapped { c with inflight := c.inflight.map (trapping pos 1 tr) } →
        After (.loadDataReturn k pos 1) s fun t => t = { here with ctxs := t.ctxs } ∧
          t.ctx k = { c with inflight := c.inflight.map (trapping pos 1 tr) } ∧ ∀ j, j ≠ k → t.ctx j = s.ctx j)) ∧
    (∀ m z, (∀ j, j < 4 → (s.ctx (4 * m + j)).state ≠ .running) → (s.ctx z).state = .ready →
      let at_ := fun (n : Nat) => 4 * m + ((s.core m).last + 1 + n) % 4
      SMap.get? s.picks m = some z ∨ ((∀ y, SMap.get? s.picks m = some y → (s.ctx y).state ≠ .ready) ∧
        ∃ x, x < 4 ∧ z = at_ x ∧ ∀ y, y < x → (s.ctx (at_ y)).state ≠ .ready) →
      After (.contextSwitch m) s fun t => t = { s with ctxs := t.ctxs } ∧
        t.ctx z = { s.ctx z with state := .running } ∧
        ∀ j, j ≠ z → t.ctx j = s.ctx j) ∧
    (∀ tr, c.inflight = [] → firstDue c.pos c.pending = some tr →
      c.state = .pageWait ∨ ((c.state = .running ∨ c.state = .blocked) ∧ c.block ≠ some .drain) →
      After (.asynchronousTrap k) s fun t => Suspended s t k tr c.pos c.pc c.pos c.pc) ∧
    (∀ tr b rest, c.inflight = b :: rest → firstDue 0 c.pending = some tr →
      c.state = .pageWait ∨ (c.state = .blocked ∧ c.block ≠ some .drain) →
      After (.asynchronousTrap k) s fun t => Suspended s t k tr b.pos b.pc b.pos b.pc) ∧
    (c.state = .blocked → c.block = some .drain → s.draining c = false →
      (∀ tr rest, c.pending = tr :: rest → After (.drainEnd k) s fun t => Suspended s t k tr c.pos c.pc c.pos c.pc) ∧
      (c.pending = [] → After (.drainEnd k) s fun t => EndsInstance (withoutMtx s c.who) t k false))
/-! ### The commit of a bundle -/

/-- A bundle that may commit: the oldest of its context, every word of it executed, in a state from which it may end or suspend
its context if it does (Table 4-3), and each of its effects possible now (R87). -/
def Sys2Proof.MayCommit (s : State) (k : Nat) (b : Bundle) : Prop :=
  (s.ctx k).inflight.head? = some b ∧ (s.ctx k).state ≠ .empty ∧ (s.ctx k).state ≠ .faulted ∧ (s.ctx k).state ≠ .saved ∧
  b.traps = [] ∧ (∀ w ∈ b.words, w.progress = .executed) ∧
  (∀ e ∈ b.effects, (e.2 = .done → (s.ctx k).state = .running) ∧
    ∀ code, e.2 = .progTrap code → (s.ctx k).state = .running ∨ (s.ctx k).state = .blocked ∨ (s.ctx k).state = .pageWait) ∧
  ∀ e ∈ b.effects, s.effectOk k e.2 = true ∧ s.effectWaits k e.2 = false

/-- The effects of a bundle have taken place, in slot order (R87). -/
def Sys2Proof.effected (s : State) (k : Nat) (b : Bundle) : State := b.effects.foldl (fun s e => s.applyEffect k b e.2) s

/-- Whether bundle n has popped an entry. -/
def Sys2Proof.poppedBy (n : Nat) (e : Entry) : Bool :=
  match e.taken with
  | some (p, _, _) => p == n
  | none => false

/-- A bundle leaves those in flight: its pops are final, the tokens it took are gone, and landings due by it stand in their
registers, which read as before from it on. -/
def Sys2Proof.Retires (s t : State) (k : Nat) (b : Bundle) : Prop :=
  let c := s.ctx k
  let d := t.ctx k
  t = { s with ctxs := t.ctxs, cores := t.cores } ∧ (∀ j, j ≠ k → t.ctx j = s.ctx j) ∧
  (∀ j, t.core j = if j = coreOf k then
      { s.core j with tokens := (s.core j).tokens.filter fun x => x.taken != some (k, b.pos) } else s.core j) ∧
  (∀ m r, b.pos ≤ m → regRead d m r = regRead c m r) ∧
  (∀ q, d.queue q = (c.queue q).filter fun e => !poppedBy b.pos e) ∧
  d = { c with
    s := d.s, i := d.i, v := d.v, a := d.a, p := d.p, slackr := d.slackr, pbk := d.pbk, badReg := d.badReg, queues := d.queues
    inflight := c.inflight.filter fun x => x.pos != b.pos
    land := c.land.filter fun l => decide (b.pos < l.pos) }

/-- A context that has executed DONE drains (R96): it is BLOCKED, and what its later bundles had done is withdrawn. -/
def Sys2Proof.Drains (s t : State) (k n pc : Nat) : Prop :=
  t.ctx k = { (s.ctx k).discard n pc with state := .blocked, reason := 6, arg := 0, block := some .drain } ∧
  (∀ j, j ≠ k → t.ctx j = s.ctx j) ∧
  t = { s with ctxs := t.ctxs, cores := t.cores, ops := t.ops, freeing := t.freeing } ∧
  t.ops = s.ops.filter fun o => !(o.who == some (s.ctx k).who && decide (n ≤ o.pos))

/-- Words whose effects can no longer take place are queued again, without those effects. -/
def Sys2Proof.again (slots : List Nat) (b : Bundle) : Bundle :=
  { b with
    effects := b.effects.filter fun e => !slots.contains e.1
    words := b.words.map fun w => if slots.contains w.slot then
      { w with progress := .queued, wait := none, refused := [] } else w }

/-- BUNDLE_COMMIT: the effects of the oldest bundle take place in slot order and it leaves those in flight; TRAP then suspends
the context to resume at the following bundle, and DONE makes it drain (R87, R96, R125, R127). That a word whose effect can no
longer take place runs again is the model's choice (log entry 15). -/
def Obligations.BundlesCommit : Prop :=
  ∀ (s : State) (k slot : Nat) (b : Bundle), MayCommit s k b →
    ((∀ e ∈ b.effects, e.2 ≠ .done ∧ ∀ code, e.2 ≠ .progTrap code) →
      Untrapped { (effected s k b).ctx k with inflight := ((effected s k b).ctx k).inflight.filter fun x => x.pos != b.pos } →
      After (.bundleCommit k) s fun t => Retires (effected s k b) t k b) ∧
    ((s.ctx k).inflight = [b] →
      (b.effects = [(slot, .done)] → After (.bundleCommit k) s fun t =>
        ∃ u, Retires s u k b ∧ Drains u t k (b.pos + 1) b.following) ∧
      (∀ code, b.effects = [(slot, .progTrap code)] → After (.bundleCommit k) s fun t =>
        ∃ u, Retires s u k b ∧
          Suspended u t k { earlyTrap 13 0 0 with code := code } b.pos b.pc (b.pos + 1) b.following)) ∧
    ∀ b' rest, (s.ctx k).inflight = b' :: rest → (s.ctx k).state = .running → b'.traps = [] →
      (∀ w ∈ b'.words, w.progress = .executed) →
      let stale := (b'.effects.filter fun e => !s.effectOk k e.2).map (·.1)
      stale ≠ [] → After (.bundleCommit k) s fun t =>
        t = { s with ctxs := t.ctxs } ∧ (∀ j, j ≠ k → t.ctx j = s.ctx j) ∧
        t.ctx k = { s.ctx k with
          inflight := (s.ctx k).inflight.map fun x => if x.pos = b'.pos then again stale x else x }

/-! ### Stores, atomics and commands at commit -/

/-- A byte of a place. -/
def Sys2Proof.byteIn (s : State) (p : Place) (a : Nat) : Byte := (s.peek p a 1).headD 0

/-- The byte that the last of some parts writes to an address of a place, if any of them does. -/
def Sys2Proof.stored (parts : List (Place × Nat × List Byte)) (p : Place) (a : Nat) : Option Byte :=
  parts.foldl (fun r x => if x.1 = p ∧ x.2.1 ≤ a ∧ a < x.2.1 + x.2.2.length then x.2.2[a - x.2.1]? else r) none

/-- Parts that lie in device memory: physical memory, a scratchpad or the scratch partition. -/
def Sys2Proof.Local (parts : List (Place × Nat × List Byte)) : Prop :=
  ∀ x ∈ parts, x.1 = .phys ∨ x.1 = .lscr ∨ ∃ j, x.1 = .scratch j

/-- One write of parts: exactly their bytes change, and besides them only what follows from a write: errors that it replaces or
that other cores' sectors bring home, tables that it takes back to DEFINED, wakes, and times. -/
def Sys2Proof.Writes (s t : State) (parts : List (Place × Nat × List Byte)) : Prop :=
  (∀ p a, (p = .phys ∨ p = .lscr ∨ ∃ j, p = .scratch j) → byteIn t p a = (stored parts p a).getD (byteIn s p a)) ∧
  (∀ j, t.core j = { s.core j with scratch := (t.core j).scratch, tokens := (t.core j).tokens }) ∧
  t = { s with
    cores := t.cores, mem := t.mem, lscr := t.lscr, upsets := t.upsets, tables := t.tables, lines := t.lines, l1 := t.l1
    floor := t.floor, freeIx := t.freeIx, lemant := { s.lemant with log := t.lemant.log } }

/-- One write of parts by a context, which changes by `f`. -/
def Sys2Proof.Stores (s t : State) (k : Nat) (parts : List (Place × Nat × List Byte)) (f : Context → Context) : Prop :=
  ∃ u, Writes s u parts ∧ t = { u with ctxs := t.ctxs } ∧ ∀ j, t.ctx j = if j = k then f (s.ctx k) else s.ctx j

/-- The pieces of a store, cut at page boundaries. -/
def Sys2Proof.paged (segs : List (Nat × List Byte)) : List (Nat × List Byte) :=
  segs.flatMap fun g => (cut (g.1, g.2.length)).map fun c => (c.1, (g.2.drop (c.1 - g.1)).take c.2)

/-- A committed store to mapped device memory is one write of its bytes, with A and D set in the leaves of its pages (on pages
that are not encrypted); one whose page awaits mapping is kept in the side log, at the context's LTIME, which rises above it,
and asks for the page; one aimed at a window leaves on its links as one access (R87, R198, R242, R249, R255, R415). -/
def Sys2Proof.CommittedStores : Prop :=
  ∀ (s : State) (k : Nat) (b : Bundle) (segs : List (Nat × List Byte)) (tile : Bool),
    let c := s.ctx k
    let die := dieOf (coreOf k)
    let ranges := segs.map fun g => (g.1, g.2.length)
    let kind := s.kindOf c.who c.asid ranges
    let pieces := paged segs
    let t := s.applyEffect k b (.store segs tile)
    (kind.device = true → (∀ p ∈ pagesOf ranges, kind = .generic → s.page c.asid die p.2 false true false ≠ .awaits) →
      let m := s.mark c.who c.asid die (pieces.map fun g => (g.1, g.2.length)) true
      let parts := pieces.flatMap fun g => m.partsOf c.who c.asid die g.1 g.2
      Local parts → c.ltime ≤ (t.ctx k).ltime ∧ Stores m t k parts fun c => { c with ltime := (t.ctx k).ltime }) ∧
    (∀ va bs, segs = [(va, bs)] → bs ≠ [] → kind = .generic → va / 65536 = (va + bs.length - 1) / 65536 →
      s.page c.asid die va false true false = .awaits →
      let m := s.needPage c.asid va true
      c.ltime < (t.ctx k).ltime ∧ t.ctx k = { m.ctx k with ltime := (t.ctx k).ltime } ∧ (∀ j, j ≠ k → t.ctx j = m.ctx j) ∧
      (∀ a, Mem.read t.mem a = Mem.read m.mem a) ∧
      ∀ j, t.core j = if j = coreOf k then
          { m.core j with log := (m.core j).log ++
            [{ who := c.who, asid := c.asid, page := va / 65536, pos := b.pos, pc := b.pc, kind := .store,
               segs := [(va % 65536, bs)], time := c.ltime }] }
        else m.core j) ∧
    ∀ g rest, segs = g :: rest → kind.device = false → t = { s with ops := t.ops, nextId := s.nextId + 1 } ∧
      t.ops.map (fun o => (o.who, o.asid, o.pos, o.tag, o.ports, o.kind)) =
        s.ops.map (fun o => (o.who, o.asid, o.pos, o.tag, o.ports, o.kind)) ++
        [(some c.who, c.asid, b.pos, none, s.portsFor g.1, .sysWrite segs)]

/-- The new value of a read-modify-write operation on n-bit words (Table 8-3); .fadd rounds to nearest. -/
def Sys2Proof.modified {n : Nat} (op : Nat) (m b : BitVec n) : BitVec n :=
  if op = 0 then m + b
  else if op = 1 then (if m.toInt ≤ b.toInt then m else b)
  else if op = 2 then (if b.toInt ≤ m.toInt then m else b)
  else if op = 3 then (if m.toNat ≤ b.toNat then m else b)
  else if op = 4 then (if b.toNat ≤ m.toNat then m else b)
  else if op = 5 then m &&& b
  else if op = 6 then m ||| b
  else if op = 7 then m ^^^ b
  else b

/-- A register result that a commit lands, unless it names s0. -/
def Sys2Proof.landing (dest : Nat) (x : Word) (pos src : Nat) (c : Context) : Context :=
  { c with land := c.land ++ if dest = 0 then [] else [{ write := .s dest x, pos := pos, src := src }] }

/-- An AMO or CAS on device memory reads its word and writes it at one point: AMO the new value, CAS the new word where the old
one is as expected; the old word, extended, lands six bundles on, and no table leaves READY (R210, R211, R212, Table 12-2). -/
def Sys2Proof.CommittedAtomics : Prop :=
  ∀ (s : State) (k : Nat) (b : Bundle) (wide : Bool) (ord va op dest : Nat) (x y : BitVec 64),
    let c := s.ctx k
    let die := dieOf (coreOf k)
    let n := if wide then 8 else 4
    let m := s.mark c.who c.asid die [(va, n)] true
    let old := leNat (s.readSeg c.who c.asid die (va, n))
    let parts := fun (new : Nat) => m.partsOf c.who c.asid die va (leBytes n new)
    let value := fun (unsigned : Bool) =>
      if wide then BitVec.ofNat 64 old
      else if unsigned then (BitVec.ofNat 32 old).setWidth 64 else (BitVec.ofNat 32 old).signExtend 64
    (s.kindOf c.who c.asid [(va, n)]).device = true →
      (let t := s.applyEffect k b (.amo op wide ord va (x.toNat % 2 ^ (8 * n)) dest)
       let new := if wide then (modified op (BitVec.ofNat 64 old) x).toNat
         else (modified op (BitVec.ofNat 32 old) (x.setWidth 32)).toNat
       op < 9 → Local (parts new) → t.tables = s.tables ∧ Stores m t k (parts new) fun c =>
         { landing dest (value (op == 3 || op == 4)) (b.pos + 6) b.pos c with ltime := (t.ctx k).ltime }) ∧
      (let t := s.applyEffect k b (.cas wide ord va (x.toNat % 2 ^ (8 * n)) (y.toNat % 2 ^ (8 * n)) dest)
       let ps := if old = x.toNat % 2 ^ (8 * n) then parts (y.toNat % 2 ^ (8 * n)) else []
       Local ps → t.tables = s.tables ∧ Stores m t k ps fun c =>
         { landing dest (value false) (b.pos + 6) b.pos c with ltime := (t.ctx k).ltime })

/-- The accesses that a committed bundle makes. -/
def Obligations.CommittedAccesses : Prop := Sys2Proof.CommittedStores ∧ Sys2Proof.CommittedAtomics

/-- An operation that a commit sends: the issuer, its address space, the bundle's position and PC, and the issuer's LTIME. -/
def Sys2Proof.sentOp (id : Nat) (c : Context) (b : Bundle) (tag : Option Nat) (kind : OpKind) : Op :=
  { id := id, who := some c.who, asid := c.asid, pos := b.pos, pc := b.pc, tag := tag, time := c.ltime, wait := none,
    denied := false, failed := false, ports := [], kind := kind }

/-- A command joins tag g of a context (R214): one more, and the tag is not SET. -/
def Sys2Proof.joins (g : Nat) (c : Context) : Context :=
  let t : TagState := { c.tag g with count := (c.tag g).count + 1, set := false }
  { c with tags := SMap.set c.tags g t }

/-- A context resumed from its trap at an address: READY in the position that the trap left, its LTIME at least the handler's,
a BRK at that place to be skipped once. -/
def Sys2Proof.resumed (f : FaultInfo) (pc time : Nat) (c : Context) : Context :=
  { c with
    state := .ready, reason := 0, arg := 0, block := none, pc := pc, pos := f.rpos, ltime := max c.ltime time, fault := none
    brkSkip := if (f.trap.cls = 14 ∧ pc = f.rpc) ∨ c.brkSkip = some (f.rpos, pc) then some (f.rpos, pc) else none }

/-- What RESUME_AT does from `u` for the FAULTED context j at a time: it resumes at bits 55 to 2 of the RPC that its record now
holds, waits as an operation for the record's page, or sets ERR where the record cannot be read (R389). -/
def Sys2Proof.ResumesFromRecord (u t : State) (j : Nat) (f : FaultInfo) (time : Nat) : Prop :=
  let c := u.ctx j
  let die := dieOf (coreOf j)
  let segs := [(c.fltp.toNat + 80, 8)]
  (u.reach c.who c.asid segs true false = .ok → u.upsetOf c.who c.asid die segs = none →
    ∃ x at_, Touches (u.mark c.who c.asid die segs false) x ∧ x.mem = (u.mark c.who c.asid die segs false).mem ∧ time ≤ at_ ∧
      t = x.setCtx j (resumed f (leNat (u.readSeg c.who c.asid die (c.fltp.toNat + 80, 8)) % 2 ^ 56 / 4 * 4) at_ c)) ∧
  (∀ e, u.reach c.who c.asid segs true false = .ok → u.upsetOf c.who c.asid die segs = some e →
    t = { u.reportUpset e with fcmd := u.fcmd ||| 8 }) ∧
  (∀ cls cause a level, u.reach c.who c.asid segs true false = .trap cls cause a level → t = { u with fcmd := u.fcmd ||| 8 }) ∧
  ∀ ps, u.reach c.who c.asid segs true false = .wait ps → t = (u.needPages c.asid ps false).opNew
    { id := 0, who := none, asid := c.asid, pos := 0, pc := 0, tag := none, time := time,
      wait := (ps.head?).map (fun p => (c.asid, p.1)), denied := false, failed := false, ports := [], kind := .resumeAt j }

/-- A command that a commit sends is in flight with the bundle's position and the context's LTIME, and joins its tag, one
command more and not SET; a COLL of a scope that holds an ended member has failed, and a copy of no bytes has ended at once. A
RED is sent with the place that its page gives it, its result awaited by nothing, or kept in the side log where its page awaits
mapping; BARR's result is awaited; TCLR clears its tags, WWATCH sets its comparator and PLAYP writes PLST; a handler's FCMD
resumes, resumes at the RPC of the record, or ends the FAULTED context that it names in its own address space, or sets ERR
where there is none (R87, R213, R214, R216, R219, R238, R255, R367, R373, R379, R389). That a handler's failed command sets the
one ERR which the host reads too is the model's choice (log entry 27), and so are the bits of RPC that RESUME_AT takes (67). -/
def Obligations.CommittedCommands : Prop :=
  ∀ (s : State) (k g : Nat) (b : Bundle) (kind : OpKind), Ordered s.ctxs →
    let c := s.ctx k
    let sent := fun (t : State) (c : Context) (tag : Option Nat) (kind : OpKind) =>
      t.ops = s.ops ++ [sentOp s.nextId c b tag kind] ∧ t.nextId = s.nextId + 1
    let alone := fun (t : State) (d : Context) => t.ctx k = d ∧ ∀ j, j ≠ k → t.ctx j = s.ctx j
    ((∀ a got result, kind ≠ .coll a got result) → s.instant k kind = false →
      (let t := s.applyEffect k b (.cmd (some g) kind)
       sent t c (some g) kind ∧ alone t (joins g c) ∧ t = { s with ctxs := t.ctxs, ops := t.ops, nextId := t.nextId }) ∧
      (let t := s.applyEffect k b (.cmd none kind)
       sent t c none kind ∧ t = { s with ops := t.ops, nextId := t.nextId })) ∧
    (∀ a l, s.launchOf c.who = some l →
      let key := c.who.inst * 3 + a.scope
      let j := SMap.getD l.colls key 0
      let t := s.applyEffect k b (.cmd (some g) (.coll a none none))
      let o := sentOp s.nextId c b (some g) (.coll { a with index := j } none none)
      let lost := (l.members a.scope (l.gidxOf c.who.inst)).any l.ended.contains
      t.ops = s.ops ++ [{ o with failed := lost }] ∧ t.nextId = s.nextId + 1 ∧ alone t (joins g c) ∧
        t.launches = SMap.set s.launches c.who.launch { l with colls := SMap.set l.colls key (j + 1) }) ∧
    (∀ dst src, c.state ≠ .empty → s.opGet s.nextId = none → s.ticketOf c.who = some k → c.who.launch < 2 ^ 64 →
      let t := s.applyEffect k b (.cmd (some g) (.cpy dst src 0 false 0))
      t.ops = s.ops ∧ alone t (told (sentOp s.nextId c b (some g) (.cpy dst src 0 false 0)) false (joins g c))) ∧
    (∀ op wide va x p a,
      let n := if wide then 8 else 4
      let m := s.mark c.who c.asid (dieOf (coreOf k)) [(va, n)] true
      let t := s.applyEffect k b (.red op wide va x)
      ¬(s.kindOf c.who c.asid [(va, n)] = .generic ∧ s.page c.asid (dieOf (coreOf k)) va false true false = .awaits) →
      m.resolve c.who c.asid (dieOf (coreOf k)) va true = some (p, a) →
      sent t c none (.red op wide p a va x) ∧ t = { m with ops := t.ops, nextId := t.nextId }) ∧
    (∀ op wide va x, s.kindOf c.who c.asid [(va, if wide then 8 else 4)] = .generic →
      s.page c.asid (dieOf (coreOf k)) va false true false = .awaits →
      let m := s.needPage c.asid va true
      let t := s.applyEffect k b (.red op wide va x)
      c.ltime < (t.ctx k).ltime ∧ t.ctx k = { m.ctx k with ltime := (t.ctx k).ltime } ∧ (∀ j, j ≠ k → t.ctx j = m.ctx j) ∧
      (∀ a, Mem.read t.mem a = Mem.read m.mem a) ∧
      ∀ j, t.core j = if j = coreOf k then
          { m.core j with log := (m.core j).log ++
            [{ who := c.who, asid := c.asid, page := va / 65536, pos := b.pos, pc := b.pc, kind := .red op wide x,
               segs := [(va % 65536, leBytes (if wide then 8 else 4) x)], time := c.ltime }] }
        else m.core j) ∧
    (∀ n group dest,
      let t := s.applyEffect k b (.barr n group dest)
      sent t c none (.barr n group dest (b.pos + 2)) ∧
        alone t { c with awaited := c.awaited ++ if dest = 0 then [] else [{ op := s.nextId, pos := b.pos + 2, src := b.pos }] }) ∧
    (∀ mask,
      let t := s.applyEffect k b (.tclr mask)
      t = { s with ctxs := t.ctxs } ∧ (∀ j, j ≠ k → t.ctx j = s.ctx j) ∧ t.ctx k = { c with tags := (t.ctx k).tags } ∧
        ∀ g, (t.ctx k).tag g = if g < 64 ∧ mask.getLsbD g then { c.tag g with set := false, err := false } else c.tag g) ∧
    (∀ n start len,
      let t := s.applyEffect k b (.wwatch n start len)
      t = { s with cores := t.cores } ∧ ∀ j, t.core j = if j = coreOf k then
          { s.core j with comps := SMap.set (s.core j).comps n (Comparator.mk c.who (decide (0 < len)) start len) }
        else s.core j) ∧
    (∀ x, s.applyEffect k b (.plst x) = s.setCtx k { c with plst := x }) ∧
    ∀ (x : Word) (f : FaultInfo),
      let j := x.toNat / 2 ^ 32 % 2 ^ 11
      let d := s.ctx j
      let u : State := { s with fcmd := if x.getLsbD 3 then s.fcmd &&& ~~~8 else s.fcmd }
      let t := s.applyEffect k b (.fcmd x)
      (d.state = .faulted → d.asid = c.asid → d.fault = some f →
        (x.toNat % 8 = 1 → t = { u with ctxs := t.ctxs } ∧ (∀ i, i ≠ j → t.ctx i = s.ctx i) ∧
          t.ctx j = { d with
            state := .ready, reason := 0, arg := 0, block := none, pc := f.rpc, pos := f.rpos, ltime := max d.ltime c.ltime
            fault := none, brkSkip := (t.ctx j).brkSkip } ∧
          (f.trap.cls = 14 → (t.ctx j).brkSkip = some (f.rpos, f.rpc))) ∧
        (x.toNat % 8 = 2 → ResumesFromRecord u t j f c.ltime) ∧
        (x.toNat % 8 = 3 → EndsInstance u t j true)) ∧
      ((d.state ≠ .faulted ∨ d.asid ≠ c.asid) → (x.toNat % 8 = 1 ∨ x.toNat % 8 = 2 ∨ x.toNat % 8 = 3) →
          t = { u with fcmd := u.fcmd ||| 8 })
/-! ### Faults and the commands that answer them -/

/-- A host-window write of the device itself that has been sent, or is held back behind a change of the host links (R410). -/
def Sys2Proof.hostSent (s : State) (off : Nat) (bs : List Byte) (after : List Who) : State :=
  let o : Op :=
    { id := s.nextId, who := none, asid := 0, pos := 0, pc := 0, tag := none, time := 0, wait := none, denied := false,
      failed := false, ports := if s.portsHeld hostBase then [] else s.portsFor hostBase, kind := .hostWrite off bs after }
  { s with ops := s.ops ++ [o], nextId := s.nextId + 1 }

/-- A host link can carry n bytes at an offset of the host window. -/
def Sys2Proof.HostReach (s : State) (off n : Nat) : Prop := s.carrier (hostBase + off) ≠ none ∧ off + n ≤ 2 ^ 48

/-- The doublewords of the fault record (Table 18-3). -/
def Sys2Proof.recordWords (k : Nat) (c : Context) (f : FaultInfo) : List Nat :=
  let tr := f.trap
  [0,
   tr.cls + 2 ^ 8 * tr.cause + 2 ^ 16 * tr.slot + (if tr.isAsync then 2 ^ 20 else 0) + 2 ^ 21 * tr.level + 2 ^ 32 * tr.code,
   f.pc, f.pos, tr.addr, tr.aux, 5 + (if c.handler then 2 ^ 3 else 0) + 2 ^ 16 * (k % 4), f.ltime,
   c.core.toNat % 2 ^ 32 + 2 ^ 32 * k, c.inst.toNat, f.rpc, 0, 0, 0, 0, 0]

/-- The two doublewords of a host notice (Table 18-6). -/
def Sys2Proof.noticeWords (seq k : Nat) (fallback : Bool) (c : Context) (f : FaultInfo) : List Nat :=
  [c.fltp.toNat,
   c.asid + 2 ^ 16 * k + 2 ^ 32 * f.trap.cls + 2 ^ 40 * f.trap.cause + (if f.norec then 2 ^ 48 else 0)
     + (if fallback then 2 ^ 49 else 0) + 2 ^ 56 * seq]

/-- A context's record has come to a stage of its delivery, with the mode in which its notice is raised. -/
def Sys2Proof.delivered (f : FaultInfo) (stage : Nat) (norec hw : Bool) (c : Context) : Context :=
  { c with fault := some { f with stage := stage, norec := norec, hw := hw, wait := none, refused := none } }

/-- The delivery of a context's record waits for the first of some pages. -/
def Sys2Proof.deliveryWaits (f : FaultInfo) (ps : List (Nat × Nat)) (c : Context) : Context :=
  { c with fault := some { f with wait := (ps.head?).map (·.1) } }

/-- The host has been told of a trap: the notice is on its way, SEQ of FTRIAGE has advanced, and the record is delivered. -/
def Sys2Proof.noticed (s : State) (k : Nat) (fallback : Bool) (c : Context) (f : FaultInfo) : State :=
  let x := s.ftriage.toNat
  let seq := x / 2 ^ 56
  let off := x / 2 ^ 12 % 2 ^ 44 * 4096 + 16 * seq
  let u := hostSent s off ((noticeWords seq k fallback c f).flatMap (leBytes 8)) []
  { u with
    ftriage := BitVec.ofNat 64 (x % 2 ^ 56 + (seq + 1) % 256 * 2 ^ 56)
    ctxs := SMap.set s.ctxs k (delivered f 2 f.norec f.hw (s.ctx k)) }

/-- FAULT_RECORD_WRITE writes the record of Table 18-3 at FLTP as one write that wakes nothing, waits for its page, or leaves
the trap without a record where its page cannot be written; NOTICE then enters the handler's task in hardware mode, or tells
the host, with FALLBACK where the handler cannot be entered: its record cannot be read, holds an error, is no well-formed
LAUNCH record or names a kernel of another address space, or the queue is not enabled with HANDLER, drains or is full. The mode
is the one in force when the notice is raised (R359, R376, R382, R387, R424). That the record is written while stores and
commands of the context that have committed may still be in flight is the model's choice (log entry 90). -/
def Obligations.FaultsAreDelivered : Prop :=
  ∀ (s : State) (k : Nat) (f : FaultInfo) (l : Launch),
    let c := s.ctx k
    let die := dieOf (coreOf k)
    let va := c.fltp.toNat
    let x := s.ftriage.toNat
    let mode := s.modesel.getLsbD 8
    let segs := [(va, 128)]
    c.fault = some f → c.state = .faulted → f.wait = none →
      (f.stage = 0 →
        (∀ m parts, s.reach c.who c.asid segs false true = .ok → m = s.mark c.who c.asid die segs true →
          parts = m.partsOf c.who c.asid die va ((recordWords k c f).flatMap (leBytes 8)) → Local parts →
          After (.faultRecordWrite k) s fun t => Stores m t k parts (delivered f 1 false mode) ∧
            ∀ j, (t.core j).tokens = (s.core j).tokens) ∧
        (∀ cls cause a level, s.reach c.who c.asid segs false true = .trap cls cause a level →
          After (.faultRecordWrite k) s fun t => t = s.setCtx k (delivered f 1 true mode c)) ∧
        (∀ ps, s.reach c.who c.asid segs false true = .wait ps →
          (f.refuses ps = false → After (.faultRecordWrite k) s fun t =>
            let u := s.needPages c.asid ps true
            t = u.setCtx k (deliveryWaits f ps c)) ∧
          (f.refuses ps = true → After (.faultRecordWrite k) s fun t => t = s.setCtx k (delivered f 1 true mode c)))) ∧
      (f.stage = 1 → s.launchOf c.who = some l →
        let rec_ := (recFaultB l.task.record + 2 ^ 64 - 64) % 2 ^ 64
        let segs := [(rec_, 64)]
        let record := leNat (s.readSeg c.who c.asid die (rec_, 64))
        let q := x % 2 ^ 6
        let barred := taskReason record ≠ none ∨ (s.queue q).handler = false ∨ (s.queue q).state ≠ .enabled ∨
          (s.queue q).drain = true ∨ 256 ≤ (s.queue q).waiting ∨
          ∃ x, SMap.get? s.kernels (recKernel record) = some x ∧ x.asid ≠ c.asid
        let host := HostReach s (x / 2 ^ 12 % 2 ^ 44 * 4096 + 16 * (x / 2 ^ 56)) 16
        (f.norec = true ∨ c.handler = true ∨ f.hw = false → host →
          After (.notice k) s fun t => t = noticed s k false c f) ∧
        (f.norec = false → c.handler = false → f.hw = true →
          (∀ cls cause a level, s.reach c.who c.asid segs true false = .trap cls cause a level → host →
            After (.notice k) s fun t => t = noticed s k true c f) ∧
          (∀ ps, s.reach c.who c.asid segs true false = .wait ps →
            (f.refuses ps = false → After (.notice k) s fun t =>
              let u := s.needPages c.asid ps false
              t = u.setCtx k (deliveryWaits f ps c)) ∧
            (f.refuses ps = true → host → After (.notice k) s fun t => t = noticed s k true c f)) ∧
          (∀ e, s.reach c.who c.asid segs true false = .ok → s.upsetOf c.who c.asid die segs = some e → host →
            After (.notice k) s fun t => t = noticed (s.reportUpset e) k true c f) ∧
          (s.reach c.who c.asid segs true false = .ok → s.upsetOf c.who c.asid die segs = none → barred → host →
            After (.notice k) s fun t => ∃ m, Touches (s.mark c.who c.asid die segs false) m ∧
              m.mem = (s.mark c.who c.asid die segs false).mem ∧ t = noticed m k true c f) ∧
          (s.reach c.who c.asid segs true false = .ok → s.upsetOf c.who c.asid die segs = none → ¬ barred →
            After (.notice k) s fun t => t.ctx k = delivered f 2 false true c ∧
              (∀ j, j ≠ k → t.ctx j = s.ctx j) ∧ t.nextId = s.nextId + 1 ∧
              ∃ task : Task, task.id = s.nextId ∧ task.record = recSet record 1 va ∧ task.asid = some c.asid ∧
                f.ltime ≤ task.time ∧ t.queue q = (s.queue q).enter task ∧
                ∀ j, j ≠ q → t.queue j = s.queue j)))

/-- The device after a write of register FCMD: ASID, TICKET and CMD are written, and a one clears ERR (Table 18-7). -/
def Sys2Proof.commanded (s : State) (v : Word) : State :=
  { s with fcmd := (v &&& 0xFFFF07FF00000007) ||| (s.fcmd &&& ~~~v &&& 8) }

/-- RESUME makes a FAULTED context READY where its trap left it, RESUME_AT at the RPC that its record now holds, and TERMINATE
ends its instance; a command that finds no FAULTED context with that ticket in that address space sets ERR (R388, R389). That
RESUME_AT takes bits 55 to 2 of RPC is the model's choice (log entry 67). -/
def Obligations.FaultCommands : Prop :=
  ∀ (s : State) (v : Word) (k : Nat) (f : FaultInfo),
    let asid := v.toNat / 2 ^ 48
    let u := commanded s v
    let c := s.ctx k
    k = v.toNat / 2 ^ 32 % 2 ^ 11 →
      (v.toNat % 8 = 1 →
        (c.state = .faulted → c.asid = asid → c.fault = some f →
          After (.resume v) s fun t => t = u.setCtx k (resumed f f.rpc 0 c)) ∧
        (c.state ≠ .faulted ∨ c.asid ≠ asid → After (.resume v) s fun t => t = { u with fcmd := u.fcmd ||| 8 })) ∧
      (v.toNat % 8 = 2 →
        (c.state = .faulted → c.asid = asid → c.fault = some f →
          After (.resumeAt v) s fun t => ResumesFromRecord u t k f 0) ∧
        (c.state ≠ .faulted ∨ c.asid ≠ asid → After (.resumeAt v) s fun t => t = { u with fcmd := u.fcmd ||| 8 })) ∧
      (v.toNat % 8 = 3 →
        (c.state = .faulted → c.asid = asid → c.fault = some f → After (.terminate v) s fun t => EndsInstance u t k true) ∧
        (c.state ≠ .faulted ∨ c.asid ≠ asid → After (.terminate v) s fun t => t = { u with fcmd := u.fcmd ||| 8 }))
/-! ### Pages, the pool and the answers of the host -/

/-- Every outstanding service request has been sent: none waits for room in its ring. -/
def Sys2Proof.AllSent (s : State) : Prop := ∀ v ∈ s.services, v.seq.isSome ∨ v.answer.isSome

/-- A context in PAGE-WAIT that waits for page p alone of its address space, or for nothing any more. -/
def Sys2Proof.WaitsFor (p : Nat) (c : Context) : Prop :=
  c.state = .pageWait ∧ c.fault = none ∧ (c.fetchWait = none ∨ c.fetchWait = some p) ∧
  ∀ b ∈ c.inflight, ∀ w ∈ b.words, w.wait = none ∨ ∃ cls va, w.wait = some (.page cls [(p, va)])

/-- A context outside PAGE-WAIT of which nothing waits for a page or for room in the log. -/
def Sys2Proof.Calm (c : Context) : Prop :=
  c.state ≠ .pageWait ∧ c.fetchWait = none ∧ (∀ f, c.fault = some f → f.wait = none) ∧
  ∀ b ∈ c.inflight, ∀ w ∈ b.words, w.wait = none

/-- It goes on (Table 4-3): READY, and its words wait no more. -/
def Sys2Proof.goesOn (c : Context) : Context :=
  { c with
    state := .ready, reason := 0, arg := 0, block := none, fetchWait := none
    inflight := c.inflight.map fun b => { b with words := b.words.map fun w => { w with wait := none } } }

/-- Whether an operation is a play parked at a page (R286). -/
def Sys2Proof.parked (o : Op) : Bool :=
  match o.kind with
  | .play .parked .. => true
  | _ => false

/-- Page p of an address space has become visible: what waited for it goes on (Table 10-5); of the operations, plays parked
there apart. -/
def Sys2Proof.PageOpens (s t : State) (asid p : Nat) : Prop :=
  (∀ j, Calm (s.ctx j) → t.ctx j = s.ctx j) ∧
  (∀ j, (s.ctx j).asid = asid → WaitsFor p (s.ctx j) → t.ctx j = goesOn (s.ctx j)) ∧
  ((∀ o ∈ s.ops, parked o = false) →
    t.ops = s.ops.map fun o => if o.wait = some (asid, p) then { o with wait := none } else o) ∧
  t.cores = s.cores ∧ t.launches = s.launches ∧ t.queues = s.queues ∧ t.sets = s.sets ∧ t.tables = s.tables

/-- Whether an entry of a side log is a write to one of n pages from p of an address space. -/
def Sys2Proof.loggedAt (asid p n : Nat) (e : LogEntry) : Bool := decide (e.asid = asid ∧ p ≤ e.page ∧ e.page < p + n)

/-- SERVICE_COMPLETION: a page whose service has brought its leaf leaves FAULTING, and what waited for it goes on; the fetch of
a page that cannot be served is a FETCH_FAULT with cause PAGE, a word that waits for it LOAD_FAULT or TILE_FAULT of that cause,
and an operation that waits for it is refused that page. The side logs' entries of the page leave them, and are written into it
by logical time, then core, then log order, or are each dropped: LOST for the instance that wrote it, or an event where it has
ended (R254, R257). DIE_ACKNOWLEDGE: each die's acknowledgement of a collapse is noted, and after the fourth the leaf maps the
primary (R254, R256, R445, Table 10-5). -/
def Obligations.PagesAreServed : Prop :=
  ∀ (s : State) (id : Nat) (v : Service) (reason arg : Nat),
    let p := v.addr / 65536
    (s.serviceGet id = some v → v.func = 0 → AllSent s → v.asid < 2 ^ 16 →
      s.faulting.filter (fun f => f.asid == v.asid && f.page == p) = [{ asid := v.asid, page := p, stage := 0 }] →
      s.logged v.asid p 1 = 0 →
      (∀ pte addr, v.answer = some (0, reason, arg) → s.walk v.asid v.addr = .leaf pte 4 addr →
        After (.serviceCompletion id true) s fun t => PageOpens s t v.asid p ∧ t.mem = s.mem ∧
          t.services = s.services.filter (fun x => x.id != id) ∧
          t.faulting = s.faulting.filter fun f => !(f.asid == v.asid && f.page == p)) ∧
      (∀ k, v.answer = some (1, reason, arg) → (s.ctx k).asid = v.asid → (s.ctx k).state = .pageWait →
        (s.ctx k).fetchWait = some p → (s.ctx k).inflight = [] → (s.ctx k).fault = none →
        firstDue (s.ctx k).pos (s.ctx k).pending = none →
        (∀ e ∈ s.ctxs, e.1 = k ∨ (Calm e.2 ∧ e.2.asid ≠ v.asid)) → Ordered s.ctxs →
        After (.serviceCompletion id false) s fun t =>
          (∃ u, Suspended u t k { earlyTrap 5 8 (s.fetchAux k p) with cause := 4, addr := p * 65536 } (s.ctx k).pos (s.ctx k).pc
              (s.ctx k).pos (s.ctx k).pc ∧ u.ctxs = s.ctxs ∧ u.mem = s.mem ∧
            u.ops = s.ops.map fun o => if o.wait = some (v.asid, p) then
              { o with wait := none, denied := true, refused := o.refused ++ [p] } else o) ∧
          t.faulting = s.faulting.filter fun f => !(f.asid == v.asid && f.page == p)) ∧
      (∀ k b w cls va, v.answer = some (1, reason, arg) → (s.ctx k).asid = v.asid → (s.ctx k).state = .pageWait →
        (s.ctx k).fetchWait = none → (s.ctx k).inflight = [b] → (s.ctx k).fault = none → firstDue 0 (s.ctx k).pending = none →
        b.traps = [] → w ∈ b.words → w.wait = some (.page cls [(p, va)]) →
        (∀ x ∈ b.words, x = w ∨ (x.slot ≠ w.slot ∧ x.progress = .executed ∧ x.wait = none)) →
        (∀ e ∈ s.ctxs, e.1 = k ∨ (Calm e.2 ∧ e.2.asid ≠ v.asid)) → Ordered s.ctxs →
        let tr : Trap :=
          { cls := cls, cause := 4, slot := w.slot, addr := va, aux := w.raw, level := 0, code := 0, isAsync := false
            due := 0 }
        After (.serviceCompletion id false) s fun t =>
          (∃ u, Suspended u t k tr b.pos b.pc b.pos b.pc ∧ u.mem = s.mem ∧
            u.ctxs = SMap.set s.ctxs k { s.ctx k with inflight := [trapping b.pos w.slot tr b] }) ∧
          t.faulting = s.faulting.filter fun f => !(f.asid == v.asid && f.page == p))) ∧
    (∀ asid p n drop,
      let logged := s.cores.flatMap fun k => (k.2.log.filter (loggedAt asid p n)).map fun e => (k.1, e)
      let u : State := { s with
        cores := s.cores.map fun k => (k.1, { k.2 with log := k.2.log.filter fun e => !loggedAt asid p n e }) }
      ∃ L : List (Nat × LogEntry), L.Pairwise (fun x y => x.2.time ≤ y.2.time) ∧
        (∀ time, L.filter (fun x => x.2.time == time) = logged.filter fun x => x.2.time == time) ∧
        let t := L.foldl (fun s e => s.replayOne e.1 e.2 drop) u
        s.replay asid p n drop = { t with ctxs := t.ctxs.map fun e => (e.1, (t.logServed e.1 e.2).endWait) }) ∧
    (∀ k e pa pte level addr, s.page e.asid 0 (e.page * 65536) false true false = .ok pa pte level addr →
      let m := (s.reportWalk e.asid (e.page * 65536)).orPte addr 0x30
      let place := m.leafPlace e.asid pte
      (∀ parts, e.kind = .store → parts = (e.segs.map fun g => (place, pa + g.1, g.2)) → Local parts →
        Writes m (s.replayOne k e false) parts) ∧
      (∀ op wide operand off bs segs n parts, e.kind = .red op wide operand → e.segs = (off, bs) :: segs →
        n = (if wide then 8 else 4) → m.upsetIn place (pa + off) n = none →
        parts = [(place, pa + off, leBytes n (amoValue op (8 * n) (leNat (m.peek place (pa + off) n)) operand))] → Local parts →
        ∃ u time, Writes m u parts ∧
          s.replayOne k e false = u.modWho e.who fun c => { c with redTime := max c.redTime time }) ∧
      (∀ off bs segs, e.segs = (off, bs) :: segs →
        let dropped := s.replayOne k e true
        ((s.whoCtx e.who).isSome = true →
          dropped = s.modWho e.who fun c => { c with pending := c.pending ++ [asyncTrap 6 5 (e.page * 65536 + off) e.pc 0] }) ∧
        (s.whoCtx e.who = none → dropped = s.report 9 k 0 [e.page * 65536 + off, e.asid]))) ∧
    (∀ asid page die c, s.collapsing.find? (fun c => c.asid == asid && c.page == page) = some c → c.stage = 0 → die < 4 →
      die ∉ c.acks →
      (c.acks.length < 3 → After (.dieAcknowledge asid page die) s fun t => t = { s with
        collapsing := s.collapsing.map fun x =>
          if x.asid = asid ∧ x.page = page then { c with acks := die :: c.acks } else x }) ∧
      (c.acks.length = 3 → s.modesel.getLsbD 2 = true → c.count = 1 → s.logged asid page 1 = 0 →
        After (.dieAcknowledge asid page die) s fun t => PageOpens s t asid page ∧
          t.collapsing = s.collapsing.filter (fun x => !(x.asid == asid && x.page == page)) ∧
          (Mem.le t.mem c.pte 8).testBit 8 = false ∧
          (∀ j, j ≠ 8 → (Mem.le t.mem c.pte 8).testBit j = (Mem.le s.mem c.pte 8).testBit j) ∧
          ∀ a, (a < c.pte ∨ c.pte + 8 ≤ a) → Mem.read t.mem a = Mem.read s.mem a) ∧
      (c.acks.length = 3 → s.modesel.getLsbD 2 = false → s.svcr = 0 → s.unanswered false 0 < 256 →
        HostReach s (32 * (s.svcCount % 256)) 32 →
        After (.dieAcknowledge asid page die) s fun t => t.mem = s.mem ∧ t.svcCount = (s.svcCount + 1) % 2 ^ 32 ∧
          t.ops.length = s.ops.length + 1))

/-- The pool whose descriptor stands at an address for an operation, when everything it reads there and in a slot's record is
mapped and sound, outside TRIP. -/
def Sys2Proof.PoolAt (s : State) (o : Op) (w : Who) (desc slot : Nat) (p : Pool) : Prop :=
  o.wait = none ∧ o.denied = false ∧ s.upsets = [] ∧ s.lemant.power ≠ .trip ∧ s.reach w o.asid [(desc, 64)] true false = .ok ∧
  Pool.ofBytes desc (s.fetch w o.asid desc 64) = some p ∧ s.reach w o.asid [(p.record slot, 64)] true false = .ok

/-- The operation has read the descriptor and the record: the device and the time thereafter. -/
def Sys2Proof.poolRead (s : State) (o : Op) (w : Who) (desc slot : Nat) (p : Pool) : State × Nat :=
  s.fetchTime w o.asid o.time [(desc, 64), (p.record slot, 64)]

/-- The freeing mark that an operation's bundle made is withdrawn (R261). -/
def Sys2Proof.unmarked (s : State) (o : Op) : State :=
  { s with freeing := s.freeing.filter fun f => !(o.who == some f.2.1 && f.2.2 == o.pos) }

/-- The bitmap bit of a slot is written, at bit slot / 256 of the bitmap of its pseudo-channel (R258). -/
def Sys2Proof.slotBit (s : State) (w : Who) (asid time : Nat) (p : Pool) (slot : Nat) (free : Bool) : State × Nat :=
  let at_ := p.bmap + slot % 256 * (p.npage / 2048) + slot / 256 / 8
  let x := leNat (s.fetch w asid at_ 1)
  let j := slot / 256 % 8
  s.devKeep w asid time at_ (leBytes 1 (if free = x.testBit j then x else if free then x + 2 ^ j else x - 2 ^ j))

/-- PALLOC of a slot, or of none, of a pool that it has read with the cursor c and the bitmaps of the channels it has tried: the
cursor rises by one, the slot's bit clears, FREE falls by one, the leaf becomes V, R and W with A and D clear, and the record
ALLOC with SURV all ones, RREF 0, SEALED 0 and CKERR 0 (R260). -/
def Sys2Proof.allocates (s : State) (w : Who) (asid cursor time : Nat) (p : Pool) (c : Nat) (tried : List Nat) (slot : Option Nat) :
    State × Nat × Nat :=
  let die := s.dieOfWho w
  let r := s.fetchTime w asid time
    (((p.desc, 64) :: (cursor, 1) :: tried.map fun ch => (p.bmap + ch * (p.npage / 2048), p.npage / 2048)) ++
      slot.toList.map fun k => (p.records + 64 * k, 64))
  let v := (r.1.mark w asid die [(cursor, 1)] true).accessTime none w asid die r.2 [(cursor, 1)] true
  let v1 := v.1.put (v.1.partsOf w asid die cursor (leBytes 1 (c + 1)))
  match slot with
  | none => (v1.requestRefill asid p.desc p.free, 0, v.2)
  | some k =>
    let a := slotBit v1 w asid v.2 p k false
    let d := a.1.devPut w asid a.2 (p.desc + 36) (leBytes 4 (p.free - 1))
    let e := d.1.setPte asid (p.base + 65536 * k) 0x30 0x207
    let x := leNat (e.fetch w asid (p.records + 64 * k) 64)
    let f := e.devKeep w asid d.2 (p.records + 64 * k) (leBytes 64 (x / 2 ^ 320 * 2 ^ 320 + x / 2 ^ 314 % 2 ^ 6 * 2 ^ 314 +
      x / 2 ^ 289 % 2 ^ 7 * 2 ^ 289 + 2 ^ 288 + x / 2 ^ 256 % 2 ^ 32 * 2 ^ 256 + (2 ^ 256 - 1)))
    (if p.free - 1 < p.low then f.1.requestRefill asid p.desc (p.free - 1) else f.1, p.base + 65536 * k, f.2)

/-- PALLOC takes the lowest free slot of the first pseudo-channel from its cursor on that has one, or none, asks for a refill
where none is outstanding and FREE is below LOW or no slot is free, and its page address lands two bundles on. PFREE's
sub-operation makes the leaf FREE, sets the bitmap bit, clears ALLOC, raises FREE by one and withdraws the mark;
PSEAL's writes the checksum of the page's bytes and SEALED; PATTR's gives the leaf its BANK where it differs; a refill gives
the lowest unpopulated slot a frame of its pseudo-channel and makes it FREE; the scrubber marks a sealed page whose checksum
differs. Setting bits of a leaf changes no others (R258 to R264). That a PATTR fails whose page has become replicated since it
executed is the model's choice (log entry 98). -/
def Obligations.PoolOperations : Prop :=
  ∀ (s : State) (id : Nat) (o : Op) (w : Who) (page desc slot : Nat) (p : Pool), InFlight s id o w →
    (o.kind = .pfree desc page slot → PoolAt s o w desc slot p →
      let r := poolRead s o w desc slot p
      let frame := ((r.1.pteAddr o.asid page).map fun a => pteFrame (Mem.le r.1.mem a 8)).getD 0
      let u := ((r.1.evictFrames frame 1).undefineTables o.asid (page / 65536) 1).setPte o.asid page 1 0x200
      let a := slotBit u w o.asid r.2 p slot true
      let x := leNat (a.1.fetch w o.asid (p.record slot) 64)
      let b := a.1.devKeep w o.asid a.2 (p.record slot) (leBytes 64 (x / 2 ^ 289 * 2 ^ 289 + x % 2 ^ 288))
      let d := b.1.devPut w o.asid b.2 (desc + 36) (leBytes 4 (p.free + 1))
      r.1.reach w o.asid [(p.bitAt slot, 1)] true false = .ok →
      EndsAfter (.pfreeSuboperation id) s (unmarked d.1 o) { o with time := d.2 } w false fun c => c) ∧
    (o.kind = .pseal desc page slot → PoolAt s o w desc slot p →
      let r := poolRead s o w desc slot p
      let check := kvChecksum (r.1.fetch w o.asid page 65536)
      let x := leNat (r.1.fetch w o.asid (p.record slot) 64)
      let u := r.1.fetchTime w o.asid r.2 [(page, 65536)]
      let d := u.1.devKeep w o.asid u.2 (p.record slot)
        (leBytes 64 (Nat.lor (x / 2 ^ 288 * 2 ^ 288 + check * 2 ^ 256 + x % 2 ^ 256) (2 ^ 312)))
      r.1.reach w o.asid [(page, 65536)] true false = .ok →
      EndsAfter (.psealSuboperation id) s (unmarked d.1 o) { o with time := d.2 } w false fun c => c) ∧
    (∀ va bank pa e level addr, o.kind = .pattr va bank → o.wait = none → o.denied = false → s.lemant.power ≠ .trip →
      s.page o.asid 0 va false false false = .ok pa e level addr →
      (pteBank e = bank → EndsAfter (.pattrSuboperation id) s s o w false fun c => c) ∧
      (pteBank e ≠ bank → bank = true ∧ (pteRepl e = true ∨ pteKv e = true ∨ (s.collapseOf o.asid va).isSome = true) →
        EndsAfter (.pattrSuboperation id) s s o w true fun c => c) ∧
      (pteBank e ≠ bank → ¬(bank = true ∧ (pteRepl e = true ∨ pteKv e = true ∨ (s.collapseOf o.asid va).isSome = true)) →
        let size := leafSize level / 65536
        let first := va / leafSize level * size
        let u := (s.evictFrames (pteFrame e) size).undefineTables o.asid first size
        let v := if bank then u else u.leaveBank o.asid first size
        EndsAfter (.pattrSuboperation id) s
          { v with mem := Mem.write v.mem addr (leBytes 8 (e / 128 * 128 + (if bank then 64 else 0) + e % 64)) }
          o w false fun c => c)) ∧
    (∀ asid frame k (tested : List Nat), (∃ v ∈ s.services, v.func = 3 ∧ v.asid = asid ∧ v.addr = desc) → s.upsets = [] →
      s.reach noWho asid [(desc, 64)] true false = .ok →
      Pool.ofBytes desc (s.fetch noWho asid desc 64) = some p → p.free < p.low → k < p.npage → frame % 256 = k % 256 →
      let open_ := fun j => (∃ a, s.pteAddr asid (p.page j) = some a ∧ pteV (Mem.le s.mem a 8) = false ∧
        pteKv (Mem.le s.mem a 8) = false) ∧ (∀ f ∈ s.faulting, ¬(f.asid = asid ∧ f.page = p.page j / 65536)) ∧
        s.reach noWho asid [(p.record j, 64)] true false = .ok
      let unpopulated := fun j => open_ j ∧ recordAlloc (leNat (s.fetch noWho asid (p.record j) 64)) = false
      tested.Pairwise (· < ·) → (∀ j, j ∈ tested ↔ j ≤ k ∧ open_ j) →
      unpopulated k → (∀ j, j < k → ¬unpopulated j) → s.reach noWho asid [(p.bitAt k, 1)] true false = .ok →
      let r := s.fetchTime noWho asid s.floor ((desc, 64) :: tested.map fun j => (p.record j, 64))
      let a := slotBit (r.1.setPte asid (p.page k) (2 ^ 52 - 1) (0x200 + frame % 2 ^ 36 * 2 ^ 16)) noWho asid r.2 p k true
      let d := a.1.devPut noWho asid a.2 (desc + 36) (leBytes 4 (p.free + 1))
      After (.kvPoolRefill asid desc frame) s fun t => t = { d.1 with floor := max d.1.floor d.2 }) ∧
    (∀ asid, s.reach noWho asid [(desc, 64)] true false = .ok → Pool.ofBytes desc (s.fetch noWho asid desc 64) = some p →
      slot < p.npage → s.reach noWho asid [(p.record slot, 64)] true false = .ok →
      (s.resolve noWho asid 0 (p.page slot) false).isSome = true → s.modesel.getLsbD 9 = true → s.upsets = [] →
      let r := s.fetchTime noWho asid s.floor [(desc, 64), (p.record slot, 64)]
      let u : State := { r.1 with floor := max r.1.floor r.2 }
      let x := leNat (u.fetch noWho asid (p.record slot) 64)
      let q := u.fetchTime noWho asid u.floor [(p.page slot, 65536)]
      (x / 2 ^ 312 % 2 = 0 → After (.scrub asid desc slot) s fun t => t = u) ∧
      (x / 2 ^ 312 % 2 = 1 → kvChecksum (u.fetch noWho asid (p.page slot) 65536) = x / 2 ^ 256 % 2 ^ 32 →
        After (.scrub asid desc slot) s fun t => t = { q.1 with floor := max q.1.floor q.2 }) ∧
      (∀ place pa, x / 2 ^ 312 % 2 = 1 → kvChecksum (u.fetch noWho asid (p.page slot) 65536) ≠ x / 2 ^ 256 % 2 ^ 32 →
        u.resolve noWho asid 0 (p.page slot) false = some (place, pa) →
        let d := q.1.devPut noWho asid q.2 (p.record slot) (leBytes 64 (Nat.lor x (2 ^ 313)))
        After (.scrub asid desc slot) s fun t =>
          t = ({ d.1 with floor := max d.1.floor d.2 } : State).report 2 (pa / 2 ^ 21 % 8) pa [])) ∧
    (∀ asid va addr off on, s.pteAddr asid va = some addr → on < 2 ^ 64 →
      let t := s.setPte asid va off on
      (∀ j, (Mem.le t.mem addr 8).testBit j = (on.testBit j || ((Mem.le s.mem addr 8).testBit j && !off.testBit j))) ∧
      (∀ a, (a < addr ∨ addr + 8 ≤ a) → Mem.read t.mem a = Mem.read s.mem a) ∧ t = { s with mem := t.mem }) ∧
    (∀ asid cursor time, s.upsets = [] → Pool.ofBytes desc (s.fetch w asid desc 64) = some p →
      let c := leNat (s.fetch w asid cursor 1)
      let ch := fun j => (c + j) % 256
      let map := fun j => leNat (s.fetch w asid (p.bmap + ch j * (p.npage / 2048)) (p.npage / 2048))
      (∀ j n, j < 256 → (∀ i, i < j → map i = 0) → (map j).testBit n = true → (∀ i, i < n → (map j).testBit i = false) →
        s.palloc w asid desc cursor time =
          allocates s w asid cursor time p c ((List.range (j + 1)).map ch) (some (256 * n + ch j))) ∧
      ((∀ j, j < 256 → map j = 0) →
        s.palloc w asid desc cursor time = allocates s w asid cursor time p c ((List.range 256).map ch) none)) ∧
    ∀ k b cursor dest,
      let r := s.palloc (s.ctx k).who (s.ctx k).asid desc cursor (s.ctx k).ltime
      let d := r.1.ctx k
      (s.applyEffect k b (.palloc desc cursor dest)).ctx k =
        landing dest (BitVec.ofNat 64 r.2.1) (b.pos + 2) b.pos { d with ltime := max d.ltime r.2.2 }

/-- A command that a change of n pages from p reaches before it has come into effect: a TBLDEF with an instance there and an
RSET with a spill page there will fail (R295, R310). -/
def Sys2Proof.changedAt (p n : Nat) (kind : OpKind) : OpKind :=
  let among := fun base pages => (List.range pages).any fun j =>
    decide (p ≤ base / 65536 + j) && decide (base / 65536 + j < p + n)
  match kind with
  | .tbldef desc base logn copies wide changed => .tbldef desc base logn copies wide (changed || among base (copies + 1))
  | .rset d changed => .rset d (changed || among d.spill d.spages)
  | kind => kind

/-- The same of the commands that a bundle will send when it commits. -/
def Sys2Proof.changedIn (p n : Nat) (b : Bundle) : Bundle :=
  { b with effects := b.effects.map fun e => match e.2 with
    | .cmd tag kind => (e.1, .cmd tag (changedAt p n kind))
    | _ => e }

/-- The registers that an answer or a write of the host changes: SVCDONE passes its verdict on to the request of its SEQ,
MODESEL takes bit 6 only while every queue with a fixture list is DISABLED, ASTB and LSCR change only while every context is
EMPTY, UNMAP starts on a leaf of the size it names, and at its end the leaf is invalid, the tables with an instance there are
UNDEFINED, and the definitions of tables and sets under way there will fail (R226, R244, R338, R424, R425, Tables 9-2, 12-2,
14-11, 21-7, 21-8). That all generic lines leave when the partition takes more ways is the model's choice (log entry 82). -/
def Sys2Proof.HostRegisters : Prop :=
  ∀ (s : State) (v : Word),
    let verdict := if v.toNat % 256 = 0 then 0 else 1
    let answered : State := { s with svcdone := (v &&& 0xFFFFFFFFFFFFFF00) ||| BitVec.ofNat 64 verdict }
    (∀ r, s.asked (v.toNat / 2 ^ 32) = some r → r.func = 0 ∨ r.func = 5 →
      After (.svcdone v) s fun t => t = { answered with
        services := s.services.map fun x => if x.id = r.id then
          { x with answer := some (verdict, v.toNat / 2 ^ 8 % 2 ^ 8, v.toNat / 2 ^ 16 % 2 ^ 16) } else x }) ∧
    (∀ r, s.asked (v.toNat / 2 ^ 32) = some r → r.func = 3 → AllSent s →
      After (.svcdone v) s fun t => t = { answered with services := s.services.filter fun x => x.id != r.id }) ∧
    (s.asked (v.toNat / 2 ^ 32) = none → After (.svcdone v) s fun t => t = answered) ∧
    After (.modesel v) s (fun t => t = { s with
      modesel := if ∀ e ∈ s.queues, e.2.fix = 0 ∨ e.2.state = .disabled then v &&& 0x3FF
        else (v &&& 0x3BF) ||| (s.modesel &&& 0x40) }) ∧
    After (.astb v) s (fun t => t = if s.allEmpty then { s with astb := v &&& 0xFFFFFFFE00001 } else s) ∧
    After (.lscr v) s (fun t =>
      if s.allEmpty then
        let ways := min 8 (v.toNat % 16)
        let old := s.lscrReg.toNat % 16
        let same := v.toNat / 2 ^ 48 = s.lscrReg.toNat / 2 ^ 48 ∧ ways = old
        let u : State := { s with
          lscrReg := (v &&& 0xFFFF000000000000) ||| BitVec.ofNat 64 ways ||| (s.lscrReg &&& ~~~v &&& 16)
          lscr := if same then s.lscr else []
          upsets := if same then s.upsets else s.upsets.filter fun u => u.place != .lscr }
        t = if ways ≤ old then u else (u.lines.map (·.1)).foldl State.evict u
      else t = { s with lscrReg := s.lscrReg ||| 16 }) ∧
    (s.unmap.getLsbD 2 = false → After (.unmap v) s fun t =>
        t = { s.reportWalk (v.toNat / 2 ^ 48) (v.toNat / 2 ^ 8 % 2 ^ 40 * 65536) with
      unmap := (v &&& 0xFFFFFFFFFFFFFF03) ||| (if (s.unmapLeaf v.toNat).isSome then (s.unmap &&& ~~~v &&& 8) ||| 4 else 8) }) ∧
    (s.unmap.getLsbD 2 = true → After (.unmap v) s fun t => t = { s with unmap := s.unmap ||| 8 }) ∧
    (∀ e level addr, s.unmap.getLsbD 2 = true → s.unmapLeaf s.unmap.toNat = some (e, level, addr) → e < 2 ^ 64 →
      let asid := s.unmap.toNat / 2 ^ 48
      let va := s.unmap.toNat / 2 ^ 8 % 2 ^ 40 * 65536
      let size := leafSize level / 65536
      let first := va / leafSize level * size
      (∀ f ∈ s.faulting, ¬(f.asid = asid ∧ first ≤ f.page ∧ f.page < first + size)) →
      (∀ c ∈ s.collapsing, ¬(c.asid = asid ∧ c.page < first + size ∧ first < c.page + c.count)) →
      After .unmapDone s fun t =>
        t = { s with
          mem := Mem.write s.mem addr (leBytes 8 (e / 1024 * 1024 + e % 512 / 2 * 2)), unmap := s.unmap &&& ~~~4
          tables := t.tables, ops := t.ops, ctxs := t.ctxs, lines := t.lines, floors := t.floors, l1 := t.l1
          lemant := { s.lemant with log := t.lemant.log }, freeIx := t.freeIx } ∧
        t.tables = s.tables.filter (fun x => !(x.asid == asid && (List.range x.frames.length).any fun j =>
          decide (first ≤ x.base / 65536 + j) && decide (x.base / 65536 + j < first + size))) ∧
        (∀ l, 256 * pteFrame e ≤ l → l < 256 * (pteFrame e + size) → SMap.get? t.lines l = none ∧
          ∀ key x, (key, x) ∈ t.l1 → x.owned = true → key % 2 ^ 46 / 4 ≠ l) ∧
        t.ops = (s.ops.map fun o => if o.asid = asid then { o with kind := changedAt first size o.kind } else o) ∧
        t.ctxs = s.ctxs.map fun e => if e.2.asid = asid then
          (e.1, { e.2 with inflight := e.2.inflight.map (changedIn first size) }) else e)
/-! ### Copies, reductions and plays -/

/-- The bytes of piece j of a copy, as first offset and length (R220). -/
def Sys2Proof.pieceOf (dst len j : Nat) : Nat × Nat :=
  let b := 256 * (dst / 256) + 256 * j
  (max dst b - dst, min (dst + len) (b + 256) - max dst b)

/-- An event whose next state is exact. -/
def Sys2Proof.Answers (i : Instr) (s t : State) : Prop := exec i s = .next t

/-- CPY_ACCEPTANCE sets A and D in the leaves of the destination and A in those of the source; CPY_PIECE copies the bytes of
the next piece, as one read and one write, and the last one ends the copy (taken in increasing order, R221, and performed as
they are taken: log entry 124); RED_APPLICATION replaces the word at its place by the new value, together with a RED merged
into it, and ends them (R213, R220, R221, R238). -/
def Obligations.CopiesAndReductions : Prop :=
  ∀ (s : State) (id dst src len : Nat) (o : Op) (w : Who), InFlight s id o w →
    (o.kind = .cpy dst src len false 0 → s.lemant.power ≠ .trip →
      let m := (s.markRange o.asid dst len true).markRange o.asid src len false
      Answers (.cpyAcceptance id) s { m with
        ops := s.ops.map fun x => if x.id = id then { o with kind := .cpy dst src len true 0 } else x }) ∧
    (∀ j m parts, o.kind = .cpy dst src len true j → o.wait = none → o.denied = false →
      let p := pieceOf dst len j
      let die := s.dieOfWho w
      let last := (dst + len - 1) / 256 - dst / 256
      j ≤ last → (∀ va, va = src + p.1 ∨ va = dst + p.1 → inWindow va = true → s.portsHeld va = false) →
      s.windowsBefore o (([src + p.1, dst + p.1].filter inWindow).map fun va => (va, p.2)) = false →
      s.windowChk [(src + p.1, p.2)] true false = .ok → s.windowChk [(dst + p.1, p.2)] false true = .ok →
      s.check w o.asid die 6 [(src + p.1, p.2)] true false (fun _ => true) true 0 = .ok →
      s.check w o.asid die 6 [(dst + p.1, p.2)] false true (fun _ => true) true 0 = .ok →
      s.upsetOf w o.asid die [(src + p.1, p.2)] = none →
      m = (s.mark w o.asid die [(src + p.1, p.2)] false).mark w o.asid die [(dst + p.1, p.2)] true →
      parts = m.partsOf w o.asid die (dst + p.1) (m.readSeg w o.asid die (src + p.1, p.2)) → Local parts →
      After (.cpyPiece id j) s fun t => ∃ u time, Writes m u parts ∧ o.time ≤ time ∧
        if j = last then Ends u t { o with time := time } w false fun c => c
        else t = { u with
          ops := s.ops.map fun x => if x.id = id then
            { o with time := time, arrived := false, kind := .cpy dst src len true (j + 1) } else x }) ∧
    (∀ op wide place addr va x p a, o.kind = .red op wide place addr va x →
      s.redPlace w o.asid (Reduction.mk op wide place addr va x) = (p, a) →
      let n := if wide then 8 else 4
      let old := leNat (s.peek p a n)
      let new := fun (y : Nat) =>
        if op = 9 then fpAdd .fp32 .rne old y
        else if wide then (modified op (BitVec.ofNat 64 old) (BitVec.ofNat 64 y)).toNat
        else (modified op (BitVec.ofNat 32 old) (BitVec.ofNat 32 y)).toNat
      x < 2 ^ (8 * n) → op ≤ 9 → s.upsetIn p a n = none → (p = .phys ∨ p = .lscr ∨ ∃ j, p = .scratch j) →
      (After (.redApplication id []) s fun t => ∃ u time, Writes s u [(p, a, leBytes n (new x))] ∧ o.time ≤ time ∧
        Ends u t { o with time := time } w false fun c => c) ∧
      (∀ id' o' w' y, InFlight s id' o' w' → id' ≠ id → o'.kind = .red 0 wide place addr va y → op = 0 →
        (place = .phys ∨ place = .lscr) →
        After (.redApplication id [id']) s fun t => ∃ u, Writes s u [(p, a, leBytes n (new ((x + y) % 2 ^ (8 * n))))] ∧
          t.mem = u.mem ∧ t.lscr = u.lscr ∧ t.ops = s.ops.filter fun z => z.id != id && z.id != id'))

/-- The status word of a play's entry (Table 11-6): its outcome, REASON, play and WORD. -/
def Sys2Proof.playStatus (outcome reason num word : Nat) : Nat := outcome + 2 ^ 8 * reason + 2 ^ 16 * num + 2 ^ 24 * word

/-- The entry of a PLAY is filled. -/
def Sys2Proof.played (o : Op) (slot status result : Nat) : Context → Context :=
  answered o slot playQ 1 1024 (fun _ => result % 2 ^ 512) (fun _ => status) Entry.bad

/-- The device without a play among those that are READY. -/
def Sys2Proof.unready (s : State) (id : Nat) : State := { s with readyPlays := s.readyPlays.filter fun k => k != id }

/-- The plays that a slice keeps once one more has been validated there: up to 128, without the oldest where it is full (R267).
-/
def Sys2Proof.kept (plays : List Cached) (slice : Option Nat) (book num : Nat) (ws : List Nat) : List Cached :=
  match slice with
  | none => plays
  | some k =>
    (if 128 ≤ (plays.filter fun c => c.slice == k).length then plays.eraseP fun c => c.slice == k else plays) ++
      [{ slice := k, book := book, num := num, words := ws }]

/-- PBSET_FLUSH drops the cached plays of the playbook's physical address, once no play fetched from it is left to run (the
model's choice, log entry 102). PLAY_ARRIVAL ends a PLAY without playbook, takes a cached play, or fetches its entry and words;
PLAY_VALIDATION passes and caches them (which validated play a full slice drops is the model's choice, log entry 30), or ends
the PLAY with the reason. PLAY_PERFORM runs the words of the play whose turn it is, the first of those that became READY on its
slice, on the line and, where no word turns it down, writes the line and delivers the result; otherwise the line stays, as it
does where an error is found in it or in a work register that a word reads: the PLAY ends with ABORTED and its REASON, and an
event. A PLAY whose page awaits mapping is PARKED and starts its service, and is READY again once the page is served; one whose
page cannot be served, lacks R or W or has BANK ends with PAGE_FAIL (R267 to R283, R286, Tables 11-6, 11-8; of a line that is
not encrypted). -/
def Sys2Proof.PlaysRun : Prop :=
  ∀ (s : State) (id : Nat) (o : Op) (w : Who) (num va arg slot : Nat) (ws : List Nat), InFlight s id o w → Ordered s.ctxs →
    let slice := s.sliceOf w o.asid va
    (∀ book, o.kind = .pbset book → s.lemant.power ≠ .trip → (∀ x ∈ s.ops, x.kind.runsFrom book = false) →
      EndsAfter (.pbsetFlush id) s { s with
        plays := s.plays.filter fun c => some c.book != book.map (· % 2 ^ 52) } o w false fun c => c) ∧
    (s.lemant.power ≠ .trip → (∀ x ∈ s.ops, x.who = some w → x.id < id → ∀ book, x.kind ≠ .pbset book) →
      (o.kind = .play .sent num va arg none ws slot →
        EndsAfter (.playArrival id) s (unready s id) o w false (played o slot (playStatus 4 0 num 0) 0)) ∧
      (∀ book c, o.kind = .play .sent num va arg (some book) ws slot →
        let found := s.plays.find? fun c => some c.slice == slice && c.book == book % 2 ^ 52 && c.num == num
        (found = some c → After (.playArrival id) s fun t => t = { s with
          readyPlays := (unready s id).readyPlays ++ [id]
          ops := s.ops.map fun x =>
            if x.id = id then { o with kind := .play .ready num va arg (some book) c.words slot } else x }) ∧
        (found = none → s.upsets = [] → book < 2 ^ 52 →
          let entry := Mem.le s.mem (book + 4 * num) 4
          let sound := entry / 2 ^ 16 % 2 ^ 8 ≤ 32 ∧ entry / 2 ^ 24 = 0 ∧ 64 ≤ entry % 2 ^ 16 ∧
            entry % 2 ^ 16 + entry / 2 ^ 16 % 2 ^ 8 ≤ 2112
          let got := entry :: if sound then
            (List.range (entry / 2 ^ 16 % 2 ^ 8)).map fun i => Mem.le s.mem (book + 4 * (entry % 2 ^ 16 + i)) 4 else []
          After (.playArrival id) s fun t => ∃ u time, o.time ≤ time ∧
            u = { unready s id with
              lines := u.lines, l1 := u.l1
              ops := s.ops.map fun x =>
                if x.id = id then { o with time := time, kind := .play .fetching num va arg (some book) got slot } else x } ∧
            t = if s.modesel.getLsbD 5 = true ∨ entry / 2 ^ 16 % 2 ^ 8 = 0 then u
              else u.raiseService 5 o.asid book num (some id)))) ∧
    (∀ book entry, o.kind = .play .fetching num va arg (some book) (entry :: ws) slot →
      (∀ v ∈ s.services, v.func = 5 → v.op ≠ some id) →
      (entry / 2 ^ 16 % 2 ^ 8 = 0 →
        EndsAfter (.playValidation id) s (unready s id) o w false (played o slot (playStatus 4 0 num 0) 0)) ∧
      (∀ r, entry / 2 ^ 16 % 2 ^ 8 ≠ 0 → playFails entry ws = some r →
        EndsAfter (.playValidation id) s (unready s id) o w false (played o slot (playStatus 3 r.1 num r.2) 0)) ∧
      (entry / 2 ^ 16 % 2 ^ 8 ≠ 0 → playFails entry ws = none → After (.playValidation id) s fun t => t = { s with
        plays := kept s.plays slice (book % 2 ^ 52) num ws
        readyPlays := (unready s id).readyPlays ++ [id]
        ops := s.ops.map fun x => if x.id = id then { o with kind := .play .ready num va arg (some book) ws slot } else x })) ∧
    (∀ pre k rest, s.readyPlays = pre ++ k :: rest → (∀ j ∈ pre, s.startsOn slice j = false) → s.startsOn slice k = true →
      (s.playTurn id slice = true ↔ k = id)) ∧
    (∀ book par pa e level addr m, o.kind = .play .ready num va arg book ws slot → o.wait = none → o.denied = false →
      s.playHeldBack o w (PlayOp.mk .ready num va arg book ws slot) = false → s.playTurn id slice = true →
      va < 2 ^ 55 → va % 256 = 0 → s.page o.asid (s.dieOfWho w) va true true false = .ok pa e level addr →
      pteBank e = false → pteEnc e = false →
      (∀ u, s.upsetIn .phys pa 256 = some u → EndsAfter (.playPerform id par) s (unready (s.reportUpset u) id) o w false
        (played o slot (playStatus 2 2 num 0) 0)) ∧
      (s.upsetIn .phys pa 256 = none → m = s.markRange o.asid va 256 false →
      let x := runPlay (leNat (m.peek .phys pa 256)) arg ws
      let struck := ∃ n word, par = some n ∧ word ∈ ws ∧ n ∈ playReads word
      let slice := homeSlice (pa / 256)
      (struck → After (.playPerform id par) s fun t => ∃ u time, Writes m u [] ∧ o.time ≤ time ∧
        Ends (unready (u.report 7 slice pa [slice, 2, 1]) id) t { o with time := time } w false
          (played { o with time := time } slot (playStatus 2 1 num 0) 0)) ∧
      (¬struck → x.ok = true → After (.playPerform id par) s fun t =>
        ∃ u time, Writes (m.mark w o.asid (s.dieOfWho w) [(va, 256)] true) u [(.phys, pa, leBytes 256 x.line)] ∧ o.time ≤ time ∧
        Ends (unready u id) t { o with time := time } w false
          (played { o with time := time } slot (playStatus 0 0 num 0) x.result)) ∧
      (¬struck → x.ok = false → After (.playPerform id par) s fun t => ∃ u time, Writes m u [] ∧ o.time ≤ time ∧
        Ends (unready u id) t { o with time := time } w false
          (played { o with time := time } slot (playStatus 1 0 num 0) x.result)))) ∧
    (∀ book st par, o.kind = .play st num va arg book ws slot → o.wait = none → va < 2 ^ 55 →
      s.playHeldBack o w (PlayOp.mk st num va arg book ws slot) = false →
      (st = .ready ∧ (o.denied = true ∨ s.playTurn id slice = true)) ∨ st = .parked →
      let found := s.page o.asid (s.dieOfWho w) va true true false
      let go := fun (u : State) (st : PlayState) (wait : Option (Nat × Nat)) => u.ops.map fun x =>
        if x.id = id then { o with kind := .play st num va arg book ws slot, wait := wait } else x
      (o.denied = true ∨ found = .perm ∨ (∃ level, found = .cannot level) ∨
          (∃ pa e level addr, found = .ok pa e level addr ∧ pteBank e = true) →
        EndsAfter (.playPerform id par) s (unready s id) o w false (played o slot (playStatus 5 0 num 0) 0)) ∧
      (o.denied = false → found = .awaits → After (.playPerform id par) s fun t =>
        let u := (if st = .ready then unready s id else s).needPage o.asid va true
        t = { u with ops := go u .parked (some (o.asid, va / 65536)) }) ∧
      (∀ pa e level addr, st = .parked → o.denied = false → found = .ok pa e level addr → pteBank e = false →
        After (.playPerform id par) s fun t => t = { s with
          readyPlays := (unready s id).readyPlays ++ [id], ops := go s .ready none }))

/-- Whether a play word reads WA, WB and the old WD, and whether it writes WD (Table 11-3). -/
def Sys2Proof.playFieldsUsed (word : Nat) : Bool × Bool × Bool × Bool :=
  let op := word / 2 ^ 27
  let constant := op = 0x15 ∧ word / 2 ^ 15 % 2 = 1
  let a := (op = 0x01 ∨ 0x03 ≤ op) ∧ op ≤ 0x17 ∧ ¬constant
  let b := 0x03 ≤ op ∧ op ≤ 0x13 ∧ op ≠ 0x0C ∧ op ≠ 0x0D
  (decide a, decide b, decide (op = 0x11), decide (op ≤ 0x15 ∧ op ≠ 0x01))

/-- A word that is no play operation (Table 11-3, reason 2 of Table 11-4). -/
def Sys2Proof.NoPlayWord (word : Nat) : Prop :=
  let op := word / 2 ^ 27
  let es := word / 2 ^ 16 % 4
  let imm := word % 2 ^ 16
  let used := playFieldsUsed word
  let limit :=
    if op ≤ 1 then 8 else if op = 2 ∨ op = 0x16 then 2 else if op = 0x0C ∨ op = 0x0D then 8 * 2 ^ es
    else if op = 0x15 ∧ 2 ^ 15 ≤ imm then 2 ^ 16 else if op = 0x15 ∨ op = 0x17 then 32 / 2 ^ es else 1
  0x18 < op ∨ limit ≤ imm ∨ (used.1 = false ∧ word / 2 ^ 21 % 8 ≠ 0) ∨ (used.2.1 = false ∧ word / 2 ^ 18 % 8 ≠ 0) ∨
    (used.2.2.2 = false ∧ word / 2 ^ 24 % 8 ≠ 0) ∨ (es ≠ 0 ∧ (op ≤ 2 ∨ op = 0x16 ∨ op = 0x18)) ∨ (es ≠ 2 ∧ (op = 0x12 ∨ op = 0x13))

/-- The word at a place reads a work register that no word before it writes (reason 4 of Table 11-4). -/
def Sys2Proof.ReadsUnwritten (ws : List Nat) (i : Nat) : Prop :=
  ∃ word n, ws[i]? = some word ∧
    let used := playFieldsUsed word
    ((used.1 = true ∧ n = word / 2 ^ 21 % 8) ∨ (used.2.1 = true ∧ n = word / 2 ^ 18 % 8) ∨
      (used.2.2.1 = true ∧ n = word / 2 ^ 24 % 8)) ∧
    ∀ j x, j < i → ws[j]? = some x → ¬((playFieldsUsed x).2.2.2 = true ∧ x / 2 ^ 24 % 8 = n)

/-- The validation of a play, in the order 1, 5, 2, 3, 4 of Table 11-4, with the lowest-numbered word for reasons 2 and 4; and
the words that validation reads of each (R272). -/
def Sys2Proof.PlaysValidate : Prop :=
  (∀ (entry : Nat) (ws : List Nat), (∀ x ∈ ws, x < 2 ^ 32) →
    let len := entry / 2 ^ 16 % 2 ^ 8
    let off := entry % 2 ^ 16
    let misplaced := entry / 2 ^ 24 % 2 ^ 8 ≠ 0 ∨ off < 64 ∨ 2112 < off + len
    let bad := fun i => ∃ x, ws[i]? = some x ∧ NoPlayWord x
    let ends := (∃ x, ws.getLast? = some x ∧ x / 2 ^ 27 = 0x18) ∧ ∀ x ∈ ws.dropLast, x / 2 ^ 27 ≠ 0x18
    (32 < len → playFails entry ws = some (1, 0)) ∧
    (len ≤ 32 → misplaced → playFails entry ws = some (5, 0)) ∧
    (len ≤ 32 → ¬misplaced →
      (∀ i, bad i → (∀ j, j < i → ¬bad j) → playFails entry ws = some (2, i)) ∧
      ((∀ i, ¬bad i) → ¬ends → playFails entry ws = some (3, 0)) ∧
      (∀ i, (∀ j, ¬bad j) → ends → ReadsUnwritten ws i → (∀ j, j < i → ¬ReadsUnwritten ws j) →
        playFails entry ws = some (4, i)) ∧
      ((∀ i, ¬bad i) → ends → (∀ i, ¬ReadsUnwritten ws i) → playFails entry ws = none))) ∧
  ∀ word n, word / 2 ^ 27 ≤ 0x18 → (n ∈ playReads word ↔
    ((playFieldsUsed word).1 = true ∧ n = word / 2 ^ 21 % 8) ∨ ((playFieldsUsed word).2.1 = true ∧ n = word / 2 ^ 18 % 8) ∨
      ((playFieldsUsed word).2.2.1 = true ∧ n = word / 2 ^ 24 % 8))

/-- A play starts with its line, no result and the verdict to commit, and its words act one after another (R273). The words of a
play (Table 11-3): KLDL, KSTL, KLDA, KRES and KCMT move the line, the argument, the result and the verdict,
KRET ends, a constant of KBCL fills a register, and the element words act on each element of a register of 256 bits. -/
def Sys2Proof.PlayWords : Prop :=
  ∀ (x : Engine) (arg word : Nat), word < 2 ^ 32 →
    let op := word / 2 ^ 27
    let d := word / 2 ^ 24 % 8
    let e := 8 * 2 ^ (word / 2 ^ 16 % 4)
    let imm := word % 2 ^ 16
    let a := x.reg (word / 2 ^ 21 % 8)
    let b := x.reg (word / 2 ^ 18 % 8)
    let t := x.word arg word
    (∀ line, runPlay line arg [] = { line := line, work := [], result := 0, ok := true }) ∧
    (∀ line ws, runPlay line arg (ws ++ [word]) = (runPlay line arg ws).word arg word) ∧
    (op = 0 → t = { x with work := SMap.set x.work d (x.line / 2 ^ (256 * imm) % 2 ^ 256) }) ∧
    (op = 1 → a < 2 ^ 256 → t = { x with line := t.line } ∧
      ∀ j, t.line.testBit j = if 256 * imm ≤ j ∧ j < 256 * imm + 256 then a.testBit (j - 256 * imm) else x.line.testBit j) ∧
    (op = 2 → t = { x with work := SMap.set x.work d (arg / 2 ^ (256 * imm) % 2 ^ 256) }) ∧
    (op = 0x16 → a < 2 ^ 256 → t = { x with result := t.result } ∧
      ∀ j, t.result.testBit j = if 256 * imm ≤ j ∧ j < 256 * imm + 256 then a.testBit (j - 256 * imm) else x.result.testBit j) ∧
    (op = 0x17 → t = { x with ok := x.ok && decide (elem e a imm ≠ 0) }) ∧
    (op = 0x18 → t = x) ∧
    (3 ≤ op → op ≤ 0x15 → t = { x with work := t.work } ∧ (∀ n, n ≠ d → t.reg n = x.reg n) ∧
      ∀ j, j < 256 / e →
        let p := elem e a j
        let q := elem e b j
        elem e (t.reg d) j =
          if op = 0x03 then (p + q) % 2 ^ e
          else if op = 0x04 then (p + 2 ^ e - q) % 2 ^ e
          else if op = 0x05 then (if (BitVec.ofNat e p).toInt ≤ (BitVec.ofNat e q).toInt then p else q)
          else if op = 0x06 then (if (BitVec.ofNat e q).toInt ≤ (BitVec.ofNat e p).toInt then p else q)
          else if op = 0x07 then min p q
          else if op = 0x08 then max p q
          else if op = 0x09 then p &&& q
          else if op = 0x0A then p ||| q
          else if op = 0x0B then p ^^^ q
          else if op = 0x0C then p * 2 ^ imm % 2 ^ e
          else if op = 0x0D then p / 2 ^ imm
          else if op = 0x0E then (if p = q then 2 ^ e - 1 else 0)
          else if op = 0x0F then (if (BitVec.ofNat e p).toInt < (BitVec.ofNat e q).toInt then 2 ^ e - 1 else 0)
          else if op = 0x10 then (if p < q then 2 ^ e - 1 else 0)
          else if op = 0x11 then (if elem e (x.reg d) j ≠ 0 then p else q)
          else if op = 0x12 then fpAdd .fp32 .rne p q % 2 ^ e
          else if op = 0x13 then fpMax .fp32 p q % 2 ^ e
          else if op = 0x14 then (ones (BitVec.ofNat e p))
          else if word / 2 ^ 15 % 2 = 1 then ((BitVec.ofNat 15 imm).toInt % 2 ^ e).toNat
          else elem e a imm)
/-- The engine of plays, the validation of plays, and the words that it runs. The model's choices are those of log entries 30,
99 and 102. -/
def Obligations.Plays : Prop := Sys2Proof.PlaysRun ∧ Sys2Proof.PlaysValidate ∧ Sys2Proof.PlayWords

/-! ### The bank table -/

/-- The entry that a query reads for an index, in the home instance of a table. -/
def Sys2Proof.entryAt (s : State) (frame logn width x : Nat) : Nat :=
  Mem.le s.mem (frame * 65536 + width * (x % 2 ^ logn)) width

/-- What a query has read once row r of its table, or every row, has been activated. -/
def Sys2Proof.activated (s : State) (q : Query) (row : Option Nat) : List (Nat × Option Nat) :=
  (q.idx.zip q.got).map fun g =>
    if row = none ∨ row = some (q.width * (g.1 % 2 ^ q.logn) / 1024) then (entryAt s q.frame q.logn q.width g.1, none) else g.2

/-- A query is answered, with what else that changes: its data are what it has read, and indices outside the table are counted
and set TERR (R297, Table 12-4). -/
def Sys2Proof.QueryEnds (s u : State) (id : Nat) (o : Op) (w : Who) (q : Query) (width : Nat) (got : List (Nat × Option Nat))
    (masked : Nat) : Prop :=
  ∃ data : Nat → Nat,
    EndsAfter (.tableQuery id) s u o w (decide (0 < masked))
      (answered o q.slot tableQ (if q.e16 then 2 else 1) 1024 data
        (fun k => (if masked = 0 then 0 else 1) + 2 ^ 3 * k + 2 ^ 8 * masked) fun _ => none) ∧
    ∀ k j, j < 1024 / (8 * width) →
      elem (8 * width) (data k) j = ((got.map (·.1)).getD (k * (1024 / (8 * width)) + j) 0) % 2 ^ (8 * width)

/-- The next query of a READY table turns to its next instance (R290). -/
def Sys2Proof.turned (s : State) (asid desc : Nat) : State :=
  { s with tables := s.tables.map fun t =>
      if t.asid = asid ∧ t.desc = desc then { t with turn := (t.turn + 1) % t.frames.length } else t }

/-- TABLE_QUERY: a query of no table, or of another width, is answered with that status; of a READY table with all its entries
at once, after which the next instance has its turn; of a DEFINED one by an activation for each row that it touches, in
increasing row (R290, R297, R300, Table 12-4). -/
def Sys2Proof.TableQueries : Prop :=
  ∀ (s : State) (id : Nat) (o : Op) (w : Who) (q : Query) (t : Table), InFlight s id o w → Ordered s.ctxs → o.kind = .tq q →
    s.upsets = [] →
    let parts := if q.e16 then 2 else 1
    let width := if t.wide then 2 else 1
    let masked := fun (logn : Nat) => (q.idx.filter fun x => decide (2 ^ logn ≤ x)).length
    let q' := { q with
      frame := t.frames.headD 0, logn := t.logn, width := width, got := q.idx.map fun _ => (0, none) }
    (q.rows = none → s.lemant.power ≠ .trip →
      (s.tableAt o.asid q.desc = none → EndsAfter (.tableQuery id) s s o w true
        (answered o q.slot tableQ parts 1024 (fun _ => 0) (fun k => 2 + 2 ^ 3 * k) fun _ => none)) ∧
      (s.tableAt o.asid q.desc = some t → q.n16 = false → q.e16 ≠ t.wide → EndsAfter (.tableQuery id) s s o w true
        (answered o q.slot tableQ parts 1024 (fun _ => 0) (fun k => 3 + 2 ^ 3 * k) fun _ => none)) ∧
      (s.tableAt o.asid q.desc = some t → (q.n16 = true ∨ q.e16 = t.wide) →
        (t.ready = true → QueryEnds s (turned s o.asid q.desc) id o w q width (activated s q' none) (masked t.logn)) ∧
        (∀ r, t.ready = false → rowsOf width (q.idx.map (· % 2 ^ t.logn)) = [r] →
          QueryEnds s s id o w q width (activated s q' (some r)) (masked t.logn)) ∧
        (∀ r r' rest, t.ready = false → rowsOf width (q.idx.map (· % 2 ^ t.logn)) = r :: r' :: rest →
          After (.tableQuery id) s fun u => u = { s with ops := s.ops.map fun x =>
            if x.id = id then
              { o with kind := .tq { q' with rows := some (r' :: rest), got := activated s q' (some r) } } else x }))) ∧
    (∀ r, q.rows = some [r] → q.width = 1 ∨ q.width = 2 →
      QueryEnds s s id o w q q.width (activated s q (some r)) (masked q.logn)) ∧
    (∀ r r' rest, q.rows = some (r :: r' :: rest) → After (.tableQuery id) s fun u => u = { s with ops := s.ops.map fun x =>
      if x.id = id then { o with kind := .tq { q with rows := some (r' :: rest), got := activated s q (some r) } } else x })

/-- TBLDEF takes the place of a table under its descriptor where every instance page has stayed BANK and the slice has room,
and otherwise fails, leaving none, also where one has changed since the TBLDEF executed; TBLDEF.drop leaves none; TREPL copies
the home rows to every instance and spreads them over the rows of each, after which the table is READY (R292, R293, R295, R296,
Table 12-2). -/
def Sys2Proof.TablesAreDefined : Prop :=
  ∀ (s : State) (id desc : Nat) (o : Op) (w : Who) (t : Table), InFlight s id o w → s.lemant.power ≠ .trip →
    let others := s.tables.filter fun t => !(t.asid == o.asid && t.desc == desc)
    (o.kind = .tbldefDrop desc → EndsAfter (.tbldefSuboperation id) s { s with tables := others } o w false fun c => c) ∧
    (∀ base logn copies wide changed, o.kind = .tbldef desc base logn copies wide changed →
      let frames := (List.range (copies + 1)).map fun j => s.bankFrame o.asid (base + 65536 * j)
      let room := (others.filter fun t => homeSlice (t.desc / 256) == homeSlice (desc / 256)).length < 16
      let made : Table := ⟨o.asid, desc, base, logn, wide, frames.filterMap (fun x => x), false, 0⟩
      (changed = false → frames.all Option.isSome = true → room →
        EndsAfter (.tbldefSuboperation id) s { s with tables := others ++ [made] } o w false fun c => c) ∧
      (changed = true ∨ frames.all Option.isSome = false ∨ ¬room →
        EndsAfter (.tbldefSuboperation id) s { s with tables := others } o w true fun c => c)) ∧
    (o.kind = .trepl desc →
      (s.tableAt o.asid desc = none → EndsAfter (.treplSuboperation id) s s o w true fun c => c) ∧
      (s.tableAt o.asid desc = some t → t.nrow ≤ 8 → t.frames ≠ [] → s.upsets = [] →
        ∃ m, EndsAfter (.treplSuboperation id) s { s with
          mem := m
          tables := s.tables.map fun x => if x.asid = o.asid ∧ x.desc = desc then { x with ready := true } else x } o w false
            (fun c => c) ∧
          (∀ f ∈ t.frames, ∀ i, i < 1024 * t.nrow → Mem.read m (f * 65536 + i) = Mem.read s.mem (t.frames.headD 0 * 65536 + i)) ∧
          (∀ f ∈ t.frames, ∀ k i, k < t.nrow → i < 1024 →
            Mem.read m (f * 65536 + 8192 * k + i) = Mem.read s.mem (t.frames.headD 0 * 65536 + 1024 * k + i)) ∧
          ∀ a, (∀ f ∈ t.frames, a < f * 65536 ∨ f * 65536 + 65536 ≤ a) → Mem.read m a = Mem.read s.mem a))

/-- Tables are defined, and queries of them answered. -/
def Obligations.Tables : Prop := Sys2Proof.TablesAreDefined ∧ Sys2Proof.TableQueries

/-! ### The roster -/

/-- An operation that may act on its set now. -/
def Sys2Proof.Turn (s : State) (id : Nat) (o : Op) (w : Who) : Prop :=
  InFlight s id o w ∧ o.wait = none ∧ s.setHeldBack o = false ∧ s.lemant.power ≠ .trip

/-- An operation as it stands at its set: it has arrived, no earlier than the operations performed there (Table 9-4). -/
def Sys2Proof.standing (s : State) (o : Op) : Op := { o with arrived := true, time := max o.time (s.setTime o) }

/-- The set of a handle takes new contents. -/
def Sys2Proof.setAs (s : State) (r : RSet) : State :=
  { s with sets := s.sets.map fun x => if x.desc.asid = r.desc.asid ∧ x.desc.handle = r.desc.handle then r else x }

/-- The set of a handle takes new contents at the time of an operation. -/
def Sys2Proof.withSet (s : State) (o : Op) (r : RSet) : State := setAs s { r with time := max r.time o.time }

/-- The row that a RINS carries (Table 13-1). -/
def Sys2Proof.rowOf (x : Nat) : Row :=
  { sig := x % 2 ^ 256, lidx := x / 2 ^ 256 % 2 ^ 32, handle := x / 2 ^ 288 % 2 ^ 32, attr := x / 2 ^ 320 % 2 ^ 16, age := 0,
    pin := x / 2 ^ 336 % 2 == 1, spilled := false, writing := false }

/-- A failure of a set is counted, with its code and index (R315). -/
def Sys2Proof.failedWith (r : RSet) (code lidx : Nat) : RSet :=
  { r with fails := min (r.fails + 1) (2 ^ 32 - 1), lastCode := code, lastIdx := lidx }

/-- RSET makes a set LIVE where its handle, its block's rows and its spill pages allow it and none of these has left BANK
since, and RSET.drop ends a set, whose pages then read zero. RINS writes a row over the one of its index, into a free row, or
in place of a victim, the oldest row on chip without PIN, which spills; it fails where there is no room, or where the page's
metadata refuses it, and otherwise raises RREF of its handle and lowers that of a handle that it replaces. RDEL removes a row
and lowers RREF, RAGE ages every row, and a spilled row's write ends (R307, R310 to R315, R322). That an RREF of 0 stays 0 (log
entry 44) and that a spilled row's write changes no byte of its region (29) are the model's choices. -/
def Obligations.SetsChange : Prop :=
  ∀ (s : State) (id : Nat) (o' : Op) (w : Who) (r : RSet), Turn s id o' w →
    let o := standing s o'
    (∀ d changed, o.kind = .rset d changed →
      let block := s.sets.filter fun r => r.desc.home == d.home
      let ok := (s.setAt o.asid d.handle).isNone ∧ block.length < 64 ∧ (block.map fun r => r.desc.cap).sum + d.cap ≤ 32768 ∧
        changed = false ∧
        ∀ va ∈ d.pages, ∃ pa e level addr, s.page o.asid 0 va false false false = .ok pa e level addr ∧ pteBank e = true ∧
          pteEnc e = false ∧ pteKv e = false ∧ s.heldPage o.asid va = false
      (ok → EndsAfter (.rsetSuboperation id) s
        { s with sets := s.sets ++ [{ desc := d, rows := [], fails := 0, lastCode := 0, lastIdx := 0, time := o.time }] }
        o w false fun c => c) ∧
      (¬ok → EndsAfter (.rsetSuboperation id) s s o w true fun c => c)) ∧
    (∀ h, o.kind = .rsetDrop h →
      (s.setAt o.asid h = none → EndsAfter (.rsetDropSuboperation id) s s o w true fun c => c) ∧
      (s.setAt o.asid h = some r → r.rows = [] →
        EndsAfter (.rsetDropSuboperation id) s (s.endSet r) o w false (fun c => c) ∧
        (s.endSet r).sets = (s.sets.filter fun x => !(x.desc.asid == r.desc.asid && x.desc.handle == r.desc.handle)) ∧
        ∀ va e level addr, r.desc.pages = [va] → s.walk r.desc.asid va = .leaf e level addr → ∀ a,
          Mem.read (s.endSet r).mem a =
            if leafPhys e level va ≤ a ∧ a < leafPhys e level va + 65536 then 0 else Mem.read s.mem a)) ∧
    (∀ h row, o.kind = .rins h row → s.setAt o.asid h = none → EndsAfter (.rinsSuboperation id) s s o w true fun c => c) ∧
    (∀ h row, o.kind = .rins h row → s.setAt o.asid h = some r →
      let x := rowOf row
      let old := r.row x.lidx
      let kept := r.rows.filter fun y => y.lidx != x.lidx
      let onChip := (r.rows.filter fun y => !y.spilled).length
      let full := (kept.filter (·.spilled)).length = 1024 * r.desc.spages
      let elsewhere := old = none ∨ ∃ y, old = some y ∧ y.spilled = true ∧ r.spilling = false
      let same := r.desc.pool = 0 ∨ ∃ y, old = some y ∧ y.handle = x.handle
      (same →
        (∀ y, old = some y → y.spilled = false →
          EndsAfter (.rinsSuboperation id) s (withSet s o { r with rows := kept ++ [x] }) o w false fun c => c) ∧
        (elsewhere → onChip < r.desc.cap →
          EndsAfter (.rinsSuboperation id) s (withSet s o { r with rows := kept ++ [x] }) o w false fun c => c) ∧
        (∀ v, elsewhere → r.desc.cap ≤ onChip → victimOf r.rows = some v → r.desc.enc = false → ¬full →
          s.modesel.getLsbD 4 = true →
          EndsAfter (.rinsSuboperation id) s (withSet s o { r with
            rows := (kept.map fun y => if y.lidx = v.lidx then { y with spilled := true, writing := true } else y) ++ [x] })
            o w false fun c => c)) ∧
      (elsewhere → r.desc.cap ≤ onChip → victimOf r.rows = none ∨ r.desc.enc = true ∨ full →
        EndsAfter (.rinsSuboperation id) s (withSet s o (failedWith r 1 x.lidx)) o w true fun c => c) ∧
      (∀ record, ¬same → (∀ y, old = some y → y.spilled = false) → (old = none → onChip < r.desc.cap) →
        s.metadata w o.asid r.desc.pool x.handle = (.ok, some record) →
        let m := leNat (s.fetch w o.asid record 64)
        let refused := m.testBit 288 = false ∨ s.isFreeing (s.homeKey w o.asid record) = true ∨ m / 2 ^ 296 % 2 ^ 16 = 65535
        let a := s.putRref w o r.desc.pool record (m / 2 ^ 296 % 2 ^ 16 + 1)
        let f := s.fetchTime w o.asid o.time [(r.desc.pool, 64), (record, 64)]
        let later := { o with time := f.2 }
        (refused → EndsAfter (.rinsSuboperation id) s (withSet f.1 later (failedWith r 2 x.lidx)) later w true fun c => c) ∧
        (¬refused → old = none →
          EndsAfter (.rinsSuboperation id) s (withSet a.1 a.2 { r with rows := kept ++ [x] }) a.2 w false fun c => c) ∧
        (∀ y lost lost', ¬refused → old = some y → s.metadata w o.asid r.desc.pool y.handle = (.ok, some lost') →
          a.1.metadata w o.asid r.desc.pool y.handle = (.ok, some lost) →
          let b := a.1.putRref w a.2 r.desc.pool lost (leNat (a.1.fetch w o.asid lost 64) / 2 ^ 296 % 2 ^ 16 - 1)
          EndsAfter (.rinsSuboperation id) s (withSet b.1 b.2 { r with rows := kept ++ [x] }) b.2 w false fun c => c))) ∧
    (∀ v, victimOf r.rows = some v → v ∈ r.rows ∧ v.spilled = false ∧ v.pin = false ∧
      ∀ y ∈ r.rows, y.spilled = false → y.pin = false → y.age < v.age ∨ (y.age = v.age ∧ v.lidx ≤ y.lidx)) ∧
    (∀ h lidx, o.kind = .rdel h lidx → s.setAt o.asid h = some r → r.spilling = false →
      (r.row lidx = none → EndsAfter (.rdelSuboperation id) s (withSet s o (failedWith r 3 lidx)) o w true fun c => c) ∧
      (∀ x, r.row lidx = some x →
        (r.desc.pool = 0 → EndsAfter (.rdelSuboperation id) s
          (withSet s o { r with rows := r.rows.filter fun y => y.lidx != lidx }) o w false fun c => c) ∧
        (∀ record, r.desc.pool ≠ 0 → s.metadata w o.asid r.desc.pool x.handle = (.ok, some record) →
          let a := s.putRref w o r.desc.pool record (leNat (s.fetch w o.asid record 64) / 2 ^ 296 % 2 ^ 16 - 1)
          EndsAfter (.rdelSuboperation id) s (withSet a.1 a.2 { r with rows := r.rows.filter fun y => y.lidx != lidx })
            a.2 w false fun c => c))) ∧
    (∀ h delta, o.kind = .rage h delta → s.setAt o.asid h = some r → r.spilling = false →
      EndsAfter (.rageSuboperation id) s (withSet s o { r with
        rows := r.rows.map fun x => { x with age := (min 255 (max 0 ((x.age : Int) + delta))).toNat } }) o w false fun c => c) ∧
    ∀ asid h lidx, s.setAt asid h = some r →
      (∀ v ∈ s.services, v.func = 4 → v.asid = asid → v.aux = h → v.op ≠ some lidx) →
      After (.spillWrite asid h lidx) s fun t => t = setAs s { r with
        rows := r.rows.map fun x => if x.lidx = lidx then { x with writing := false } else x }

/-- The score of a row for a query: the bits in which its signature agrees (R317). -/
def Sys2Proof.scoreOf (q : Nat) (x : Row) : Nat := 256 - ones (BitVec.ofNat 256 q ^^^ BitVec.ofNat 256 x.sig)

/-- The word of a selected row: LIDX and HANDLE. -/
def Sys2Proof.pairOf (x : Row) : Nat := x.lidx % 2 ^ 32 + 2 ^ 32 * (x.handle % 2 ^ 32)

/-- RSEL's sub-operation: of the rows below the horizon that pass the filter, the sinks come first and the recent ones last,
both by index, and between them the k of the others with the greatest scores; their ages become 0, and its entries hold them by
sixteens with their counts. RSEL.info's holds the counts of the set. A handle without a set is answered with status NO_SET
(R316 to R319, Tables 13-5 to 13-7). -/
def Obligations.SelectsAnswer : Prop :=
  ∀ (s : State) (id handle horizon query k n slot : Nat) (filter : Option (Nat × Nat)) (o' : Op) (w : Who) (r : RSet),
    Turn s id o' w → Ordered s.ctxs →
    let o := standing s o'
    (o.kind = .rsel handle horizon query filter k n slot → 0 < n → s.setAt o.asid handle = none →
      EndsAfter (.rselSuboperation id) s s o w false
        (answered o slot selectQ n 1024 (fun _ => 0) (fun i => 2 + 2 ^ 4 * i) Entry.bad)) ∧
    (o.kind = .rsel handle horizon query filter k n slot → 0 < n → s.setAt o.asid handle = some r → r.spilling = false →
      ∃ sinks others recents : List Row,
        let rows := sinks ++ others.take k ++ recents
        let f := filter.getD (r.desc.amask, r.desc.amatch)
        let eligible := r.rows.filter fun y => decide (y.lidx < horizon) && (y.attr &&& f.1) == f.2
        let low := horizon - r.desc.recents
        EndsAfter (.rselSuboperation id) s (withSet s o { r with
            rows := r.rows.map fun y => if y ∈ rows then { y with age := 0 } else y }) o w false
          (answered o slot selectQ n 1024
            (fun i => (((rows.drop (16 * i)).take 16).zipIdx.map fun x => pairOf x.1 * 2 ^ (64 * x.2)).sum)
            (fun i => (if 16 * n < rows.length then 1 else 0) + 2 ^ 8 * ((rows.drop (16 * i)).take 16).length
              + 2 ^ 16 * rows.length + 2 ^ 4 * i) Entry.bad) ∧
        sinks.Perm (eligible.filter fun y => decide (y.lidx < r.desc.sinks)) ∧
        others.Perm (eligible.filter fun y => decide (r.desc.sinks ≤ y.lidx) && decide (y.lidx < low)) ∧
        recents.Perm (eligible.filter fun y => decide (r.desc.sinks ≤ y.lidx) && decide (low ≤ y.lidx)) ∧
        sinks.Pairwise (fun x y => x.lidx ≤ y.lidx) ∧ recents.Pairwise (fun x y => x.lidx ≤ y.lidx) ∧
        others.Pairwise fun x y => scoreOf query y < scoreOf query x ∨ (scoreOf query x = scoreOf query y ∧ x.lidx ≤ y.lidx)) ∧
    (o.kind = .rselInfo handle slot → s.setAt o.asid handle = none →
      EndsAfter (.rselInfoSuboperation id) s s o w false
        (answered o slot selectQ 1 1024 (fun _ => 0) (fun _ => 2) Entry.bad)) ∧
    (o.kind = .rselInfo handle slot → s.setAt o.asid handle = some r →
      let info := (r.rows.filter fun x => !x.spilled).length + 2 ^ 32 * (r.rows.filter (·.spilled)).length
        + 2 ^ 64 * (r.rows.filter (·.pin)).length + 2 ^ 96 * r.desc.cap + 2 ^ 128 * r.fails + 2 ^ 160 * r.lastCode
        + 2 ^ 192 * r.lastIdx
      EndsAfter (.rselInfoSuboperation id) s (withSet s o r) o w false
        (answered o slot selectQ 1 1024 (fun _ => info) (fun _ => 3) Entry.bad))
/-! ### The matrix unit -/

/-- Element i of e bytes of a tile of a core. -/
def Sys2Proof.tileElem (x : Core) (j e i : Nat) : Nat := Mem.le (x.tile j) (e * i) e

/-- Matrix work begins on a core: the core changes by `f`, and the work is in flight with the tiles and windows it occupies
(R178). -/
def Sys2Proof.Works (s t : State) (k : Nat) (b : Bundle) (reads writes : List Nat) (mma mlds : Bool) (windows : Nat)
    (f : Core → Core) : Prop :=
  t = { s with
    cores := SMap.set s.cores (coreOf k) (f (s.core (coreOf k)))
    ops := s.ops ++ [sentOp s.nextId (s.ctx k) b none (.mtx (coreOf k) reads writes mma mlds windows)]
    nextId := s.nextId + 1 }

/-- A core with another tile. -/
def Sys2Proof.withTile (x : Core) (j : Nat) (m : Mem) : Core := { x with tiles := SMap.set x.tiles j m }

/-- The tiles and the active plane of a core are in canonical form. -/
def Sys2Proof.SoundTiles (x : Core) : Prop := (∀ j, (x.tile j).wf = true) ∧ x.active.data.wf = true

/-- The bytes that an MTX word of a bundle without an ADR effect reads at a piece of memory. -/
def Sys2Proof.rowBytes (s : State) (k : Nat) (g : Seg) : List Byte :=
  s.readSeg (s.ctx k).who (s.ctx k).asid s.die g

/-- The frame of a read of memory by the matrix unit: A in the leaves, times of lines, copies in L1s, the errors that it
reports, and the context's LTIME. -/
def Sys2Proof.UnitReads (s t : State) (k : Nat) (segs : List Seg) (more : List Op) (next : Nat) (f : Core → Core) : Prop :=
  t = { s with
    cores := SMap.set s.cores (coreOf k) (f (s.core (coreOf k)))
    mem := (s.mark (s.ctx k).who (s.ctx k).asid s.die segs false).mem
    ctxs := t.ctxs, lines := t.lines, l1 := t.l1, ops := s.ops ++ more, nextId := next
    lemant := { s.lemant with log := t.lemant.log }, freeIx := t.freeIx } ∧
  (∀ j, j ≠ k → t.ctx j = s.ctx j) ∧ (s.ctx k).ltime ≤ (t.ctx k).ltime ∧
  t.ctx k = { s.ctx k with ltime := (t.ctx k).ltime }

/-- What the matrix words move, once accepted: TLD fills a tile with its rows, or with their columns; TST leaves the store of a
tile's rows, or of its columns; TZERO zeroes a tile; TGETR lands a chunk of 128 bytes and TSETR replaces one; MLDS fills the
shadow plane with its attributes, MSWAP exchanges the planes, and SLD fills windows of scale memory (R174, R177, R182 to R187,
R191). -/
def Sys2Proof.MatrixMoves : Prop :=
  ∀ (s : State) (k tile e : Nat) (b : Bundle) (rows : List Seg),
    s.focus = { ticket := k, pos := b.pos, slot := 5 } → (b.effects.filter fun e => e.1 == 1) = [] →
    SoundTiles (s.core (coreOf k)) →
    let here := s.core (coreOf k)
    let n := 256 / e
    let got := fun (r i : Nat) => leNat (((rowBytes s k (rows.getD r (0, 0))).drop (e * i)).take e)
    (e = 1 ∨ e = 2 ∨ e = 4 → rows.length = n → (∀ g ∈ rows, (rowBytes s k g).length = 256 * e) →
      (∃ m, UnitReads s (s.work k b (.tld tile rows false e)) k rows
          [sentOp s.nextId (s.ctx k) b none (.mtx (coreOf k) [] [tile] false false 0)] (s.nextId + 1)
          (fun x => withTile x tile m) ∧
        ∀ r i, r < n → i < 256 → Mem.le m (e * (256 * r + i)) e = got r i) ∧
      (∃ m, UnitReads s (s.work k b (.tld tile rows true e)) k rows
          [sentOp s.nextId (s.ctx k) b none (.mtx (coreOf k) [] [tile] false false 0)] (s.nextId + 1)
          (fun x => withTile x tile m) ∧
        ∀ r i, r < n → i < 256 → Mem.le m (e * (n * i + r)) e = got r i)) ∧
    (e = 1 ∨ e = 2 ∨ e = 4 → rows.length = n → ∃ out : List (List Byte), out.length = n ∧
      s.work k b (.tst tile rows false e) = ((s.effect (.store ((rows.map (·.1)).zip out) true)).opNew
        (sentOp 0 (s.ctx k) b none (.mtx (coreOf k) [tile] [] false false 0))) ∧
      ∀ r i, r < n → i < 256 → leNat (((out.getD r []).drop (e * i)).take e) = tileElem here tile e (256 * r + i)) ∧
    (e = 1 ∨ e = 2 ∨ e = 4 → rows.length = 256 → ∃ out : List (List Byte), out.length = 256 ∧
      s.work k b (.tst tile rows true e) = ((s.effect (.store ((rows.map (·.1)).zip out) true)).opNew
        (sentOp 0 (s.ctx k) b none (.mtx (coreOf k) [tile] [] false false 0))) ∧
      ∀ r i, r < 256 → i < n → leNat (((out.getD r []).drop (e * i)).take e) = tileElem here tile e (256 * i + r)) ∧
    Works s (s.work k b (.tzero tile)) k b [] [tile] false false 0 (fun x => withTile x tile []) ∧
    (∀ chunk dest, dest < 60 →
      Lands s (s.work k b (.tgetr tile chunk dest)) 4 [(.v dest, Mem.le (here.tile tile) (128 * chunk) 128)]) ∧
    (∀ chunk (x : Vec), ∃ m, s.work k b (.tsetr tile chunk x) =
        { s with cores := SMap.set s.cores (coreOf k) (withTile here tile m) } ∧
      ∀ i, Mem.read m i = if 128 * chunk ≤ i ∧ i < 128 * chunk + 128 then BitVec.ofNat 8 (elem 8 x.toNat (i - 128 * chunk))
        else Mem.read (here.tile tile) i) ∧
    (∀ ty psw bs pts, Works s (s.work k b (.mlds tile ty psw bs pts)) k b [tile] [] false true 0
      fun x => { x with shadow := { data := x.tile tile, ty := ty, psw := psw, bs := bs, pts := pts } }) ∧
    s.work k b .mswap =
      { s with cores := SMap.set s.cores (coreOf k) { here with active := here.shadow, shadow := here.active } } ∧
    ∀ window count addr, UnitReads s (s.work k b (.sld window count addr)) k [(addr, 2048 * count)] [] s.nextId
      fun x => { x with scale := Mem.write x.scale (2048 * window) (rowBytes s k (addr, 2048 * count)) }

/-- An integer operand of the matrix unit: signed or unsigned, of 8 or 16 bits (Table 7-1). -/
def Sys2Proof.operandInt (ty x : Nat) : Int :=
  if ty = 3 then (BitVec.ofNat 8 x).toInt else if ty = 5 then (BitVec.ofNat 16 x).toInt else x

/-- Bytes of an integer operand. -/
def Sys2Proof.operandBytes (ty : Nat) : Nat := if ty = 3 ∨ ty = 4 then 1 else 2

/-- The blocks of row r of a tile, and of column c of the active plane, with their scales (R37, R40, Table 7-2). -/
def Sys2Proof.rowBlocks (x : Core) (tile ty window r scaleRow : Nat) (bs : Bool) : List (List FVal × FVal) :=
  mmaBlocks ty bs x.scale (scaleAt ty window scaleRow) (Mem.bytes (x.tile tile) (256 * r) 256)

def Sys2Proof.columnBlocks (x : Core) (c : Nat) : List (List FVal × FVal) :=
  mmaBlocks x.active.ty x.active.bs x.scale (scaleAt x.active.ty x.active.psw c) (Mem.bytes x.active.data (256 * c) 256)

/-- What the matrix words compute: MMA adds to each of the 64 by 256 elements of its tile, or to zero, the product of a row of
its source's quarter and a column of the active plane, exactly and modulo 2^32 for integers, block by block with FP32 rounding
otherwise; TADD adds element by element; TCVT converts each element into its place, narrowing into one part of the tile or
widening from one part of the source (R40, R41, R188, R192, R193). -/
def Sys2Proof.MatrixArithmetic : Prop :=
  ∀ (s : State) (k dst src ty : Nat) (b : Bundle), SoundTiles (s.core (coreOf k)) →
    let here := s.core (coreOf k)
    (∀ quarter window acc bs scale, quarter < 4 →
      let old := fun (r c : Nat) => if acc then tileElem here dst 4 (256 * r + c) else 0
      ∃ m, Works s (s.work k b (.mma dst src ty quarter window acc bs scale)) k b [src] [dst] true false
          (mmaWindows here.active ty window bs) (fun x => withTile x dst m) ∧
        (3 ≤ ty → ty ≤ 6 → mmaClass here.active.ty = mmaClass ty → ∀ r c, r < 64 → c < 256 →
          let e := operandBytes ty
          let n := 256 / e
          Mem.le m (4 * (256 * r + c)) 4 = wrap 32 (old r c + ((List.range n).map fun i =>
            operandInt ty (tileElem here src e ((64 * quarter + r) * n + i)) *
              operandInt here.active.ty (Mem.le here.active.data (e * (c * n + i)) e)).sum)) ∧
        (ty ≤ 2 ∨ ty = 7 → ∀ r c, r < 64 → c < 256 →
          Mem.le m (4 * (256 * r + c)) 4 = mmaElem (scaleValue scale) (scaleValue here.active.pts) (old r c)
            (rowBlocks here src ty window (64 * quarter + r) r bs) (columnBlocks here c) % 2 ^ 32)) ∧
    (∃ m, Works s (s.work k b (.tadd dst src ty)) k b (if src = dst then [] else [src]) [dst] false false 0
        (fun x => withTile x dst m) ∧
      ∀ i, i < 16384 → Mem.le m (4 * i) 4 =
        let x := tileElem here dst 4 i
        let y := tileElem here src 4 i
        if ty = 8 then fpAdd .fp32 .rne x y % 2 ^ 32 else (x + y) % 2 ^ 32) ∧
    ∀ dt st part sat scale,
      let es := otBytes st
      let ed := otBytes dt
      ∃ m, Works s (s.work k b (.tcvt dst src dt st part sat scale)) k b [src] [dst] false false 0 (fun x => withTile x dst m) ∧
        (ed ≤ es → part < es / ed →
          (∀ i, i < 65536 / es → Mem.le m (part * (65536 * ed / es) + ed * i) ed =
            tcvtElem dt st sat scale (tileElem here src es i) % 2 ^ (8 * ed)) ∧
          ∀ i, (i < part * (65536 * ed / es) ∨ (part + 1) * (65536 * ed / es) ≤ i) →
            Mem.read m i = Mem.read (here.tile dst) i) ∧
        (es < ed → part < ed / es → ∀ i, i < 65536 / ed →
          Mem.le m (ed * i) ed = tcvtElem dt st sat scale (tileElem here src es (part * (65536 / ed) + i)) % 2 ^ (8 * ed))

/-- What the matrix words do once accepted. -/
def Obligations.MatrixWork : Prop := Sys2Proof.MatrixMoves ∧ Sys2Proof.MatrixArithmetic

/-- The matrix word of a bundle whose other words have executed and whose unit is free, that may be accepted: of the contexts
of its core whose words may be, none became so before (R177, Table 7-3). -/
def Sys2Proof.MayAccept (s : State) (k : Nat) (b : Bundle) (w : MtxWork) : Prop :=
  (s.ctx k).inflight.head? = some b ∧ b.mtx = some w ∧ b.traps = [] ∧ s.lemant.power ≠ .trip ∧
  (∀ x ∈ b.words, if x.slot = 5 then x.progress = .started else x.progress = .executed) ∧
  (∀ e ∈ b.effects, s.effectOk k e.2 = true ∧ s.effectWaits k e.2 = false) ∧
  s.unitReady (coreOf k) w = true ∧ s.workChk w = .ok ∧ s.adrAwaits k b w.sources = [] ∧
  b.endsIn (s.ctx k).state = true ∧
  (∀ j, (s.mtxOrder.find? fun u => coreOf u == coreOf k && s.acceptable u) = some j → j = k)

/-- The device once a matrix word has been accepted: its work has taken place, and its word has executed. -/
def Sys2Proof.accepted (s : State) (k : Nat) (b : Bundle) (w : MtxWork) : State :=
  let t := s.work k b w
  let core : Core := { t.core (coreOf k) with badMtx := w.errors (t.core (coreOf k)).badMtx }
  let u : State := { t with cores := SMap.set t.cores (coreOf k) core }
  let c : Context := { u.ctx k with
    inflight := (u.ctx k).inflight.map fun x =>
      if x.pos = b.pos then
        { x with
          mtx := none
          words := x.words.map fun y => if y.slot = 5 then { y with progress := .executed } else y }
      else x }
  { u with ctxs := SMap.set u.ctxs k c }

/-- MTX_ACCEPTANCE: acceptance is the execution of the matrix word, with which its bundle commits; an MMA of another class than
the active plane is an ENGINE_FAULT, and an error in what it reads, or in what the network has brought it, a MACHINE_CHECK,
taken in a state from which a trap suspends (Table 4-3). The unit is ready for an MMA when no other is in flight, for MLDS and
for MSWAP likewise, and for SLD when no MMA reads its windows. MTX_WORK_END: long work ends and its tiles are free (R177, R178,
R189, R385, Table 7-3). That acceptance and commit are one boundary is the model's choice (log entry 63). -/
def Obligations.MatrixWorkIsAccepted : Prop :=
  ∀ (v : State) (k : Nat) (b : Bundle) (w : MtxWork),
    let s : State := { v with focus := { ticket := k, pos := b.pos, slot := 5 } }
    let here := s.core (coreOf k)
    let at_ := fun (p : OpKind → Prop) => ∀ o ∈ s.ops, ¬p o.kind
    let trap := fun (cls cause aux : Nat) => (s.ctx k).state.traps = true → firstDue 0 (s.ctx k).pending = none →
        After (.mtxAcceptance k) v fun t => Suspended s t k
      { cls := cls, cause := cause, slot := 5, addr := 0, aux := aux, level := 0, code := 0, isAsync := false, due := 0 }
      b.pos b.pc b.pos b.pc
    let bad := (b.words.find? fun x => x.slot == 5).bind (·.bad)
    let arrived := w.sources = [] ∨ bad = none
    (MayAccept s k b w →
      (s.classFault (coreOf k) w = false → arrived → s.upsetOf (s.ctx k).who (s.ctx k).asid s.die w.sources = none →
        (∀ x ∈ w.consumes here, x ∉ here.badMtx) →
        ∃ t, exec (.mtxAcceptance k) v = .next t ∧ exec (.bundleCommit k) (accepted s k b w) = .next t) ∧
      (∀ dst src ty quarter window acc bs scale, w = .mma dst src ty quarter window acc bs scale →
        mmaClass ty ≠ mmaClass here.active.ty → trap 8 0 s.curRaw) ∧
      (∀ cause, s.classFault (coreOf k) w = false → w.sources ≠ [] → bad = some cause → trap 11 cause 0) ∧
      (∀ x, s.classFault (coreOf k) w = false → arrived → s.upsetOf (s.ctx k).who (s.ctx k).asid s.die w.sources = none →
        x ∈ w.consumes here → x ∈ here.badMtx → trap 11 7 0) ∧
      (∀ u, s.classFault (coreOf k) w = false → arrived → s.upsetOf (s.ctx k).who (s.ctx k).asid s.die w.sources = some u →
        trap 11 u.cause 0)) ∧
    (∀ dst src ty quarter window acc bs scale,
      at_ (fun o => ∃ reads writes mlds windows, o = .mtx (coreOf k) reads writes true mlds windows) →
      s.unitReady (coreOf k) (.mma dst src ty quarter window acc bs scale) = true) ∧
    (∀ tile ty psw bs pts, at_ (fun o => ∃ reads writes mma windows, o = .mtx (coreOf k) reads writes mma true windows) →
      s.unitReady (coreOf k) (.mlds tile ty psw bs pts) = true) ∧
    (at_ (fun o => ∃ reads writes mma mlds windows, o = .mtx (coreOf k) reads writes mma mlds windows ∧ (mma || mlds) = true) →
      s.unitReady (coreOf k) .mswap = true) ∧
    (∀ window count addr, at_ (fun o => ∃ reads writes mlds windows, o = .mtx (coreOf k) reads writes true mlds windows ∧
        ∃ j, window ≤ j ∧ j < window + count ∧ windows.testBit j = true) →
      s.unitReady (coreOf k) (.sld window count addr) = true) ∧
    ∀ id o core reads writes mma mlds windows, v.opGet id = some o → o.kind = .mtx core reads writes mma mlds windows →
      After (.mtxWorkEnd id) v fun t => t = { v with ops := v.ops.filter fun x => x.id != id }
/-! ### Barriers and collectives -/

/-- A device barrier stands otherwise. -/
def Sys2Proof.withBarrier (s : State) (b : Nat) (x : Barrier) : State := { s with barriers := SMap.set s.barriers b x }

/-- One arrival has been counted: the last one flips the phase at the greatest time (R370, Table 17-1). -/
def Sys2Proof.counted (x : Barrier) (time : Nat) : Barrier :=
  if x.arrived + 1 = x.count then
    { x with state := 2, arrived := 0, ph := !x.ph, time := 0, flipTime := max x.time time }
  else { x with state := 1, arrived := x.arrived + 1, time := max x.time time }

/-- The result of an arrival: the phase it met, and bit 1 where it was the last (Table 17-3). -/
def Sys2Proof.arrivalWord (x : Barrier) : Word :=
  BitVec.ofNat 64 ((if x.ph then 1 else 0) + if x.arrived + 1 = x.count then 2 else 0)

/-- An arrival has reached its barrier: it is in flight no more, and its result lands in its issuer (R373). -/
def Sys2Proof.Arrives (i : Instr) (s u : State) (o : Op) (w : Who) (dest land : Nat) (x : Word) : Prop :=
  After i s fun t =>
    t = { u with ops := s.ops.filter (fun y =>
        y.id != o.id), floor := max s.floor o.time, ctxs := t.ctxs, launches := t.launches } ∧
    Changes u t w fun c => landing dest x land o.pos { c with awaited := c.awaited.filter fun a => a.op != o.id }

/-- BINIT_SUBOPERATION arms a FREE barrier and sets the count of one's own without arrivals, BINIT.free frees one's own, and
either fails otherwise. BARRIER_ARRIVAL counts an arrival at a barrier of the issuer's address space, or of its group, and lands
its result, 2^63 where there is no such barrier (R368 to R373, Tables 17-1, 17-3). -/
def Obligations.BarriersCount : Prop :=
  ∀ (s : State) (id b : Nat) (o : Op) (w : Who), InFlight s id o w →
    let x := s.deviceBarrier b
    let own := x.state ≠ 0 ∧ x.asid = o.asid ∧ x.arrived = 0
    let ends := fun (u : State) (failed : Bool) => EndsAfter (.binitSuboperation id) s u o w failed fun c => c
    (∀ count, o.kind = .binit b count →
      s.lemant.power ≠ .trip →
      (x.state = 0 → ends (withBarrier s b
        { state := 1, asid := o.asid, count := count, arrived := 0, ph := false, time := 0, flipTime := 0 }) false) ∧
      (own → ends (withBarrier s b { x with state := 1, count := count }) false) ∧
      (x.state ≠ 0 → ¬own → ends s true)) ∧
    (o.kind = .binitFree b → s.lemant.power ≠ .trip →
      (own → (∀ e ∈ s.ctxs, ∀ ph raw pos, e.2.block ≠ some (.barrier b ph raw pos)) →
        ends { s with barriers := s.barriers.filter fun e => e.1 != b } false) ∧
      (¬own → ends s true)) ∧
    (∀ dest land, o.kind = .barr b false dest land →
      (x.state = 0 ∨ x.asid ≠ o.asid → Arrives (.barrierArrival id) s s o w dest land (BitVec.ofNat 64 (2 ^ 63))) ∧
      (x.state ≠ 0 → x.asid = o.asid →
        Arrives (.barrierArrival id) s (withBarrier s b (counted x o.time)) o w dest land (arrivalWord x))) ∧
    ∀ dest land l, o.kind = .barr b true dest land → s.launchOf w = some l →
      let g := SMap.getD l.groups (l.gidxOf w.inst) Barrier.free
      (g.state ≠ 0 → Arrives (.barrierArrival id) s { s with
        launches := SMap.set s.launches w.launch { l with groups := SMap.set l.groups (l.gidxOf w.inst) (counted g o.time) } }
        o w dest land (arrivalWord g)) ∧
      (g.state = 0 → Arrives (.barrierArrival id) s s o w dest land (BitVec.ofNat 64 (2 ^ 63)))

/-- The value that a collective gives an element from its participants, in the order of their keys and of their arrival (R366).
-/
def Sys2Proof.collValue (op ty : Nat) (tree : Bool) (keyed arrived : List Sys2Proof.Machine.Part) (e : Nat) : Nat :=
  let value := fun (p : Sys2Proof.Machine.Part) => p.data.getD e 0
  let combine := fun (x y : Nat) =>
    if ty = 2 then (if op = 0 then fpAdd .fp32 .rne x y else if op = 1 then fpMin .fp32 x y else fpMax .fp32 x y)
    else if ty = 1 then (modified op (BitVec.ofNat 64 x) (BitVec.ofNat 64 y)).toNat
    else (modified op (BitVec.ofNat 32 x) (BitVec.ofNat 32 y)).toNat
  match keyed, arrived with
  | k :: _, a :: rest =>
    if op = 7 then value k
    else if ty = 2 ∧ op = 0 ∧ tree = true then
      treeResult .fp32 .rne (treeRoot (Nat.log2 keyed.length + 1) (keyed.map fun p => some (value p)))
    else if ty = 2 then treeResult .fp32 .rne (some ((rest.map value).foldl combine (value a)))
    else (rest.map value).foldl combine (value a)
  | _, _ => 0

/-- What a COLL in flight has read of its buffer. -/
def Sys2Proof.gathered (o : Op) : Option (List Nat) :=
  match o.kind with
  | .coll _ got _ => got
  | _ => none

/-- A COLL in flight with what it has read, and with the result that it is to write. -/
def Sys2Proof.collecting (o : Op) (time : Nat) (got result : Option (List Nat)) : Op :=
  match o.kind with
  | .coll a _ _ => { o with time := time, kind := .coll a got result }
  | _ => o

/-- COLLECTIVE performs one sub-operation of a collective. One that can no longer be complete, or that its participants do not
agree on, ends with a failure for each; one that is not complete waits. Once it is complete, each participant's buffer is read;
the last read gives every COLL of it the result, at one time that follows them all, and each of them then writes the result over
its buffer and ends (on pages that are not encrypted). A collective within the device is complete once each of its instances has
contributed; it fails where one ends that has not, or had ended before one of its COLLs was sent. In TRIP none begins, and one
that has read a buffer completes (R366, R367, R416, Table 21-4). Contributions on this device arrive in the order of their
numbers (log entry 62), a participant that is denied the write of the result ends alone with TERR (61), and the result's writes
leave the tables as they are (108): the model's choices. -/
def Obligations.CollectivesReduce : Prop :=
  ∀ (s : State) (id gidx : Nat) (o : Op) (w : Who) (a : CollArg) (got : Option (List Nat)) (l : Launch),
    InFlight s id o w → Ordered s.ctxs → s.launchOf w = some l → gidx = l.gidxOf w.inst → o.wait = none →
    let verdict := s.collVerdict l w.launch a.scope gidx a.index
    let here := s.collOps l w.launch a.scope gidx a.index
    let away := if a.scope = 2 then s.fabParts (recTaskId l.task.record) a.index else []
    let k := if a.ty = 1 then 8 else 4
    let die := s.dieOfWho w
    let segs : List Seg := [(a.addr, a.count * k)]
    let begun := ∃ x ∈ here, gathered x.1 ≠ none
    (o.kind = .coll a got none → s.lemant.power = .trip → ¬begun → exec (.collective id) s = .next s) ∧
    (o.kind = .coll a got none → s.lemant.power ≠ .trip ∨ begun →
      (verdict = .fails → After (.collective id) s fun t =>
        t.ops = (s.ops.filter fun x => !here.any fun y => y.1.id == x.id) ∧ t.mem = s.mem ∧
        ∀ x ∈ here, ∀ g c, x.1.tag = some g → x.2.1.launch < 2 ^ 64 → t.whoCtx x.2.1 = some c →
          (c.tag g).err = true ∧ x.1.time ≤ (c.tag g).time) ∧
      (verdict = .awaits ∨ (verdict = .ready ∧ got ≠ none) → exec (.collective id) s = .next s) ∧
      (verdict = .ready → got = none → (∀ x ∈ here, x.1.denied = false) → s.reach w o.asid segs true true = .ok →
        s.upsetOf w o.asid die segs = none → a.op < 8 → (∀ f ∈ away, ∀ x ∈ f.2.data, x < 2 ^ (8 * k)) →
        After (.collective id) s fun t =>
          let data := s.collData w o.asid a
          let m := s.mark w o.asid die segs false
          let known := fun (x : Op) => if x.id = id then some data else gathered x
          ∃ time, o.time ≤ time ∧
            t = { m with
              lines := t.lines, l1 := t.l1, ops := t.ops, fabArrivals := t.fabArrivals
              lemant := { m.lemant with log := t.lemant.log }, freeIx := t.freeIx } ∧
            ((∃ x ∈ here, known x.1 = none) → t.fabArrivals = s.fabArrivals ∧
              t.ops = s.ops.map fun x => if x.id = id then collecting o time (some data) none else x) ∧
            ((∀ x ∈ here, known x.1 ≠ none) → ∀ keyed arrived : List Sys2Proof.Machine.Part,
              let parts := here.map (fun x => Sys2Proof.Machine.Part.mk (s.collKey l a.scope x.2.1.inst) x.1.id x.2.2.op x.2.2.ty
                  x.2.2.tree ((known x.1).getD [])) ++ away.map fun f => FabArrival.part f.1 f.2
              keyed.Perm parts → keyed.Pairwise (fun x y => x.key < y.key) →
              arrived.Perm parts → arrived.Pairwise (fun x y => x.arrived < y.arrived) →
              t.fabArrivals = s.fabArrivals.filter (fun f => !away.contains f) ∧
              ∃ result : List Nat, ∃ last, result.length = a.count ∧ time ≤ last ∧ (∀ x ∈ here, x.1.time ≤ last) ∧
                (∀ e, e < a.count → result.getD e 0 % 2 ^ (8 * k) = collValue a.op a.ty a.tree keyed arrived e % 2 ^ (8 * k)) ∧
                t.ops = s.ops.map fun x =>
                  if here.any (fun y => y.1.id == x.id) then collecting x last (known x) (some result) else x))) ∧
    (∀ result : List Nat, o.kind = .coll a got (some result) →
      (o.denied = true → EndsAfter (.collective id) s s o w true fun c => c) ∧
      (o.denied = false → s.reach w o.asid segs false true = .ok → ∀ bytes : List Byte, bytes.length = a.count * k →
        (∀ e, e < a.count → elem (8 * k) (leNat bytes) e = result.getD e 0 % 2 ^ (8 * k)) →
        let m := s.mark w o.asid die segs true
        Local (m.partsOf w o.asid die a.addr bytes) → After (.collective id) s fun t =>
          ∃ u time, Writes m u (m.partsOf w o.asid die a.addr bytes) ∧ o.time ≤ time ∧ u.tables = s.tables ∧
            Ends u t { o with time := time } w false fun c => c)) ∧
    (o.kind = .coll a got none → a.scope < 2 →
      let members := (List.range l.instances).filter fun i => a.scope != 0 || l.gidxOf i == gidx
      let present := fun (i : Nat) => ∃ x ∈ here, x.2.1.inst = i
      let agree := ∀ x ∈ here, x.2.2.op = a.op ∧ x.2.2.ty = a.ty ∧ x.2.2.tree = a.tree ∧ x.2.2.count = a.count
      let late := ∃ x ∈ here, x.1.failed = true
      (late ∨ (∃ i ∈ members, ¬present i ∧ i ∈ l.ended) → verdict = .fails) ∧
      (¬late → (∃ i ∈ members, ¬present i) → (∀ i ∈ members, i ∈ l.ended → present i) → verdict = .awaits) ∧
      (¬late → (∀ i ∈ members, present i) → ¬agree → verdict = .fails) ∧
      (¬late → (∀ i ∈ members, present i) → agree → verdict = .ready)) ∧
    (a.scope = 2 → s.inSet s.fabid = false ∨
      (∃ f ∈ s.fabLost, f.1 = recTaskId l.task.record ∧ f.2.1 ≤ a.index ∧ a.index < f.2.2) → verdict = .fails)
/-! ### Tasks and queues -/

/-- A task has entered a queue under a fresh number: it takes the credits held for its TASKID, and stands in the run list, or in
the dependence pool while releases are still awaited (R346, R356). -/
def Sys2Proof.entered (s : State) (q : Nat) (t : Task) : State :=
  let x := s.queue q
  let key := recTaskId t.record
  let held := SMap.getD x.credits key 0
  let item : Task := { t with id := s.nextId, deps := t.deps - held }
  let y : Queue := { x with
    credits := if held = 0 ∨ t.deps = 0 then x.credits else if held ≤ t.deps then SMap.erase x.credits key
      else SMap.set x.credits key (held - t.deps)
    run := if t.deps ≤ held then x.run ++ [item] else x.run
    pool := if t.deps ≤ held then x.pool else x.pool ++ [item] }
  { s with nextId := s.nextId + 1, queues := SMap.set s.queues q y }

/-- A task with a record may enter a queue: the queue is enabled and not draining, has room, and, where it is a handler queue,
is given a handler's task; the kernel, where there is one, is of the task's address space (R359). -/
def Sys2Proof.MayEnter (s : State) (q record asid : Nat) (handler : Bool) : Prop :=
  let x := s.queue q
  x.state = .enabled ∧ x.drain = false ∧ (x.handler = true → handler = true) ∧ x.run.length + x.pool.length < 256 ∧
  ∀ k, SMap.get? s.kernels (recKernel record) = some k → k.asid = asid

/-- A dispatched item of a queue has completed; a queue that drains and has none left is DRAINED (Table 15-6). -/
def Sys2Proof.itemEnded (s : State) (q item : Nat) : State :=
  let x := s.queue q
  let rest := x.outstanding.filter fun i => i != item
  let y : Queue := { x with
    outstanding := rest
    state := if x.drain = true ∧ (x.state = .enabled ∨ x.state = .error) ∧ rest = [] then .drained else x.state }
  { s with queues := SMap.set s.queues q y }

/-- A queue of a device changes. -/
def Sys2Proof.withQueue (s : State) (q : Nat) (x : Queue) : State := { s with queues := SMap.set s.queues q x }

/-- A task that no service, node or pre-emption stands behind. -/
def Sys2Proof.plainTask (record : Nat) (asid : Option Nat) (time deps : Nat) : Task :=
  { id := 0, record := record, asid := asid, time := time, deps := deps, service := none, node := none, resume := none }

/-- TASK_ENTRY enters a spawned task, after its context's earlier spawns to that queue, or fails where it may not enter.
RECORD_TAKE takes the record at HEAD as a task, LAUNCH likewise a LAUNCH record, or puts the queue in ERROR with the reason that
the record gives. TASK_RECORD_ENQUEUE enters the task that an ACT 3 names, or loses it with an event, and then a node that has
waited for it ends, and after it the item (R330, R335, R345, R346,
R356, R359, R360). -/
def Obligations.TasksEnter : Prop :=
  ∀ (s : State) (q : Nat),
    (∀ id o w handler task, InFlight s id o w → o.kind = .tspawn q handler task →
      (∀ x ∈ s.ops, x.who = some w → x.id < id → ∀ h t, x.kind ≠ .tspawn q h t) →
      (MayEnter s q task.record o.asid handler →
        EndsAfter (.taskEntry id) s (entered s q { task with time := o.time }) o w false fun c => c) ∧
      (¬MayEnter s q task.record o.asid handler → EndsAfter (.taskEntry id) s s o w true fun c => c)) ∧
    (let x := s.queue q
     let pa := x.base * 64 + 64 * x.head
     let record := Mem.le s.mem pa 64
     let task := plainTask record none 0 (if recType record = 1 then recDeps record else 0)
     let taken := entered (withQueue s q { x with head := (x.head + 1) % (x.sizem1 + 1) }) q task
     x.state = .enabled → x.drain = false → x.head ≠ x.tail → x.run.length + x.pool.length < 256 → s.upsetIn .phys pa 64 = none →
      (recordReason record = none → After (.recordTake q) s fun t => t = taken) ∧
      (taskReason record = none → After (.launch q) s fun t => t = taken) ∧
      (∀ r, recordReason record = some r →
        After (.recordTake q) s fun t => t = withQueue s q { x with state := .error, reason := r })) ∧
    (∀ id o addr home item handler held, s.opGet id = some o → o.kind = .act3 q addr home item handler held → o.wait = none →
      let dropped : State := { s with ops := s.ops.filter fun x => x.id != id }
      let read : State := { s.mark noWho o.asid 0 [(addr, 64)] false with ops := dropped.ops }
      let record := leNat (s.readSeg noWho o.asid 0 (addr, 64))
      let ends := fun (u : State) => itemEnded (match held with
        | some (h, n, failed) => u.nodeEnds h n failed
        | none => u) home item
      let lost := fun (u : State) => ends (u.report 8 0 0 [q, 3, addr])
      let reached := s.spaceReach o.asid [(addr, 64)] true false = .ok ∧ s.upsetOf noWho o.asid 0 [(addr, 64)] = none
      let fit := taskReason record = none ∧ MayEnter s q record o.asid handler
      (o.denied = false → reached → fit → After (.taskRecordEnqueue id) s fun t => ∃ u time, o.time ≤ time ∧
        u = { read with
          lines := u.lines, l1 := u.l1, lemant := { read.lemant with log := u.lemant.log }, freeIx := u.freeIx } ∧
        t = ends (entered u q (plainTask record (some o.asid) time (recDeps record)))) ∧
      (o.denied = false → reached → ¬fit → After (.taskRecordEnqueue id) s fun t => t = lost read) ∧
      (o.denied = true → After (.taskRecordEnqueue id) s fun t => t = lost dropped)) ∧
    ∀ record, let type := recType record
      (type = 0 ∨ 5 < type → recordReason record = some 1) ∧
      (type = 1 → taskMbz record = true → recordReason record = some 2) ∧
      (type = 1 → taskMbz record = false → taskShapeBad record = true → recordReason record = some 3) ∧
      (type = 1 → taskMbz record = false → taskShapeBad record = false → 4 < recC record → recordReason record = some 4) ∧
      (type = 1 → taskMbz record = false → taskShapeBad record = false → recC record ≤ 4 →
        recArgp record % 8 ≠ 0 ∨ recFaultB record % 256 ≠ 0 → recordReason record = some 5)

/-- What a write of QCTL makes of a queue (Table 15-3): it takes PRIO, ORD, PRE and DRAIN, and while DISABLED its size, HANDLER
and FIX; EN enables it empty, its absence disables it when idle or DRAINED, and a draining queue with nothing outstanding is
DRAINED, which it leaves when DRAIN is cleared. A write that asks a DISABLED queue for a ring of one record is ignored
(Table 15-6). That pre-empted tasks stay with a queue that is enabled or disabled, and that EN is judged by the state before the
write, are the model's choices (log entries 35 and 91). -/
def Sys2Proof.controlled (x : Queue) (v : Nat) : Queue :=
  let en := v.testBit 0
  let drain := v.testBit 1
  let prio := v / 2 ^ 16 % 8
  let size := v / 2 ^ 32 % 2 ^ 20
  let fix := v / 2 ^ 10 % 4
  let y : Queue := { x with
    prio := prio, eprio := if prio = x.prio then x.eprio else prio, pre := v.testBit 3, ord := v.testBit 8, drain := drain }
  let z : Queue := { y with sizem1 := size, handler := v.testBit 9, fix := if fix = 3 then 0 else fix }
  let done : QState := if drain = true ∧ x.outstanding = [] then .drained else .enabled
  match x.state with
  | .disabled =>
    if en = true ∧ 1 ≤ size then
      { z with
        state := done, reason := 0, head := 0, tail := 0, cursor := 0, eprio := prio
        run := x.run.filter fun t => t.resume.isSome
        pool := [], credits := [], fixnext := 0 }
    else if en = true then x
    else z
  | .enabled =>
    if en = false ∧ x.run = [] ∧ x.head = x.tail then { y with state := .disabled, run := [], pool := [], credits := [] }
    else { y with state := done }
  | .drained =>
    if en = false then
      { y with state := .disabled, reason := 0, run := x.run.filter fun t => t.resume.isSome, pool := [], credits := [] }
    else if drain = true then y else { y with state := .enabled, reason := 0 }
  | .error => { y with state := if drain = true ∧ x.outstanding = [] then .drained else .error }

/-- The writes of QCTL and QTAIL do what Table 15-3 and Table 15-7 say; a queue that is enabled takes in the ready nodes of its
graphs. EPRIO of a queue that has not dispatched for its time rises by one, to 7 at most (R344, R347, R350; of pre-empted tasks
and of EN, see `controlled` and log entries 35 and 91). -/
def Obligations.QueuesAreControlled : Prop :=
  ∀ (s : State) (q : Nat) (v : Word), q < 64 → (∀ e ∈ s.graphs, e.2.queue ≠ q) →
    let x := s.queue q
    let n := v.toNat
    let now := fun (i : Instr) => After i s fun t => t = withQueue s q (controlled x n)
    (x.state = .disabled → n.testBit 0 = true → now (.queueEnable q v)) ∧
    (x.state ≠ .disabled → n.testBit 0 = false → now (.queueDisable q v)) ∧
    (x.drain = false → n.testBit 1 = true → now (.drainSet q v)) ∧
    (x.drain = true → n.testBit 1 = false → now (.drainClear q v)) ∧
    (x.prio ≠ n / 2 ^ 16 % 8 → now (.prioChange q v)) ∧
    (x.state = .disabled → After (.qtail q v) s fun t => t = s) ∧
    (x.state ≠ .disabled → n % 2 ^ 20 ≤ x.sizem1 →
      After (.qtail q v) s fun t => t = withQueue s q { x with tail := n % 2 ^ 20 }) ∧
    (x.state = .enabled → x.drain = false → x.sizem1 < n % 2 ^ 20 →
      After (.qtail q v) s fun t => t = withQueue s q { x with state := .error, reason := 8 }) ∧
    (x.state = .enabled → x.run ≠ [] ∨ x.head ≠ x.tail →
      After (.eprioAging q) s fun t => t = withQueue s q { x with eprio := min 7 (x.eprio + 1) })
/-! ### Launches -/

/-- The head of a queue has left the run list as dispatched: EPRIO is PRIO again, and the round-robin order of its level goes on
after the queue (R349, R350). -/
def Sys2Proof.left (s : State) (q : Nat) (t : Task) : State :=
  let x := s.queue q
  let y : Queue := { x with
    run := x.run.filter fun y => y.id != t.id
    eprio := x.prio
    outstanding := x.outstanding ++ [t.id]
    lastItem := some t.id }
  { s with queues := SMap.set s.queues q y, lastQueue := SMap.set s.lastQueue x.eprio q }

/-- A task with nothing behind it, on a queue without a fixture list which no node of a graph is ready to enter. -/
def Sys2Proof.Plain (s : State) (q : Nat) (t : Task) : Prop :=
  t.service = none ∧ t.node = none ∧ t.resume = none ∧ (s.queue q).fix = 0 ∧
    ∀ e ∈ s.graphs, e.2.queue = q → e.2.readyNodes = []

/-- A context as an instance begins: its registers zero, at the kernel's entry, with the CSRs of its place (R78, R333). -/
def Sys2Proof.begun (l : Launch) (id inst base hdr floor k : Nat) (tiles : List Nat) : Context :=
  { Context.empty with
    who := { launch := id, inst := inst }
    state := .ready
    handler := l.handler
    asid := l.asid
    pc := base + hdrEntry hdr
    nbv := BitVec.ofNat 64 (hdrNbv hdr)
    pbk := BitVec.ofNat 64 (if hdrPboff hdr = 0 then 0 else base + hdrPboff hdr)
    ltime := max floor l.task.time
    town := BitVec.ofNat 64 ((tiles.map (2 ^ ·)).sum)
    grants := BitVec.ofNat 64 ((tiles.map (2 ^ ·)).sum)
    core := coreCsr k
    inst := BitVec.ofNat 64 inst
    grpb := l.grpb inst
    grps := l.grps
    argp := BitVec.ofNat 64 (recArgp l.task.record % 2 ^ 56 / 8 * 8)
    fltp := BitVec.ofNat 64 ((recFaultB l.task.record + 256 * hdrFslot hdr * inst) % 2 ^ 56 / 256 * 256) }

/-- TASK_DISPATCH dispatches the first ready queue of the highest level, in cyclic order: an error puts the queue into ERROR,
an error in its fixture record with an event, a task that cannot be placed ends, and a task with a place takes the lowest EMPTY
contexts of each core of its rectangle, with the lowest free tiles, whose instances begin READY; nothing else is taken (R78,
R80, R332, R333, R336, R348, R349, R352, R369). That the lowest tiles go to the contexts in increasing context number (log
entry 92) and that an error in a fixture record is ERROR 9 (125) are the model's choices. -/
def Obligations.TasksAreDispatched : Prop :=
  ∀ (s : State) (q : Nat) (t : Task),
    (∀ r, s.chosen = some (q, r) → q < 64 ∧ s.ready q = some r ∧
      let start := match SMap.get? s.lastQueue (s.queue q).eprio with
        | some j => j + 1
        | none => 0
      ∀ j, j < 64 → s.ready j ≠ none → (s.queue j).eprio < 8 → (s.queue j).eprio ≤ (s.queue q).eprio ∧
        ((s.queue j).eprio = (s.queue q).eprio → (q + 64 - start % 64) % 64 ≤ (j + 64 - start % 64) % 64)) ∧
    (∀ e, s.chosen = some (q, .error 9) → s.fixtureUpset (s.queue q) = some e →
      After .taskDispatch s fun u => u = withQueue (s.reportUpset e) q { s.queue q with state := .error, reason := 9 }) ∧
    (∀ reason, s.chosen = some (q, .error reason) → reason ≠ 9 →
      After .taskDispatch s fun u => u = withQueue s q { s.queue q with state := .error, reason := reason }) ∧
    (∀ status, s.chosen = some (q, .ends t status) → Plain s q t → recAct t.record = 0 →
      After .taskDispatch s fun u => u = itemEnded (left s q t) q t.id) ∧
    ∀ c hdr p kn, s.chosen = some (q, .place t c hdr p) → Plain s q t → taskReason t.record = none →
      SMap.get? s.kernels (recKernel t.record) = some kn → hdr = kn.hdr → p.1 + 2 ^ recLw t.record ≤ 32 →
      let rect := rectangle (recLw t.record) (recLh t.record) p
      let n := hdrTiles hdr
      (∀ k ∈ rect, c ≤ (s.emptyContexts k).length ∧ c * n ≤ (s.freeTiles k).length) ∧
      After .taskDispatch s fun u => ∃ l : Launch,
        (l.task = t ∧ l.kernel = recKernel t.record ∧ l.asid = kn.asid ∧ l.queue = q ∧ l.handler = (s.queue q).handler ∧ l.c = c ∧
          l.lw = recLw t.record ∧ l.lh = recLh t.record ∧ l.gw = recGw t.record ∧ l.gh = recGh t.record ∧
          (l.x0, l.y0) = p ∧ (l.ox, l.oy) = p ∧ l.ended = [] ∧ l.faulted = false ∧ l.preempted = false) ∧
        (∀ g, g < l.ngrp → SMap.get? l.groups g = some
          { state := 1, asid := kn.asid, count := l.groupSize, arrived := 0, ph := false, time := 0, flipTime := 0 }) ∧
        u.launches = SMap.set s.launches s.nextId l ∧
        u.kernels = SMap.set s.kernels (recKernel t.record) { kn with live := kn.live + 1 } ∧
        u.nextId = s.nextId + 1 ∧ u.mem = s.mem ∧ u.ops = s.ops ∧ u.lastQueue = SMap.set s.lastQueue (s.queue q).eprio q ∧
        (∀ j, u.queue j = if j = q then { (left s q t).queue q with cursor := (u.queue q).cursor } else s.queue j) ∧
        (∀ (e j k x : Nat), rect[e]? = some k → j < c → (s.emptyContexts k)[j]? = some x →
          u.ctx x = begun l s.nextId (e * c + j) kn.base hdr s.floor k (((s.freeTiles k).drop (j * n)).take n)) ∧
        (∀ x, (s.ctx x).state ≠ .empty ∨ coreOf x ∉ rect → u.ctx x = s.ctx x) ∧
        (∀ k ∈ rect, heavy hdr = true → (u.core k).scratch = [] ∧ (u.core k).scale = [] ∧
          (u.core k).active = Plane.zero ∧ (u.core k).shadow = Plane.zero) ∧
        ∀ k, k ∉ rect → u.core k = s.core k

/-- The sixteen bytes of a completion record (Table 14-6). -/
def Sys2Proof.completionBytes (taskid status reason handle node : Nat) : List Byte :=
  leBytes 8 taskid ++ leBytes 8 (status + 2 ^ 8 * reason + 2 ^ 16 * handle + 2 ^ 32 * node)

/-- The completion action of a launch whose instances have all ended: none, an arrival at a device barrier in the address space
of its task (R334), a completion record, or a release (R335). -/
def Sys2Proof.acted (s : State) (id : Nat) (l : Launch) : State :=
  let r := l.task.record
  let x := s.deviceBarrier (recActArg r)
  if recAct r = 1 then
    (if x.state = 0 ∨ x.asid ≠ l.task.asid.getD l.asid then s else withBarrier s (recActArg r) (counted x l.time))
  else if recAct r = 2 then
    (if recActAddr r = 0 then s
     else hostSent s (recActAddr r) (completionBytes (recTaskId r) (if l.faulted then 1 else 0) 0 (recKernel r) 0)
       ((List.range l.instances).map fun i => { launch := id, inst := i }))
  else if recAct r = 4 then s.release (recActArg r) (recActVal r)
  else s

/-- LAUNCH_COMPLETION, once every instance of a launch has ended and nothing that one of them did is outstanding: the launch is
no more, its completion action takes place, its queue counts it complete, and its kernel has one live launch fewer. A release
lowers the oldest pooled task of its TASKID, which is ready at 0, or is kept as a credit (R334, R335, R356, Table 14-2). -/
def Obligations.LaunchesComplete : Prop :=
  ∀ (s : State) (id q key : Nat) (l : Launch) (kn : Kernel),
    (SMap.get? s.launches id = some l → l.ended.length = l.instances →
      (∀ o ∈ s.ops, ∀ w, o.who = some w → w.launch ≠ id) →
      (∀ k ∈ s.cores, ∀ e ∈ k.2.log, e.who.launch ≠ id) → l.task.service = none → l.task.node = none →
      recAct l.task.record ≠ 3 → SMap.get? s.kernels l.kernel = some kn → kn.state ≠ .unloading ∨ 1 < kn.live →
      (recAct l.task.record = 2 → HostReach s (recActAddr l.task.record) 16) →
      After (.launchCompletion id) s fun t =>
        let ended : State := { s with
          launches := SMap.erase s.launches id
          floor := max s.floor l.time
          fabArrivals := s.fabArrivals.filter fun f => f.2.taskid != recTaskId l.task.record
          fabLost := s.fabLost.filter fun f => f.1 != recTaskId l.task.record }
        t = { itemEnded (acted ended id l) l.queue l.task.id with
          kernels := SMap.set s.kernels l.kernel { kn with live := kn.live - 1 } }) ∧
    (let x := s.queue q
     (x.state = .disabled → s.release q key = s.report 8 0 0 [q, key]) ∧
     (∀ before t after, x.state ≠ .disabled → x.pool = before ++ t :: after → (∀ y ∈ before, recTaskId y.record ≠ key) →
       recTaskId t.record = key →
       (t.deps ≤ 1 → s.release q key =
         withQueue s q { x with pool := before ++ after, run := x.run ++ [{ t with deps := 0 }] }) ∧
       (1 < t.deps → s.release q key =
         withQueue s q { x with pool := before ++ { t with deps := t.deps - 1 } :: after })) ∧
     (x.state ≠ .disabled → (∀ y ∈ x.pool, recTaskId y.record ≠ key) →
       (SMap.get? x.credits key ≠ none ∨ x.credits.length < 256 → s.release q key =
         withQueue s q { x with credits := SMap.set x.credits key (SMap.getD x.credits key 0 + 1) }) ∧
       (SMap.get? x.credits key = none → 256 ≤ x.credits.length → x.state = .enabled → s.release q key =
         withQueue s q { x with state := .error, reason := 10 })))

/-- The registers of a saved context, with what has landed in them before the next position, stand in its block of the save area
at their offsets of Table 18-9. -/
def Sys2Proof.areaHolds (m : Mem) (b : Nat) (c : Context) : Prop :=
  Mem.bytes m (b + 256) 512 = (List.range 64).flatMap (fun j => leBytes 8 (c.readS (c.pos - 1) j).toNat) ∧
  Mem.bytes m (b + 768) 64 = (List.range 16).flatMap (fun j => leBytes 4 (c.readI (c.pos - 1) j).toNat) ∧
  Mem.bytes m (b + 832) 128 = (List.range 8).flatMap (fun j => leBytes 16 (c.readP (c.pos - 1) j).toNat) ∧
  Mem.bytes m (b + 1024) 7680 = (List.range 60).flatMap (fun j => leBytes 128 (c.readV (c.pos - 1) j).toNat) ∧
  Mem.bytes m (b + 8704) 4096 = (List.range 16).flatMap (fun j => leBytes 256 (c.readA (c.pos - 1) j).toNat)

/-- PRE_EMPTION: the first candidate of a queue's head takes the cores of a launch of lower PRIO with no FAULTED context, whose
contexts are SAVED at their oldest uncommitted bundle, with a run of the save region of its own that holds their registers (log
entry 28: other fields are free), and whose task returns to the front of its queue. LAUNCH_RESUME, or the dispatch of that
task, puts them back READY with all that they held; TOWN reads as before, whichever tiles are granted anew (log entry 104).
Memory outside the area is as it was (R91, R351, R390 to R394, Table 18-9).
-/
def Obligations.LaunchesArePreEmpted : Prop :=
  ∀ (s : State) (q id : Nat) (t : Task) (p : Nat × Nat) (l : Launch) (kn : Kernel),
    Ordered s.ctxs → SMap.get? s.launches id = some l → SMap.get? s.kernels l.kernel = some kn →
    let mine := fun (k : Nat) => (s.ctx k).who.launch = id ∧ (s.ctx k).state ≠ .empty
    (∀ area, s.preempting q = some (t, p) → l.preempted = false →
      (∃ k, mine k ∧ coreOf k ∈ rectangle (recLw t.record) (recLh t.record) p) → (∀ k, mine k → (s.ctx k).state ≠ .faulted) →
      (s.queue l.queue).prio < (s.queue q).prio → s.saveRun (l.saveSize kn.hdr) = some area →
      (∀ j k, mine j → mine k → (s.ctx j).who.inst = (s.ctx k).who.inst → j = k) →
      After (.preEmption q id) s fun u => ∃ m : Launch, SMap.get? u.launches id = some m ∧
        m = { l with
          preempted := true, saved := m.saved, savedCores := m.savedCores, area := area, areaLen := l.saveSize kn.hdr } ∧
        (∀ k, mine k → u.ctx k = Context.empty ∧
          let c := s.ctx k
          SMap.get? m.saved c.who.inst = some { (match c.inflight with
            | b :: _ => c.discard b.pos b.pc
            | [] => c.discard c.pos c.pc) with state := .saved }) ∧
        (∀ k, ¬mine k → u.ctx k = s.ctx k) ∧
        (∀ a, a < area ∨ area + l.saveSize kn.hdr ≤ a → Mem.read u.mem a = Mem.read s.mem a) ∧
        (∀ k c, mine k → (s.ctx k).who.inst < l.instances → SMap.get? m.saved (s.ctx k).who.inst = some c →
          areaHolds u.mem (area + (s.ctx k).who.inst * (81920 + 65536 * hdrTiles kn.hdr)) c) ∧
        u.queue l.queue = { s.queue l.queue with run := { l.task with resume := some id } :: (s.queue l.queue).run } ∧
        ∀ j, j ≠ l.queue → u.queue j = s.queue j) ∧
    (∀ n area, s.saveRun n = some area →
      area + n ≤ (s.saveb.toNat / 2 ^ 16 % 2 ^ 36 + s.savel.toNat % 2 ^ 36) * 65536 ∧
      ∀ e ∈ s.launches, 0 < e.2.areaLen → area + n ≤ e.2.area ∨ e.2.area + e.2.areaLen ≤ area) ∧
    ∀ i c hdr, i = .taskDispatch ∨ i = .launchResume id → s.chosen = some (q, .place t c hdr p) → t.resume = some id →
      t.node = none → l.lw ≤ 5 → l.lh ≤ 4 → p.1 + 2 ^ l.lw ≤ 32 →
      After i s fun u =>
        u.launches = (SMap.modify s.launches id fun x =>
          { x with preempted := false, saved := [], savedCores := [], area := 0, areaLen := 0, x0 := p.1, y0 := p.2 }) ∧
        (∀ a, a < l.area ∨ l.area + l.saveSize hdr ≤ a → Mem.read u.mem a = Mem.read s.mem a) ∧ u.ops = s.ops ∧
        (∀ (e j k x : Nat) (old : Context), (rectangle l.lw l.lh p)[e]? = some k → j < l.c →
          (s.emptyContexts k)[j]? = some x → SMap.get? l.saved (e * l.c + j) = some old →
          u.ctx x = { old with
            state := .ready, reason := 0, arg := 0, block := if old.block = some .drain then some .drain else none
            grants := (u.ctx x).grants, core := coreCsr k }) ∧
        ∀ x, (s.ctx x).state ≠ .empty ∨ coreOf x ∉ rectangle l.lw l.lh p → u.ctx x = s.ctx x
/-! ### Kernels and graphs -/

/-- A completion record is on its way, where one is asked for (R331). -/
def Sys2Proof.reported (s : State) (off : Nat) (bs : List Byte) : State := if off = 0 then s else hostSent s off bs []

/-- A command record has completed with a status and a reason. -/
def Sys2Proof.completed (s : State) (q : Nat) (t : Task) (status reason : Nat) : State :=
  itemEnded (reported s (recWord t.record 2) (completionBytes (recTaskId t.record) status reason (recKernel t.record) 0)) q t.id

/-- A command record at the head of the chosen queue, which has no fixture list and which no node of a graph is ready to enter,
and whose completion record can be sent. -/
def Sys2Proof.Chosen (s : State) (q type : Nat) (t : Task) : Prop :=
  s.chosen = some (q, .command t) ∧ t.node = none ∧ t.resume = none ∧ recType t.record = type ∧ (s.queue q).fix = 0 ∧
  (∀ e ∈ s.graphs, e.2.queue = q → e.2.readyNodes = []) ∧ (recWord t.record 2 ≠ 0 → HostReach s (recWord t.record 2) 16)

/-- The kernel that a LOAD has begun. -/
def Sys2Proof.loadingKernel (q : Nat) (t : Task) : Kernel :=
  { state := .loading, asid := recBits t.record 0 47 32, base := recWord t.record 1, hdr := 0, code := [], captured := false
    live := 0, item := t.id, queue := q, off := recWord t.record 2, taskid := recTaskId t.record, wait := none, denied := [] }

/-- The end of LOADING: its completion record, and its item complete. -/
def Sys2Proof.loadEnded (s : State) (h : Nat) (k : Kernel) (status reason : Nat) : State :=
  itemEnded (reported s k.off (completionBytes k.taskid status reason h 0)) k.queue k.item

/-- LOAD makes its handle's entry LOADING, or completes BUSY; LOADING_CHECK captures the header, reads the directory of the
playbook of a header that is sound, and makes the kernel RESIDENT, its code pages executable and not writable and their bytes
its code, or removes it with the reason of the first check that fails; UNLOAD removes a kernel without live launches, or one
with them once they have ended (R62, R326 to R329, Tables 14-1 to 14-4). -/
def Obligations.KernelsAreLoaded : Prop :=
  ∀ (s : State) (q h : Nat) (t : Task) (k : Kernel),
    let u := left s q t
    (Chosen s q 2 t → h = recKernel t.record →
      (SMap.get? s.kernels h = none →
        After (.load q) s fun v => v = { u with kernels := SMap.set s.kernels h (loadingKernel q t) }) ∧
      (SMap.get? s.kernels h = some k → After (.load q) s fun v => v = completed u q t 4 0)) ∧
    (Chosen s q 3 t → h = recKernel t.record →
      (SMap.get? s.kernels h = none → After (.unload q) s fun v => v = completed u q t 2 0) ∧
      (SMap.get? s.kernels h = some k →
        (k.state ≠ .resident → After (.unload q) s fun v => v = completed u q t 2 0) ∧
        (k.state = .resident → k.live = 0 →
          After (.unload q) s fun v => v = completed { u with kernels := SMap.erase s.kernels h } q t 0 0) ∧
        (k.state = .resident → 0 < k.live → After (.unload q) s fun v => v = { u with
          kernels := SMap.set s.kernels h { k with
            state := .unloading, item := t.id, queue := q, off := recWord t.record 2, taskid := recTaskId t.record } }))) ∧
    (SMap.get? s.kernels h = some k → k.state = .loading → k.wait = none → k.captured = false →
      (k.off ≠ 0 → HostReach s k.off 16) →
      let gone : State := { s with kernels := SMap.erase s.kernels h }
      (spaceValid (s.space k.asid) = false → After (.loadingCheck h) s fun v => v = loadEnded gone h k 3 6) ∧
      (spaceValid (s.space k.asid) = true → k.base % 65536 ≠ 0 →
        After (.loadingCheck h) s fun v => v = loadEnded gone h k 3 5) ∧
      (∀ x m, spaceValid (s.space k.asid) = true → k.base % 65536 = 0 → s.loadFetch k k.base 128 = .bytes x →
        let read := s.mark noWho k.asid 0 [(k.base, 128)] false
        let at_ := k.base + hdrPboff x
        let got := read.loadFetch k at_ 256
        let reads := headerReason x = none ∧ hdrPboff x ≠ 0 ∧ hdrPboff x + 256 ≤ 2 ^ 32
        (∀ y, reads → got = .bytes y → m = read.mark noWho k.asid 0 [(at_, 256)] false) →
        (∀ u, reads → got = .bad u → m = (read.mark noWho k.asid 0 [(at_, 256)] false).reportUpset u) →
        (¬reads ∨ ((∀ y, got ≠ .bytes y) ∧ ∀ u, got ≠ .bad u) → m = read) →
        let c : Kernel := { k with hdr := x, captured := true }
        let pages := codePages k.base x
        (∀ r, m.imageChk c = .fails r →
          After (.loadingCheck h) s fun v => v = loadEnded { m with kernels := SMap.erase s.kernels h } h c 3 r) ∧
        (m.imageChk c = .ok → After (.loadingCheck h) s fun v =>
          ∃ w code, w = (pages.foldl (fun m va => m.setPte k.asid va 4 8) m) ∧
            (∀ i, i < hdrCodeLen x → Mem.read code i = (w.readSeg noWho k.asid 0 (k.base + hdrCodeOff x + i, 1)).headD 0) ∧
            let kernel : Kernel := { c with state := .resident, code := code, wait := none, denied := [] }
            v = loadEnded { w with kernels := SMap.set s.kernels h kernel } h c 0 0))) ∧
    (let x := k.hdr
     let found := fun (r : Nat) => s.imageChk k = .fails r
     (x % 2 ^ 32 ≠ 0x4B564B48 → found 1) ∧
     (x % 2 ^ 32 = 0x4B564B48 → x / 2 ^ 32 % 2 ^ 16 ≠ 1 → found 2) ∧
     (x % 2 ^ 32 = 0x4B564B48 → x / 2 ^ 32 % 2 ^ 16 = 1 → hdrBad x = true → found 3) ∧
     (x % 2 ^ 32 = 0x4B564B48 → x / 2 ^ 32 % 2 ^ 16 = 1 → hdrBad x = false → 2 ^ 32 < hdrCodeOff x + hdrCodeLen x → found 4))

/-- The graph that an upload makes of its header, nodes and edges (R339, Table 14-10). -/
def Sys2Proof.uploaded (asid header taskid : Nat) (nodes : List Nat) (edges : List (Nat × Nat)) : Graph :=
  { state := .uploaded, asid := asid, queue := header / 2 ^ 32 % 2 ^ 6, off := header / 2 ^ 128 % 2 ^ 64, taskid := taskid
    nodes := nodes.zipIdx.map fun x => (x.2, { record := x.1, preds := 0, status := 0, item := 0 })
    edges := edges, failed := none, reported := false }

/-- A graph of the store changes. -/
def Sys2Proof.withGraph (s : State) (h : Nat) (g : Graph) : State := { s with graphs := SMap.set s.graphs h g }

/-- A graph armed with nodes: none has run, and each awaits its predecessors (R341, Table 14-12). -/
def Sys2Proof.armed (g : Graph) (nodes : SMap Node) : Graph :=
  { g with
    state := .armed, failed := none, reported := false
    nodes := nodes.map fun e =>
      (e.1, { e.2 with status := 0, item := 0, preds := (g.edges.filter fun d => d.2 == e.1).length }) }

/-- KSTAT after a KICK: its graph, with a code where it was rejected. -/
def Sys2Proof.kickedWith (s : State) (v : Word) (code : Nat) : State :=
  { s with kick := BitVec.ofNat 64 (v.toNat % 2 ^ 56), kstat := BitVec.ofNat 64 (v.toNat % 2 ^ 8 + 2 ^ 8 * code) }

/-- Node n of a graph is complete: its successors have one predecessor fewer to await. -/
def Sys2Proof.nodeCompleted (g : Graph) (n : Nat) : Graph :=
  { g with nodes := (SMap.modify g.nodes n fun x => { x with status := 3 }).map fun e =>
      if (n, e.1) ∈ g.edges then (e.1, { e.2 with preds := e.2.preds - 1 }) else e }

/-- GRAPH puts a sound object into the store, or completes with the reason for which it cannot; GRAPH_DROP removes a graph that
does not run. KICK arms a graph at rest, whose roots then enter its queue as far as its task list has room, or is rejected in
KSTAT. GRAPH_NODE_COMPLETION counts a node complete, which may make its successors ready and the graph COMPLETE with its
completion record; a node that fails makes it FAULTED, which is reported once no node that was ready or running is left (R339
to R342, Tables 14-9 to 14-12). That ready nodes enter as far as the list has room (log entry 33) and wait while their queue is
DISABLED (34), the order of the checks of an upload (50), and that a graph that is FAULTED and not yet reported counts as busy
(53) are the model's choices. -/
def Obligations.GraphsRun : Prop :=
  ∀ (s : State) (q h n : Nat) (t : Task) (g : Graph) (v : Word),
    let u := left s q t
    (Chosen s q 4 t → h = recKernel t.record → s.uploading q = none →
      (SMap.get? s.graphs h = some g → After (.graph q) s fun w => w = completed u q t 4 0) ∧
      (SMap.get? s.graphs h = none → (∀ o ∈ s.ops, ∀ j y, o.kind = .upload j y → recKernel y.record ≠ h) →
        (∀ o ∈ s.ops, o.id < s.nextId) →
        let asid := recBits t.record 0 47 32
        let va := recWord t.record 1
        let taken : State := { u with nextId := s.nextId + 1 }
        let head := taken.mark noWho asid 0 [(va, 64)] false
        (spaceValid (s.space asid) = false → After (.graph q) s fun w => w = completed taken q t 5 6) ∧
        (∀ x y, spaceValid (s.space asid) = true → s.spaceFetch asid va 64 = .bytes x →
          let count := x / 2 ^ 48 % 2 ^ 16
          let size := 64 + 64 * count + 4 * (x / 2 ^ 64 % 2 ^ 32)
          let nodes := elems 512 count (y / 2 ^ 512)
          let edges := edgesOf (x / 2 ^ 64 % 2 ^ 32) (y / 2 ^ (512 + 512 * count))
          let whole := head.mark noWho asid 0 [(va, size)] false
          (∀ r, s.graphHeader x = some r → After (.graph q) s fun w => w = completed head q t 5 r) ∧
          (∀ r, s.graphHeader x = none → head.spaceFetch asid va size = .bytes y → graphReason nodes edges = some r →
            After (.graph q) s fun w => w = completed whole q t 5 r) ∧
          (s.graphHeader x = none → head.spaceFetch asid va size = .bytes y → graphReason nodes edges = none →
            After (.graph q) s fun w => w = completed
              (withGraph whole h (uploaded asid x (recTaskId t.record) nodes edges)) q t 0 0)))) ∧
    (Chosen s q 5 t → h = recKernel t.record →
      (SMap.get? s.graphs h = none → After (.graphDrop q) s fun w => w = completed u q t 2 0) ∧
      (SMap.get? s.graphs h = some g →
        let busy := g.state = .armed ∨ g.state = .running ∨ (g.state = .faulted ∧ g.reported = false)
        (busy → After (.graphDrop q) s fun w => w = completed u q t 4 0) ∧
        (¬busy → After (.graphDrop q) s fun w => w = completed { u with graphs := SMap.erase s.graphs h } q t 0 0))) ∧
    (h = v.toNat % 2 ^ 8 →
      (SMap.get? s.graphs h = none → After (.kick v) s fun w => w = kickedWith s v 4) ∧
      (SMap.get? s.graphs h = some g →
        let busy := g.state = .armed ∨ g.state = .running ∨ (g.state = .faulted ∧ g.reported = false)
        (busy → After (.kick v) s fun w => w = kickedWith s v 1) ∧
        (¬busy → v.toNat % 2 ^ 56 / 2 ^ 8 = 0 → After (.kick v) s fun w =>
          let a := armed g g.nodes
          let k := withGraph (kickedWith s v (s.kstat.toNat / 2 ^ 8 % 2 ^ 8)) h a
          let roots := (a.nodes.filter fun e => e.2.preds == 0).map (·.1)
          let enter := roots.take (256 - ((s.queue g.queue).run.length + (s.queue g.queue).pool.length))
          ((s.queue g.queue).state = .disabled ∨ enter = [] → w = k) ∧
          ((s.queue g.queue).state ≠ .disabled → enter ≠ [] → w = withGraph
            (enter.foldl (fun w n => entered w g.queue
              { plainTask (((SMap.get? g.nodes n).map (·.record)).getD 0) (some g.asid) s.floor 0 with node := some (h, n) }) k) h
            { a with
              state := .running
              nodes := a.nodes.map fun e => if e.1 ∈ enter then (e.1, { e.2 with status := 1 }) else e })) ∧
        (∀ head x, let va := v.toNat % 2 ^ 56 / 2 ^ 8 * 2 ^ 8
          let count := head % 2 ^ 64
          let read := s.mark noWho g.asid 0 [(va, 16)] false
          let m := read.mark noWho g.asid 0 [(va, 16 + 16 * count)] false
          let nodes := patched g.nodes (patchesOf (x % 2 ^ 64) x)
          ¬busy → va ≠ 0 → s.spaceFetch g.asid va 16 = .bytes head →
          (1024 < count → After (.kick v) s fun w => w = kickedWith read v 2) ∧
          (count ≤ 1024 → read.spaceFetch g.asid va (16 + 16 * count) = .bytes x →
          (patchBad (x % 2 ^ 64) g.nodes.length x = true → After (.kick v) s fun w => w = kickedWith m v 2) ∧
          (patchBad (x % 2 ^ 64) g.nodes.length x = false → (∃ e ∈ nodes, nodeBad e.2.record = true) →
            After (.kick v) s fun w => w = kickedWith m v 3) ∧
          (patchBad (x % 2 ^ 64) g.nodes.length x = false → (∀ e ∈ nodes, nodeBad e.2.record = false) →
            (s.queue g.queue).state = .disabled →
            After (.kick v) s fun w => w = withGraph (kickedWith m v (s.kstat.toNat / 2 ^ 8 % 2 ^ 8)) h (armed g nodes)))))) ∧
    ∀ x, SMap.get? s.graphs h = some g → SMap.get? g.nodes n = some x → x.status = 5 ∨ x.status = 6 →
      g.state = .running → g.failed = none → g.reported = false →
      let done := nodeCompleted g n
      let failed : Graph := { g with
        nodes := SMap.modify g.nodes n fun x => { x with status := 4 }, state := .faulted, failed := some n }
      let busy := fun (d : Graph) => ∃ e ∈ d.nodes, e.2.status = 1 ∨ e.2.status = 2 ∨ 5 ≤ e.2.status
      let ready := fun (d : Graph) => ∃ e ∈ d.nodes, e.2.status = 0 ∧ e.2.preds = 0
      (x.status = 5 → ¬ready done → busy done →
        After (.graphNodeCompletion h n) s fun w => w = itemEnded (withGraph s h done) g.queue x.item) ∧
      (x.status = 5 → (∀ e ∈ done.nodes, e.2.status = 3) → (g.off ≠ 0 → HostReach s g.off 16) →
        After (.graphNodeCompletion h n) s fun w => w = itemEnded
          (reported (withGraph s h { done with state := .complete, reported := true }) g.off
            (completionBytes g.taskid 0 0 h 0)) g.queue x.item) ∧
      (x.status = 6 → (¬ready failed ∧ busy failed) ∨ (ready failed ∧ 256 ≤ (s.queue g.queue).waiting) →
        After (.graphNodeCompletion h n) s fun w => w = itemEnded (withGraph s h failed) g.queue x.item) ∧
      (x.status = 6 → ¬ready failed → ¬busy failed → (g.off ≠ 0 → HostReach s g.off 16) →
        After (.graphNodeCompletion h n) s fun w => w = itemEnded
          (reported (withGraph s h { failed with reported := true }) g.off (completionBytes g.taskid 1 0 h n)) g.queue x.item)
/-! ### Links -/

/-- A link stands otherwise. -/
def Sys2Proof.withLink (s : State) (l : Nat) (x : Link) : State := { s with links := SMap.set s.links l x }

/-- Nothing in flight uses link l, no other device has contributed to a collective that is still to be performed, and nothing
waits to be sent on any link. -/
def Sys2Proof.Quiet (s : State) (l : Nat) : Prop :=
  s.fabArrivals = [] ∧ ∀ o ∈ s.ops, s.onLink l o = false ∧
    (o.ports ≠ [] ∨ ((∀ op wide ord va x y d n, o.kind ≠ .sysAmo op wide ord va x y d n) ∧
      ∀ off bs after, o.kind ≠ .hostWrite off bs after))

/-- A 32-bit counter that saturates. -/
def Sys2Proof.raisedBy (n k : Nat) : Nat := min (n + k) (2 ^ 32 - 1)

/-- A link has fenced with a cause, in hardware mode: out of service, counted, and reported (R406, R407, R424). -/
def Sys2Proof.fenced (s : State) (l cause : Nat) : State :=
  let x := s.link l
  State.report (withLink s l { x with
    state := .fenced, lanes := 0, successive := 0, retry := [], asks := none, line := [], asked := none
    fences := raisedBy x.fences 1, fcause := cause, hw := true }) 3 l 0 [l, cause]

/-- The states of a link, where nothing in flight uses it: enabled it trains with its counters cleared, disabled it is DOWN;
with all its lanes trained it is UP, with half of them, where that is allowed, DEGRADED, and otherwise it fences; so it does
where lanes fail, a flit fails its seventeenth time, or the partner falls silent; a RETRAIN, or the device itself up to three
times, trains a FENCED link again. A flit that is sent is kept; a sound flit with the number expected is taken; any other
counts a replay, and the partner is asked to replay from the one expected, which it sends again with those after it, as it does
after a change of lanes (R405 to R408, Tables 20-2, 20-3, 20-5). That only enable resets RETRAINS (log entry 73), what counts
as a replay and as the seventeenth failure (75), what a disable leaves, and that FCAUSE is kept on leaving DOWN (76), SRC of
the fence's event (84), and the numbers of flits with an empty retry buffer (107) are the model's choices. -/
def Obligations.LinksTrain : Prop :=
  ∀ (s : State) (l lanes : Nat) (v : Word) (f : Flit), l < 10 → Quiet s l →
    let x := s.link l
    let n := v.toNat
    let all := if l < 2 then 4 else 8
    let told : Link := { x with allowdeg := n.testBit 2, en := n.testBit 0 }
    let halved := x.allowdeg = true ∧ all ≤ 2 * lanes
    let usable := x.state = .up ∨ x.state = .degraded
    let sound := f.payload.length = 64 ∧ f.crc = flitCrc f.header f.payload
    (x.state = .down → n.testBit 0 = true → After (.linkEnable l v) s fun t => t = withLink s l { told with
      state := .training, lanes := 0, fences := 0, replays := 0, feccor := 0, successive := 0, retrains := 0
      expects := 0, sends := 0, retry := [], asks := none, line := [], asked := none }) ∧
    (x.state ≠ .down → n.testBit 0 = false → After (.linkDisable l v) s fun t => t = withLink s l { told with
      state := .down, fcause := 5, lanes := 0, successive := 0, retry := [], asks := none, line := [], asked := none }) ∧
    (x.state = .fenced → n.testBit 0 = true → n.testBit 1 = true →
      After (.retrain l v) s fun t => t = withLink s l { told with state := .training }) ∧
    (x.state = .training →
      (all ≤ lanes → After (.trainingComplete l lanes) s fun t => t = withLink s l { x with state := .up, lanes := all }) ∧
      (lanes < all → halved →
        After (.trainingComplete l lanes) s fun t => t = withLink s l { x with state := .degraded, lanes := all / 2 }) ∧
      (lanes < all → ¬halved → s.modesel.getLsbD 7 = true →
        After (.trainingTimeout l lanes) s fun t => t = fenced s l 4)) ∧
    (usable → lanes < all →
      (halved → After (.laneFailure l lanes) s fun t =>
        t = withLink s l { x with state := .degraded, lanes := all / 2, line := x.retry }) ∧
      (¬halved → s.modesel.getLsbD 7 = true → After (.laneFailure l lanes) s fun t => t = fenced s l 2)) ∧
    (x.state = .degraded → After (.laneRetraining l) s fun t =>
      t = withLink s l { x with state := .up, lanes := all, line := x.retry }) ∧
    (usable → After (.flitReceive l f) s fun t => t = withLink s l (
      if sound ∧ f.seq = x.expects then
        { x with feccor := raisedBy x.feccor f.corrected, successive := 0, expects := x.expects + 1, asks := none }
      else { x with
        feccor := raisedBy x.feccor f.corrected
        replays := raisedBy x.replays 1
        successive := if ¬sound ∧ f.seq = x.expects then x.successive + 1 else x.successive
        asks := some x.expects })) ∧
    (∀ header payload, usable → x.retry.length < 512 → payload.length = 64 →
      let g : Flit := { seq := x.sends, header := header, payload := payload, crc := flitCrc header payload, corrected := 0 }
      s.sendFlit l header payload =
        withLink s l { x with sends := x.sends + 1, retry := x.retry ++ [g], line := x.line ++ [g] }) ∧
    (∀ seq, usable → (∃ g ∈ x.retry, g.seq = seq) → ∃ times, s.flitsAsked l seq = withLink s l { x with
        line := x.line ++ x.retry.filter (fun g => decide (seq ≤ g.seq)), asked := some (seq, times) } ∧
      ((∀ n, x.asked ≠ some (seq, n)) → times = 1) ∧ ∀ n, x.asked = some (seq, n) → times = n + 1) ∧
    (usable → 17 ≤ x.successive ∨ (∃ seq n, x.asked = some (seq, n) ∧ 17 ≤ n) → s.modesel.getLsbD 7 = true →
        After (.retryExhausted l) s fun t => t = fenced s l 1) ∧
    (usable → s.modesel.getLsbD 7 = true → After (.partnerTimeout l) s fun t => t = fenced s l 3) ∧
    (x.hw = true → x.state = .fenced → x.en = true → x.retrains < 3 →
      After (.linkRetraining l) s fun t => t = withLink s l { x with state := .training, retrains := x.retrains + 1 })

/-- An asynchronous trap that an instance still on the device has yet to take, for its write `id` to a window (R381, R384,
R414). -/
def Sys2Proof.pends (id cause addr aux due : Nat) (c : Context) : Context :=
  { c with
    lostWrite := match c.lostWrite with
      | some k => some (min id k)
      | none => some id
    pending := c.pending ++ [Trap.mk 6 cause 8 addr aux 0 0 true due] }

/-- What is in flight on the links once an operation has ended. -/
def Sys2Proof.without (s : State) (id : Nat) : State := { s with ops := s.ops.filter fun x => x.id != id }

/-- The graphs once the work of node n of graph h has ended, with the status 5 or 6 by which GRAPH_NODE_COMPLETION goes on. -/
def Sys2Proof.nodeEnded (s : State) (h n status : Nat) : SMap Graph :=
  s.graphs.map fun e =>
    if e.1 = h then (e.1, { e.2 with nodes := SMap.modify e.2.nodes n fun x => { x with status := status } }) else e

/-- Nothing else waits to be sent on a link. -/
def Sys2Proof.NothingHeld (s : State) (id : Nat) : Prop :=
  ∀ o ∈ s.ops, o.id ≠ id → o.ports ≠ [] ∨ ((∀ op wide ord va x y d n, o.kind ≠ .sysAmo op wide ord va x y d n) ∧
    ∀ off bs after, o.kind ≠ .hostWrite off bs after)

/-- ACKNOWLEDGEMENT: a write on a link takes place at the far side, all of it at once, an AMO or CAS reads and writes its word
there, and its old word lands; in the device's own peer window a store takes place in the exported region. The host-window
write of a node completes it. REFUSAL: the bundle of a load takes LOAD_FAULT with the first byte in the page refused, a store
or atomic is an asynchronous LOAD_FAULT of its context, a copy ends with TERR, and a host-window write of the device itself is
lost with an event, and fails a node (R224, R242, R341, R386, R410, R413 to R415, R446). That a context keeps the mark of its
earliest lost write is the model's choice (log entry 77). Atomics in the device's own window are left out. -/
def Obligations.LinkAccessesEnd : Prop :=
  ∀ (s : State) (id : Nat) (o : Op), s.opGet id = some o → NothingHeld s id →
    let u := without s id
    let sent := o.ports ≠ [] ∧ o.wait = none ∧ s.windowHeld o = false
    (∀ segs w, o.kind = .sysWrite segs → o.who = some w → sent →
      ((∀ g ∈ segs, s.ownWindow g.1 = none) → After (.acknowledgement id) s fun t => t = { u with
        remote := segs.foldl (fun m g => Mem.write m g.1 g.2) s.remote, upsets := t.upsets }) ∧
      (∀ va bs off, segs = [(va, bs)] → s.ownWindow va = some off → s.exportChk off bs.length false true = .ok →
        let a := s.expb.toNat % 2 ^ 40 * 65536 + off
        let asid := s.expb.toNat / 2 ^ 48
        let m := s.mark noWho asid 0 [(a, bs.length)] true
        let parts := m.partsOf noWho asid 0 a bs
        Local parts → After (.acknowledgement id) s fun t => ∃ v, Writes m v parts ∧
          t = { v with ops := s.ops.filter (fun x => x.id != id), floor := t.floor } ∧ s.floor ≤ t.floor)) ∧
    (∀ off bs after, o.kind = .hostWrite off bs after → sent → s.hostHeld after = false →
      let put : State := { u with remote := Mem.write s.remote (hostBase + off) bs, floor := max s.floor o.time }
      (o.who = none → After (.acknowledgement id) s fun t => t = put) ∧
      (∀ h n, o.who = some { launch := 2 ^ 64 + h, inst := n } →
        After (.acknowledgement id) s fun t => t = { put with graphs := nodeEnded s h n 5 })) ∧
    (∀ op wide ord va x y dest land w, o.kind = .sysAmo op wide ord va x y dest land → o.who = some w → sent →
      s.ownWindow va = none →
      let n := if wide then 8 else 4
      let old := Mem.le s.remote va n
      let unsigned := op = some 3 ∨ op = some 4
      let value := if wide then BitVec.ofNat 64 old
        else if unsigned then (BitVec.ofNat 32 old).setWidth 64 else (BitVec.ofNat 32 old).signExtend 64
      let new := match op with
        | some f => some (if wide then (modified f (BitVec.ofNat 64 old) (BitVec.ofNat 64 x)).toNat
            else (modified f (BitVec.ofNat 32 old) (BitVec.ofNat 32 x)).toNat)
        | none => if old = y then some x else none
      x < 2 ^ (8 * n) → (∀ f, op = some f → f < 9) →
      After (.acknowledgement id) s fun t =>
        t = { u with
          remote := match new with
            | some z => Mem.write s.remote va (leBytes n z)
            | none => s.remote
          upsets := t.upsets, ctxs := t.ctxs, launches := t.launches } ∧
        Changes u t w fun c => landing dest value land o.pos { c with awaited := c.awaited.filter fun a => a.op != id }) ∧
    (∀ cause page, cause = 1 ∨ cause = 3 ∨ cause = 4 →
      let reason := fun (va : Nat) => if hostBase ≤ va then 1 else cause
      (∀ va bs rest w c, o.kind = .sysWrite ((va, bs) :: rest) → o.who = some w → o.ports ≠ [] → s.whoCtx w = some c →
        After (.refusal id (PeerRefusal.mk cause page)) s fun t => t = { u with ctxs := t.ctxs, launches := t.launches } ∧
          Changes u t w (pends o.id (reason va) va o.pc 0)) ∧
      (∀ op wide ord va x y dest land w c, o.kind = .sysAmo op wide ord va x y dest land → o.who = some w → o.ports ≠ [] →
        s.whoCtx w = some c →
        After (.refusal id (PeerRefusal.mk cause page)) s fun t => t = { u with ctxs := t.ctxs, launches := t.launches } ∧
          Changes u t w fun c => pends o.id (reason va) va o.pc land { c with awaited := c.awaited.filter fun a => a.op != id }) ∧
      (∀ off bs after, o.kind = .hostWrite off bs after → o.ports ≠ [] →
        let lost : State := { u with floor := max s.floor o.time }
        (o.who = none → After (.refusal id (PeerRefusal.mk cause page)) s fun t => t = lost.report 4 0 0 [off]) ∧
        (∀ h n, o.who = some { launch := 2 ^ 64 + h, inst := n } → After (.refusal id (PeerRefusal.mk cause page)) s fun t =>
          t = State.report { lost with graphs := nodeEnded s h n 6 } 4 0 0 [off])) ∧
      (∀ dst src len next w, o.kind = .cpy dst src len true next → o.who = some w → w.launch < 2 ^ 64 → inWindow dst = true →
        EndsAfter (.refusal id (PeerRefusal.mk cause page)) s s o w true fun c =>
          { c with lostWrite := some ((c.lostWrite.map (min o.id)).getD o.id) }) ∧
      (∀ segs slot w k va n, o.kind = .sysLoad segs slot → segs.head? = some (va, n) → o.who = some w → s.ticketOf w = some k →
        let here : State := { u with focus := { ticket := k, pos := o.pos, slot := slot } }
        let first := match (pagesOf segs)[page]? with
          | some p => p.2
          | none => va
        let tr := Trap.mk 6 (reason va) slot first here.curRaw 0 0 false 0
        Untrapped { s.ctx k with inflight := (s.ctx k).inflight.map (trapping o.pos slot tr) } →
        After (.refusal id (PeerRefusal.mk cause page)) s fun t => t = { here with ctxs := t.ctxs } ∧ (∀ j, j ≠ k →
            t.ctx j = s.ctx j) ∧
          t.ctx k = { s.ctx k with inflight := (s.ctx k).inflight.map (trapping o.pos slot tr) }))

/-- PEER_ACCESS: a peer's access within the exported region is translated in its address space and takes place as one read and
one write of device memory; where its page awaits mapping it waits here, and ends unanswered when that page is refused.
HOST_MEMORY_REQUEST: a write of the host takes place at its physical addresses, and a read leaves memory as it is; beyond the
physical address space the spec gives no answer, and the request stops. Nothing comes over a link that is not UP or DEGRADED
(R223, R234, R406, R409, R411, R413). The stop (log entry 10), that a peer's request reads the replicas of die 0 and the
alignment of an AMO is not checked again (88), and that atomics of peers and writes of the host leave the tables as they are
(108) are the model's choices. -/
def Obligations.OthersReachMemory : Prop :=
  ∀ (s : State) (link peer off n : Nat) (bs : List Byte),
    let asid := s.expb.toNat / 2 ^ 48
    let va := s.expb.toNat % 2 ^ 40 * 65536 + off
    let carries := (s.link link).state = .up ∨ (s.link link).state = .degraded
    let ask := fun (op : PeerOp) => Instr.peerAccess { link := link, source := peer, off := off, op := op }
    let port := 2 ≤ link ∧ link < 10
    let inside := fun (k : Nat) => 0 < k ∧ off + k ≤ s.expl.toNat % 2 ^ 31 * 65536
    let mapped := fun (k : Nat) (r w : Bool) =>
      ∀ p ∈ pagesOf [(va, k)], ∃ pa e level addr, s.page asid 0 p.2 r w false = .ok pa e level addr
    let m := fun (k : Nat) (w : Bool) => s.mark noWho asid 0 [(va, k)] w
    let parts := fun (x : List Byte) => (m x.length true).partsOf noWho asid 0 va x
    let sound := fun (k : Nat) => s.upsetOf noWho asid 0 [(va, k)] = none
    (carries → inside bs.length → port → mapped bs.length false true → Local (parts bs) →
      After (ask (.write bs)) s fun t => Writes (m bs.length true) t (parts bs)) ∧
    (carries → inside n → port → mapped n true false → sound n →
      After (ask (.read n)) s fun t => Writes (m n false) t []) ∧
    (∀ (op : Nat) (wide : Bool) (x : Word), let k := if wide then 8 else 4
      let old := leNat (s.readSeg noWho asid 0 (va, k))
      let z := if wide then (modified op (BitVec.ofNat 64 old) x).toNat
        else (modified op (BitVec.ofNat 32 old) (x.setWidth 32)).toNat
      op < 9 → x.toNat < 2 ^ (8 * k) → carries → inside k → port → mapped k true true → sound k →
      Local (parts (leBytes k z)) →
      After (ask (.amo op wide x)) s fun t => t.tables = s.tables ∧ Writes (m k true) t (parts (leBytes k z))) ∧
    (∀ (wide : Bool) (x y : Word), let k := if wide then 8 else 4
      let old := leNat (s.readSeg noWho asid 0 (va, k))
      let ps := if old = x.toNat % 2 ^ (8 * k) then parts (leBytes k y.toNat) else []
      carries → inside k → port → mapped k true true → sound k → Local ps →
      After (ask (.cas wide x y)) s fun t => t.tables = s.tables ∧ Writes (m k true) t ps) ∧
    (∀ ps, carries → inside bs.length → port →
      s.pagesChk asid 0 6 false true [] (pagesOf [(va, bs.length)]) = .wait ps →
      After (ask (.write bs)) s fun t =>
        let v := s.needPages asid ps true
        t = { v with ops := t.ops, nextId := v.nextId + 1 } ∧
        t.ops.map (fun o => (o.wait, o.kind)) = v.ops.map (fun o => (o.wait, o.kind)) ++
          [((ps.head?).map fun p => (asid, p.1), .peer { link := link, source := peer, off := off, op := .write bs })]) ∧
    (∀ op o, o.denied = true → s.goPeer o { link := link, source := peer, off := off, op := op } = without s o.id) ∧
    (∀ op, ¬carries → exec (ask op) s = .next s) ∧
    (carries → link < 2 → off + bs.length ≤ 2 ^ 52 → After (.hostMemoryRequest (.write link off bs)) s fun t =>
      t.tables = s.tables ∧ Writes s t [(.phys, off, bs)]) ∧
    (carries → link < 2 → off + n ≤ 2 ^ 52 → s.upsetIn .phys off n = none →
      After (.hostMemoryRequest (.read link off n)) s fun t => Writes s t []) ∧
    (¬carries → exec (.hostMemoryRequest (.read link off n)) s = .next s ∧
      exec (.hostMemoryRequest (.write link off bs)) s = .next s) ∧
    (carries → link < 2 → 2 ^ 52 < off + n → exec (.hostMemoryRequest (.read link off n)) s = .fault .physicalRange) ∧
    (carries → link < 2 → 2 ^ 52 < off + bs.length →
      exec (.hostMemoryRequest (.write link off bs)) s = .fault .physicalRange)
/-! ### The management controller and the device registers -/

/-- The management controller stands otherwise. -/
def Sys2Proof.managed (s : State) (f : Lemant → Lemant) : State := { s with lemant := f s.lemant }

/-- The values of a sample that the limits of Table 21-3 judge: the hottest die, the inlet, the input voltage, the average. -/
def Sys2Proof.seen (x : Sample) : List Nat := [x.dies.foldl max 0, x.inlet, x.volts, x.average]

/-- The power state becomes another, which makes an event of kind 5 with the state's number and sensor values (R419, R422). -/
def Sys2Proof.powered (s : State) (p : Power) (values : List Nat) : State :=
  if s.lemant.power = p then s
  else State.report (managed s fun l => { l with power := p }) 5 0 0
    ((if p = .normal then 0 else if p = .capped then 1 else if p = .hot then 2 else 3) :: values)

/-- What a sample says of the limits of Table 21-3: 115 °C on a die or an input of 48 to 54 V left, 105 °C or 45 °C at the
inlet, and 95 °C with 40 °C there. -/
def Sys2Proof.trips (x : Sample) : Prop := (∃ d ∈ x.dies, 460 ≤ d) ∨ x.volts < 4800 ∨ 5400 < x.volts
def Sys2Proof.heats (x : Sample) : Prop := (∃ d ∈ x.dies, 420 ≤ d) ∨ 180 ≤ x.inlet
def Sys2Proof.cools (x : Sample) : Prop := (∀ d ∈ x.dies, d ≤ 380) ∧ x.inlet ≤ 160

/-- The power states: a sample of every point of Table 21-1 that trips gives TRIP, one that heats HOT, and an average above
LIMIT CAPPED; HOT ends when the device has cooled, CAPPED when the average has stayed below 95 % of LIMIT, and TRIP by a write
of PCAP with the conditions clear; while the controller restarts its fixed comparators alone give TRIP (R420, R422, R423, Table
21-4). That SRC of the event is 0 (log entry 84), and that every sample ends the restart and a fixed comparator's trip discards
the sample (85), are the model's choices. -/
def Obligations.PowerIsHeld : Prop :=
  ∀ (s : State) (x : Sample) (die volt : Nat) (v : Word),
    let u := managed s fun l => { l with sample := some x, restarting := false }
    let p := s.lemant.power
    let above := s.lemant.limit < x.average
    let goes := fun (p : Power) => After (.sensorSample x) s fun t => t = powered u p (seen x)
    let limit := max 2000 (min 6600 (v.toNat % 2 ^ 16))
    let w := managed s fun l => { l with limit := limit }
    let clear := ∃ y, s.lemant.sample = some y ∧ ¬trips y
    x.dies.length = 96 → x.rails.length = 14 →
    (trips x → goes .trip) ∧
    (¬trips x → p = .trip → goes .trip) ∧
    (¬trips x → p ≠ .trip → p ≠ .hot → heats x → goes .hot) ∧
    (¬trips x → p = .hot → ¬cools x → goes .hot) ∧
    (¬trips x → p = .hot → cools x → goes (if above then .capped else .normal)) ∧
    (¬trips x → p = .normal → ¬heats x → goes (if above then .capped else .normal)) ∧
    (¬trips x → p = .capped → ¬heats x → goes .capped) ∧
    (∀ y, p = .capped → s.lemant.sample = some y → 100 * y.average < 95 * s.lemant.limit →
      After .capRelease s fun t => t = powered s .normal (seen y)) ∧
    (s.lemant.restarting = true → 460 ≤ die ∨ volt < 4800 ∨ 5400 < volt →
      After (.fixedComparatorTrip die volt) s fun t =>
        t = powered (managed s fun l => { l with sample := none }) .trip [die, volt]) ∧
    (∀ y, p = .trip → s.lemant.sample = some y → ¬trips y → After (.pcap v) s fun t => t = powered w .normal (seen y)) ∧
    (p ≠ .trip ∨ ¬clear → After (.pcap v) s fun t => t = w)

/-- An image passes both checks: its signature, over the digest of its bytes, is valid under a key with the fused hash, and its
security version is not below the fused one (R420; that the fused hash is the key's SHA-384 digest, and how a key and a
signature are laid out in bytes, is presumed, log entry 6). -/
def Sys2Proof.Passes (s : State) (x : FirmwareImage) : Prop :=
  sha384 x.key = s.lemant.fusedKey ∧ signatureValid x.key (sha384 x.bytes) x.signature = true ∧ s.lemant.fused ≤ x.security

/-- EVENT_LOG_READ reads the oldest records. FIRMWARE_UPDATE fills the inactive slot, pending where the image passes;
LEMANT_RESET starts a pending slot, or the other one where a start was not confirmed in time, which the confirmation and its
timeout decide. KEY_SLOT_LOAD loads a slot with a key for an authenticated request. DEVICE_RESET gives the device its reset
values, and leaves its memory and its management controller (R419 to R421). That the confirmation ends the restart (log entry
85), that a read of the log leaves it and answers in `readOut` (86), and how device reset meets the controller (87) are the
model's choices; the form of keys and signatures is presumed (6). -/
def Obligations.TheControllerServes : Prop :=
  ∀ (s : State) (n : Nat) (x : FirmwareImage),
    let l := s.lemant
    After (.eventLogRead n) s (fun t => t = managed s fun l => { l with readOut := l.log.take n }) ∧
    After (.firmwareUpdate x) s (fun t => ∃ pending, (pending = true ↔ Passes s x) ∧ t = managed s fun l =>
      { l with
        pending := pending
        slotA := if l.active = true then some x else l.slotA
        slotB := if l.active = true then l.slotB else some x }) ∧
    (l.pending = true → After .lemantReset s fun t => t = managed s fun l =>
      { l with active := !l.active, confirmed := false, pending := false, revert := false, restarting := true }) ∧
    (l.pending = false → l.revert = true → After .lemantReset s fun t => t = managed s fun l =>
      { l with active := !l.active, confirmed := true, revert := false, restarting := true }) ∧
    (l.pending = false → l.revert = false → After .lemantReset s fun t => t = managed s fun l =>
      { l with restarting := true }) ∧
    (l.confirmed = false → l.revert = false → After .firmwareConfirmation s fun t => t = managed s fun l =>
      { l with confirmed := true, restarting := false }) ∧
    (l.confirmed = false → After .firmwareConfirmationTimeout s fun t => t = managed s fun l => { l with revert := true }) ∧
    (∀ key, (n < 256 → After (.keySlotLoad (KeyLoad.mk n key) true) s fun t => t = managed s fun l =>
        { l with keys := SMap.set l.keys n (key % 2 ^ 512) }) ∧
      (256 ≤ n → exec (.keySlotLoad (KeyLoad.mk n key) true) s = .next s) ∧
          exec (.keySlotLoad (KeyLoad.mk n key) false) s = .next s) ∧
    ∃ t, exec .deviceReset s = .next t ∧ t.mem = s.mem ∧ t.remote = s.remote ∧
      t.lemant = { l with power := .normal, limit := 6600 } ∧
      (∀ k, t.ctx k = Context.empty) ∧ t.ops = [] ∧ t.kernels = [] ∧ t.launches = [] ∧ t.graphs = [] ∧ t.sets = [] ∧
      t.tables = [] ∧ t.plays = [] ∧ (∀ q, t.queue q = Queue.zero) ∧ (∀ b, t.deviceBarrier b = Barrier.free) ∧
      (∀ k, t.link k = Link.zero) ∧ t.modesel = 0x3FF ∧
      (t.astb, t.lscrReg, t.kick, t.kstat, t.unmap, t.ftriage, t.fcmd, t.saveb, t.savel, t.fabric) =
        (0, 0, 0, 0, 0, 0, 0, 0, 0, 0)

/-- A write of the register block reaches the register at its offset, each with its own conditions: the queues' base and fixture
list while DISABLED, the fabric's identity while every peer link is DOWN, the save region while every context is EMPTY (R337,
R344, R391, R398, R411, R417, R425, Table 14-8). -/
def Sys2Proof.RegistersAreWritten : Prop :=
  ∀ (s : State) (v : Word) (q k : Nat),
    let n := v.toNat
    let put := fun (off : Nat) (t : State) => After (.registerWrite off v) s fun u => u = t
    let down := ∀ j, j < 8 → (s.link (j + 2)).state = .down
    let same := fun (off : Nat) (i : Instr) => exec (.registerWrite off v) s = exec i s
    let x := s.queue q
    same 0x00 (.astb v) ∧ same 0x08 (.lscr v) ∧ same 0x10 (.modesel v) ∧ same 0x18 (.kick v) ∧ same 0x28 (.unmap v) ∧
    same 0x90 (.pcap v) ∧ same 0xA0 (.svcdone v) ∧
    put 0x20 { s with kstat := (s.kstat &&& 0xFF) ||| (s.kstat &&& ~~~v &&& 0xFF00) } ∧
    put 0x30 { s with ftriage := (s.ftriage &&& 0xFF00000000000000) ||| (v &&& 0xFFFFFFFFFFF03F) } ∧
    put 0x98 { s with svcr := v &&& 0xFFFFFFFFFFE000 } ∧
    (n % 8 = 1 → same 0x38 (.resume v)) ∧ (n % 8 = 3 → same 0x38 (.terminate v)) ∧
    put 0x40 (if s.allEmpty = true then { s with saveb := v &&& 0xFFFFFFFFF0000 } else s) ∧
    put 0x48 (if s.allEmpty = true then { s with savel := v &&& 0xFFFFFFFFF } else s) ∧
    (down → put 0x50 { s with fabric := v &&& 0xFF } ∧ put 0x58 { s with expb := v &&& 0xFFFF00FFFFFFFFFF } ∧
      put 0x60 { s with expl := v &&& 0x7FFFFFFF } ∧
      (k < 4 → put (0x70 + 8 * k) { s with csets := SMap.set s.csets k v })) ∧
    (¬down → put 0x50 s ∧ put 0x58 s ∧ put 0x60 s ∧ (k < 4 → exec (.registerWrite (0x70 + 8 * k) v) s = .next s)) ∧
    (q < 64 →
      put (0x1000 + 0x20 * q) (if x.state = .disabled then withQueue s q { x with base := n / 2 ^ 6 % 2 ^ 46 } else s) ∧
      ((∀ e ∈ s.graphs, e.2.queue ≠ q) → put (0x1008 + 0x20 * q) (withQueue s q (controlled x n))) ∧
      same (0x1018 + 0x20 * q) (.qtail q v) ∧
      put (0x2000 + 0x10 * q) (if x.state = .disabled then withQueue s q { x with fixb := n / 2 ^ 5 % 2 ^ 47 } else s) ∧
      put (0x2008 + 0x10 * q) (if x.state = .disabled then withQueue s q { x with fixcap := n / 2 ^ 32 } else s)) ∧
    (k < 10 → n.testBit 0 = true → (s.link k).state = .down → same (0x3000 + 0x20 * k) (.linkEnable k v)) ∧
    (k < 10 → n.testBit 0 = false → (s.link k).state ≠ .down → same (0x3000 + 0x20 * k) (.linkDisable k v)) ∧
    (k < 256 → put (0x4000 + 8 * k) { s with routes := SMap.set s.routes k (v &&& 0x80000000000000FF) })

/-- The writes of the device registers. The model's choices are those of log entries 81, 82 and 83. -/
def Obligations.DeviceRegisters : Prop := Sys2Proof.HostRegisters ∧ Sys2Proof.RegistersAreWritten

/-- Whether what a BLOCKED context waits for has come about (R73, Table 4-2). -/
def Sys2Proof.Met (s : State) (k : Nat) : Block → Prop
  | .loadq q n => n ≤ ((s.ctx k).held q).length ∧ ∀ e ∈ ((s.ctx k).held q).take n, e.filled = true
  | .result q => ∃ e rest, (s.ctx k).held q = e :: rest ∧ e.filled = true
  | .tagAny mask => ∃ g, g < 64 ∧ mask.getLsbD g = true ∧ ((s.ctx k).tag g).set = true
  | .tagAll mask => ∀ g, g < 64 → mask.getLsbD g = true → ((s.ctx k).tag g).set = true
  | .fence eng red => s.fenceHolds (s.ctx k) eng red = true
  | .barrier b phase _ _ =>
    (s.deviceBarrier b).state ≠ 0 ∧ (s.deviceBarrier b).asid = (s.ctx k).asid ∧ (s.deviceBarrier b).ph ≠ phase
  | .group phase _ => (s.groupBarrier (s.ctx k)).ph ≠ phase
  | .wake mask => ∃ x ∈ (s.core (coreOf k)).tokens, x.owner = (s.ctx k).who ∧ x.taken = none ∧
      (mask % 256 = 0 ∨ mask.testBit x.comp = true)
  | .drain => False

/-- A tag of a mask that still has commands to complete (Table 8-4). -/
def Sys2Proof.Outstanding (c : Context) (mask : Word) (g : Nat) : Prop :=
  mask.getLsbD g = true ∧ (c.tag g).set = false ∧ 0 < (c.tag g).count

/-- The flip that a context has found which waits for a barrier: the position of its BWAIT and the time of the flip (R374,
R375). -/
def Sys2Proof.flipOf (s : State) (c : Context) : Block → Option (Nat × Nat)
  | .barrier b _ _ pos => some (pos, (s.deviceBarrier b).flipTime)
  | .group _ pos => some (pos, (s.groupBarrier c).flipTime)
  | _ => none

/-- The flip that releases the BWAIT which a SAVED context has not ended, if it has happened: the position of the BWAIT and the
time of the flip (R374, R375). -/
def Sys2Proof.flipMet (s : State) (c : Context) : Option (Nat × Nat) :=
  match c.block with
  | some (.barrier b phase _ pos) =>
    let x := s.deviceBarrier b
    if x.state ≠ 0 ∧ x.asid = c.asid ∧ x.ph ≠ phase then some (pos, x.flipTime) else none
  | some (.group phase pos) =>
    let x := s.groupBarrier c
    if x.ph ≠ phase then some (pos, x.flipTime) else none
  | _ => none

/-- A SAVED context keeps the first flip of the barrier that it waits for until it resumes (R75, R369). -/
def Sys2Proof.keepsFlip (s : State) (c : Context) : Context :=
  match flipMet s c with
  | some m => if c.met.map (·.1) = some m.1 then c else { c with met := some m }
  | none => c

/-- After a step without encoding, a BLOCKED context whose wait is met is READY, and keeps the flip that it has met where it
waited for a barrier, as a SAVED one does until it resumes; ARG of one that waits on for tags is the lowest of them still
awaited; and nothing else has changed (R73 to R75, R216, R369, R374, R375). -/
def Sys2Proof.MetWaitsEnd : Prop :=
  ∀ (s : State) (k : Nat), Ordered s.ctxs →
    let t := s.releaseBlocked
    t = { s with
      ctxs := t.ctxs
      launches := s.launches.map fun e => (e.1, { e.2 with saved := e.2.saved.map fun x => (x.1, keepsFlip s x.2) }) } ∧
    Ordered t.ctxs ∧
    (∀ b, (s.ctx k).state = .blocked → (s.ctx k).block = some b → Met s k b →
      t.ctx k = { s.ctx k with
        state := .ready, reason := 0, arg := 0, block := none, met := flipOf s (s.ctx k) b }) ∧
    (∀ b, (s.ctx k).state = .blocked → (s.ctx k).block = some b → ¬Met s k b →
      t.ctx k = { s.ctx k with arg := (t.ctx k).arg } ∧
      (∀ mask g, b = .tagAny mask ∨ b = .tagAll mask → g < 64 → Outstanding (s.ctx k) mask g →
        (∀ h, h < g → ¬Outstanding (s.ctx k) mask h) → (t.ctx k).arg = g)) ∧
    ((s.ctx k).state ≠ .blocked ∨ (s.ctx k).block = none → t.ctx k = s.ctx k)
/-! ### The machine as a whole -/

/-- The maps of contexts and cores keep their keys rising. -/
def Sys2Proof.OrderedDevice (s : State) : Prop := Ordered s.ctxs ∧ Ordered s.cores

/-- The memories of a core are in canonical form. -/
def Sys2Proof.SoundCore (x : Core) : Prop :=
  (∀ e ∈ x.tiles, Mem.wf e.2 = true) ∧ Mem.wf x.active.data = true ∧ Mem.wf x.shadow.data = true ∧ Mem.wf x.scale = true ∧
  Mem.wf x.scratch = true

/-- Every memory of the device is in canonical form: rising addresses, and no byte that reads as if it were not listed. -/
def Sys2Proof.SoundMemories (s : State) : Prop :=
  Mem.wf s.mem = true ∧ Mem.wf s.lscr = true ∧ Mem.wf s.remote = true ∧ Mem.wf s.lemant.sram = true ∧
  (∀ e ∈ s.kernels, Mem.wf e.2.code = true) ∧ (∀ e ∈ s.cores, SoundCore e.2) ∧
  ∀ l ∈ s.launches, ∀ e ∈ l.2.savedCores, SoundCore e.2

/-- After device reset every context is EMPTY, every kernel ABSENT, every queue DISABLED, every device barrier FREE and every
link DOWN, no operation is in flight, MODESEL reads 0x3FF and every other register of the block at its head zero but PCAP,
whose LIMIT is 6600 W; its maps are ordered and its memories canonical. The registers of a context and the bytes of memory that
nothing has written read zero, which is the model's choice (log entries 1 and 12). -/
def Obligations.ResetValues : Prop :=
  let s := State.reset
  (∀ k, (s.ctx k).state = .empty) ∧ (∀ h, SMap.get? s.kernels h = none) ∧ (∀ q, (s.queue q).state = .disabled) ∧
  (∀ b, (s.deviceBarrier b).state = 0) ∧ (∀ l, (s.link l).state = .down) ∧ s.ops = [] ∧ s.graphs = [] ∧ s.sets = [] ∧
  s.tables = [] ∧ s.register 0x10 = 0x3FF ∧ s.register 0x90 = 6600 ∧
  (∀ off, off < 0x90 → off ≠ 0x10 → s.register off = 0) ∧ s.register 0x98 = 0 ∧ s.register 0xA0 = 0 ∧
  (∀ k m r, r ≠ .p 0 → regRead (s.ctx k) m r = 0) ∧ (∀ k m, regRead (s.ctx k) m (.p 0) = 2 ^ 128 - 1) ∧
  (∀ a, Mem.read s.mem a = 0) ∧ OrderedDevice s ∧ SoundMemories s

/-- Words written out from the encoding tables decode to their instructions: one of each slot, and the spec's own examples. -/
def Obligations.WordsDecode : Prop :=
  decodeSpace .scl 0x00304200 = .word (.add 3 1 2) false ∧
  decodeSpace .scl 0xA80207FD = .word (.dbnz 1 0x7FD) false ∧
  decodeSpace .adr 0x00511802 = .word (.ld 5 4 3 2) false ∧
  decodeSpace .adr 0x2870C460 = .word (.amo 7 3 4 1 1 0) false ∧
  decodeSpace .idx 0x08208004 = .word (.iaddi 2 2 4) false ∧
  decodeSpace .vec 0x00200112 = .word (.vadd 2 0 1 0 2 2) false ∧
  decodeSpace .mtx 0x00620A80 = .word (.tld 1 1 4 5 1) false ∧
  decodeSpace .eng 0x00328B30 = .word (.cpy 3 10 11 12) false ∧
  decodeSpace .eng 0x45424000 = .word (.rselp 20 9) false ∧
  decodeSpace .scl 0xFFFFFFFF = .bad

/-- The state in which a word of a slot of a context starts. -/
def Sys2Proof.focused (s : State) (k pos slot : Nat) : State := { s with focus := { ticket := k, pos := pos, slot := slot } }

/-- A word of a context that can start now, with the instruction that its raw word decodes to in its slot's opcode space: the
oldest of its slot that waits, which nothing holds back and whose operands hold no error (R84, R87). -/
def Sys2Proof.Startable (s : State) (k slot : Nat) (b : Bundle) (w : SlotWord) (i : Instr) : Prop :=
  ((s.ctx k).state = .ready ∨ (s.ctx k).state = .running ∨ (s.ctx k).state = .blocked ∨ (s.ctx k).state = .pageWait) ∧
  (s.ctx k).nextWord slot = some (b, w) ∧ w.slot = slot ∧ decodeSpace (slotSpace slot) w.raw = .word i false ∧
  w.startable = true ∧ s.heldBack k b slot i = false ∧ (focused s k b.pos slot).consumed k b slot i = none

/-- What follows every step: the contexts whose matrix word can be accepted stand in the order in which they became so, lower
ones first; a head that may pre-empt claims the cores of its first candidate, which it keeps until its task is placed (claims
that come at once stand in the order of the queues, which is the model's choice, log entry 123); and nothing else changes but
the selections of idle cores and the save areas of pre-empted launches (R92, R177, R351, R393). -/
def Sys2Proof.StepsEnd : Prop :=
  ∀ before s : State, Ordered s.ctxs →
    let u := before.afterStep s
    u = { s with picks := u.picks, mtxOrder := u.mtxOrder, mem := u.mem, upsets := u.upsets, tables := u.tables, claims := u.claims } ∧
    ((∀ e ∈ s.launches, e.2.preempted = false) → u.mem = s.mem ∧ u.upsets = s.upsets ∧ u.tables = s.tables) ∧
    (∃ new : List Nat, u.mtxOrder = s.mtxOrder.filter s.acceptable ++ new ∧ new.Pairwise (fun j k => j < k) ∧
      ∀ k, k ∈ new ↔ k ∈ s.ctxs.map (·.1) ∧ s.acceptable k = true ∧ k ∉ s.mtxOrder.filter s.acceptable) ∧
    (let kept := s.claims.filter fun c => (s.queue c.queue).run.any fun t => t.id == c.item
      ∃ new : List Claim, u.claims = kept ++ new ∧ (Ordered s.queues → (new.map (·.queue)).Pairwise (· < ·)) ∧
        ∀ c, c ∈ new ↔ c.queue ∈ s.queues.map (·.1) ∧ ∃ t p, s.preempting c.queue = some (t, p) ∧
          (∀ x ∈ kept, x.item ≠ t.id) ∧ c.item = t.id ∧ c.cores = rectangle (recLw t.record) (recLh t.record) p) ∧
    ∀ k t, SMap.get? u.picks k = some t → (s.ctx t).state = .ready ∧ (∀ j, coreOf j = k → (s.ctx j).state ≠ .running) ∧
      ((∀ x, SMap.get? s.picks k = some x → coreOf x = k) → coreOf t = k)

/-- What every event, and every step, ends with: waits that are met, and orders that are kept. -/
def Obligations.WaitsAndStepsEnd : Prop := Sys2Proof.MetWaitsEnd ∧ Sys2Proof.StepsEnd

/-- A step runs the decoded instruction: the next move of the schedule is a word of a slot, which starts with the meaning of
the instruction that it decodes to, a trap of its bundle following once its words have executed, or a step without encoding.
Where the schedule is empty, the RUNNING context of the focused core dispatches its next bundle and runs it; then follows what
follows every step (R50, R60, R73, R87). -/
def Obligations.StepsRunTheirInstruction : Prop :=
  ∀ (s : State) (k slot : Nat) (b : Bundle) (w : SlotWord) (i : Instr) (rest : List Move),
    (s.agenda = .word k slot :: rest →
      let u : State := { s with agenda := rest }
      Startable u k slot b w i → ∀ t, exec i (focused u k b.pos slot) = .next t →
        Machine.step s = .next (s.afterStep (t.takeTraps k).releaseBlocked)) ∧
    (s.agenda = .ev i :: rest → i.space? = none →
      (∀ t, exec i { s with agenda := rest } = .next t → Machine.step s = .next (s.afterStep t)) ∧
      ∀ f, exec i { s with agenda := rest } = .fault f → Machine.step s = .fault f) ∧
    (s.agenda = [] → coreOf k = coreOf s.focus.ticket → (s.ctx k).state = .running →
      (∀ j, j < 4 → 4 * coreOf k + j ≠ k → (s.ctx (4 * coreOf k + j)).state ≠ .running) →
      (s.ctx k).inflight = [] → firstDue (s.ctx k).pos (s.ctx k).pending = none →
      ∀ u, exec (.bundleDispatch k) s = .next u → (u.ctx k).inflight = [b] → b.words = [w] → b.mtx = none →
      (u.ctx k).pos ≠ (s.ctx k).pos →
      Startable u k slot b w i → slot < 8 →
      ∀ v, exec i (focused u k b.pos slot) = .next v →
        let x := (v.takeTraps k).releaseBlocked
        (x.ctx k).inflight = [{ b with words := [{ w with progress := .executed }] }] →
        ∀ y, exec (.bundleCommit k) x = .next y → (y.ctx k).pos ≠ (s.ctx k).pos →
          Machine.step s = .next (s.afterStep y))

/-- Decoding and encoding agree, in the opcode space of every slot word: the word of a well-formed instruction decodes to it,
and a word that decodes to an instruction without a set bit that must be zero is the word of that instruction, which is
well-formed (R52 to R56). -/
def Obligations.EncodingsDecode : Prop :=
  (∀ (i : Instr) (sp : Space), i.space? = some sp → i.wf = true → encode i < 2 ^ 32 ∧ decodeSpace sp (encode i) = .word i false) ∧
  ∀ (i : Instr) (sp : Space) (w : Nat), w < 2 ^ 32 → decodeSpace sp w = .word i false →
    i.space? = some sp ∧ i.wf = true ∧ encode i = w

/-- Every step keeps the contexts and the cores of the device each under its one number. -/
def Obligations.MapsStayOrdered : Prop :=
  ∀ s t : State, OrderedDevice s → Machine.step s = .next t → OrderedDevice t

/-- Every step keeps every memory of the device in canonical form, so that equal memories are equal data. -/
def Obligations.MemoriesStayCanonical : Prop :=
  ∀ s t : State, SoundMemories s → Machine.step s = .next t → SoundMemories t

/-- Every step of the device goes on, but a host memory request beyond the physical address space, which stops (R223; the stop
is the model's, log entry 10). -/
def Obligations.EveryStepGoesOn : Prop :=
  ∀ s : State, (∃ t, Machine.step s = .next t) ∨
    (Machine.step s = .fault .physicalRange ∧ ∃ r rest, s.agenda = .ev (.hostMemoryRequest r) :: rest ∧
      match r with
      | .read _ pa n => 2 ^ 52 < pa + n
      | .write _ pa bs => 2 ^ 52 < pa + bs.length)
end

