-- ==== Sys2Proof/Laws/Store.lean ====
section
/-!
SUPPORT. What reading finite maps and byte memories gives after each of their updates, and that every update of a memory
keeps its canonical form.
-/
namespace Sys2Proof.Machine

/-! ### Finite maps -/

theorem find_filter_key {α : Type} (m : SMap α) (p : Nat → Bool) (k : Nat) (h : p k = true) :
    (m.filter fun e => p e.1).find? (fun e => e.1 == k) = m.find? fun e => e.1 == k := by
  induction m with
  | nil => rfl
  | cons x xs ih =>
    simp only [List.filter_cons, List.find?_cons]
    cases hx : x.1 == k
    · cases hp : p x.1 <;> simp [hx, ih]
    · have : x.1 = k := by simpa using hx
      simp [this, h]

theorem find_filter_absent {α : Type} (m : SMap α) (p : Nat → Bool) (k : Nat) (h : p k = false) :
    (m.filter fun e => p e.1).find? (fun e => e.1 == k) = none := by
  simp only [List.find?_eq_none, List.mem_filter]
  rintro x ⟨-, hx⟩ hk
  have : x.1 = k := by simpa using hk
  simp [this, h] at hx

@[simp] theorem SMap.get_set_same {α : Type} (m : SMap α) (k : Nat) (v : α) : SMap.get? (SMap.set m k v) k = some v := by
  simp [SMap.get?, SMap.set, List.find?_append, find_filter_absent m (fun a => decide (a < k)) k]

theorem SMap.get_set_other {α : Type} (m : SMap α) (k j : Nat) (v : α) (h : j ≠ k) :
    SMap.get? (SMap.set m k v) j = SMap.get? m j := by
  have hk : (k == j) = false := by simp; omega
  unfold SMap.get? SMap.set
  rw [List.find?_append, List.find?_cons]
  simp only [hk]
  by_cases hj : j < k
  · rw [find_filter_key m (fun a => decide (a < k)) j (by simpa using hj),
      find_filter_absent m (fun a => decide (k < a)) j (by simp; omega)]
    simp
  · rw [find_filter_absent m (fun a => decide (a < k)) j (by simpa using hj),
      find_filter_key m (fun a => decide (k < a)) j (by simp; omega)]
    simp

/-- Of two values set at one key the last remains. -/
@[simp] theorem SMap.set_set {α : Type} (m : SMap α) (k : Nat) (v w : α) : SMap.set (SMap.set m k v) k w = SMap.set m k w := by
  have h1 : ∀ l : SMap α, (l.filter fun e => decide (k < e.1)).filter (fun e => decide (e.1 < k)) = [] := by
    intro l
    simp only [List.filter_eq_nil_iff, List.mem_filter, decide_eq_true_eq]
    rintro a ⟨-, h⟩ h'
    omega
  have h2 : ∀ l : SMap α, (l.filter fun e => decide (e.1 < k)).filter (fun e => decide (k < e.1)) = [] := by
    intro l
    simp only [List.filter_eq_nil_iff, List.mem_filter, decide_eq_true_eq]
    rintro a ⟨-, h⟩ h'
    omega
  simp [SMap.set, List.filter_append, h1, h2]

@[simp] theorem SMap.getD_set_same {α : Type} (m : SMap α) (k : Nat) (v d : α) : SMap.getD (SMap.set m k v) k d = v := by
  simp [SMap.getD]

theorem SMap.getD_set_other {α : Type} (m : SMap α) (k j : Nat) (v d : α) (h : j ≠ k) :
    SMap.getD (SMap.set m k v) j d = SMap.getD m j d := by
  simp [SMap.getD, SMap.get_set_other m k j v h]

theorem SMap.getD_set {α : Type} (m : SMap α) (k j : Nat) (v d : α) :
    SMap.getD (SMap.set m k v) j d = if j = k then v else SMap.getD m j d := by
  by_cases h : j = k
  · simp [h]
  · simp [h, SMap.getD_set_other]

@[simp] theorem SMap.get_erase_same {α : Type} (m : SMap α) (k : Nat) : SMap.get? (SMap.erase m k) k = none := by
  simp [SMap.get?, SMap.erase, find_filter_absent m (fun a => a != k) k]

theorem SMap.get_erase_other {α : Type} (m : SMap α) (k j : Nat) (h : j ≠ k) :
    SMap.get? (SMap.erase m k) j = SMap.get? m j := by
  simp [SMap.get?, SMap.erase, find_filter_key m (fun a => a != k) j (by simpa using h)]

/-- A map over the values changes the value that a key gives. -/
theorem SMap.get_map {α β : Type} (m : SMap α) (g : Nat → α → β) (k : Nat) :
    SMap.get? (m.map fun e => (e.1, g e.1 e.2)) k = (SMap.get? m k).map (g k) := by
  induction m with
  | nil => rfl
  | cons x xs ih =>
    simp only [SMap.get?, List.map_cons, List.find?_cons] at *
    cases hx : x.1 == k
    · exact ih
    · have : x.1 = k := by simpa using hx
      simp [this]

theorem SMap.get_modify {α : Type} (m : SMap α) (k j : Nat) (f : α → α) :
    SMap.get? (SMap.modify m k f) j = if j = k then (SMap.get? m j).map f else SMap.get? m j := by
  have := SMap.get_map m (fun a x => if a == k then f x else x) j
  have hm : SMap.modify m k f = m.map fun e => (e.1, if e.1 == k then f e.2 else e.2) := by
    unfold SMap.modify
    congr 1
    funext e
    cases e.1 == k <;> simp
  rw [hm, this]
  by_cases hj : j = k
  · simp [hj]
  · have : (j == k) = false := by simpa using hj
    cases SMap.get? m j <;> simp [hj]

/-! ### Memories -/

/-- The canonical form as one fact about order and one about values. -/
theorem Mem.wf_iff (m : Mem) :
    Mem.wf m = true ↔ m.Pairwise (fun e f => e.1 < f.1) ∧ ∀ e ∈ m, e.2 ≠ unlisted := by
  induction m with
  | nil => simp [Mem.wf]
  | cons x xs ih =>
    cases xs with
    | nil => simp [Mem.wf]
    | cons y ys =>
      simp only [Mem.wf, Bool.and_eq_true, bne_iff_ne, ne_eq, decide_eq_true_eq, ih, List.pairwise_cons,
        List.mem_cons, forall_eq_or_imp]
      constructor
      · rintro ⟨⟨hx, hxy⟩, ⟨hy, hys⟩, hv, hvs⟩
        exact ⟨⟨⟨hxy, fun a ha => Nat.lt_trans hxy (hy a ha)⟩, hy, hys⟩, hx, hv, hvs⟩
      · rintro ⟨⟨⟨hxy, -⟩, hy, hys⟩, hx, hv, hvs⟩
        exact ⟨⟨hx, hxy⟩, ⟨hy, hys⟩, hv, hvs⟩

theorem Mem.wf_nil : Mem.wf [] = true := rfl

/-- A part of a canonical memory is canonical. -/
theorem Mem.wf_filter (m : Mem) (p : Nat × Byte → Bool) (h : Mem.wf m = true) : Mem.wf (m.filter p) = true := by
  rw [Mem.wf_iff] at *
  exact ⟨h.1.filter _, fun e he => h.2 e (List.mem_filter.1 he).1⟩

theorem Mem.wf_clear (m : Mem) (a n : Nat) (h : Mem.wf m = true) : Mem.wf (Mem.clear m a n) = true := Mem.wf_filter m _ h

theorem Mem.mem_entries (a : Nat) (bs : List Byte) (e : Nat × Byte) :
    e ∈ Mem.entries a bs → a ≤ e.1 ∧ e.1 < a + bs.length ∧ e.2 ≠ unlisted := by
  induction bs generalizing a with
  | nil => simp [Mem.entries]
  | cons b bs ih =>
    intro h
    simp only [Mem.entries] at h
    split at h
    · obtain ⟨h1, h2, h3⟩ := ih (a + 1) h
      simp only [List.length_cons]
      exact ⟨by omega, by omega, h3⟩
    · rename_i hb
      rcases List.mem_cons.1 h with rfl | h
      · simp only [List.length_cons]
        refine ⟨Nat.le_refl _, by omega, ?_⟩
        simpa using hb
      · obtain ⟨h1, h2, h3⟩ := ih (a + 1) h
        simp only [List.length_cons]
        exact ⟨by omega, by omega, h3⟩

theorem Mem.wf_entries (a : Nat) (bs : List Byte) : Mem.wf (Mem.entries a bs) = true := by
  rw [Mem.wf_iff]
  refine ⟨?_, fun e he => (Mem.mem_entries a bs e he).2.2⟩
  induction bs generalizing a with
  | nil => simp [Mem.entries]
  | cons b bs ih =>
    simp only [Mem.entries]
    split
    · exact ih _
    · refine List.pairwise_cons.2 ⟨fun e he => ?_, ih _⟩
      have := (Mem.mem_entries (a + 1) bs e he).1
      simp only
      omega

/-- A write keeps the canonical form. -/
theorem Mem.wf_write (m : Mem) (a : Nat) (bs : List Byte) (h : Mem.wf m = true) : Mem.wf (Mem.write m a bs) = true := by
  rw [Mem.wf_iff] at h
  have he := (Mem.wf_iff _).1 (Mem.wf_entries a bs)
  have hm := Mem.mem_entries a bs
  rw [Mem.wf_iff]
  unfold Mem.write
  refine ⟨List.pairwise_append.2 ⟨List.pairwise_append.2 ⟨h.1.filter _, he.1, ?_⟩, h.1.filter _, ?_⟩, ?_⟩
  · intro x hx y hy
    have := (List.mem_filter.1 hx).2
    simp only [decide_eq_true_eq] at this
    have := (hm y hy).1
    omega
  · intro x hx y hy
    have hy := (List.mem_filter.1 hy).2
    simp only [decide_eq_true_eq] at hy
    rcases List.mem_append.1 hx with hx | hx
    · have := (List.mem_filter.1 hx).2
      simp only [decide_eq_true_eq] at this
      omega
    · have := (hm x hx).2.1
      omega
  · intro e hx
    rcases List.mem_append.1 hx with hx | hx
    · rcases List.mem_append.1 hx with hx | hx
      · exact h.2 e (List.mem_filter.1 hx).1
      · exact (hm e hx).2.2
    · exact h.2 e (List.mem_filter.1 hx).1

theorem Mem.find_entries (a : Nat) (bs : List Byte) (x : Nat) :
    (((Mem.entries a bs).find? fun e => e.1 == x).map (·.2)).getD unlisted =
      if a ≤ x ∧ x < a + bs.length then bs.getD (x - a) unlisted else unlisted := by
  induction bs generalizing a with
  | nil => simp [Mem.entries]
  | cons b bs ih =>
    have step : ∀ y, ¬(a = x) → ((if a + 1 ≤ x ∧ x < a + 1 + bs.length then bs.getD (x - (a + 1)) y else y) =
        if a ≤ x ∧ x < a + (bs.length + 1) then (b :: bs).getD (x - a) y else y) := by
      intro y hax
      by_cases hx : a + 1 ≤ x ∧ x < a + 1 + bs.length
      · rw [if_pos hx, if_pos (by omega)]
        have : x - a = (x - (a + 1)) + 1 := by omega
        rw [this, List.getD_cons_succ]
      · rw [if_neg hx, if_neg (by omega)]
    simp only [Mem.entries, List.length_cons]
    by_cases hax : a = x
    · subst hax
      by_cases hb : b = unlisted
      · simp only [hb, beq_self_eq_true, if_true, ih]
        rw [if_neg (by omega), if_pos (by omega)]
        simp
      · have : (b == unlisted) = false := by simpa using hb
        simp [this]
    · rw [← step unlisted hax]
      by_cases hb : b = unlisted
      · simp only [hb, beq_self_eq_true, if_true, ih]
      · have h1 : (b == unlisted) = false := by simpa using hb
        have h2 : (a == x) = false := by simpa using hax
        simp only [h1, Bool.false_eq_true, if_false, List.find?_cons, h2]
        exact ih (a + 1)

/-- Reading a byte after a write: a written byte, or what stood there. -/
theorem Mem.read_write (m : Mem) (a : Nat) (bs : List Byte) (x : Nat) :
    Mem.read (Mem.write m a bs) x =
      if a ≤ x ∧ x < a + bs.length then bs.getD (x - a) unlisted else Mem.read m x := by
  have hf := Mem.find_entries a bs x
  unfold Mem.read SMap.getD SMap.get? Mem.write
  rw [List.append_assoc, List.find?_append, List.find?_append]
  by_cases hx : a ≤ x ∧ x < a + bs.length
  · rw [find_filter_absent m (fun y => decide (y < a)) x (by simp; omega),
      find_filter_absent m (fun y => decide (a + bs.length ≤ y)) x (by simp; omega)]
    simpa [hx] using hf
  · rw [if_neg hx]
    have hn : (Mem.entries a bs).find? (fun e => e.1 == x) = none := by
      rw [List.find?_eq_none]
      intro e he hk
      have := Mem.mem_entries a bs e he
      have : e.1 = x := by simpa using hk
      omega
    rw [hn]
    by_cases hlo : x < a
    · rw [find_filter_key m (fun y => decide (y < a)) x (by simpa using hlo),
        find_filter_absent m (fun y => decide (a + bs.length ≤ y)) x (by simp; omega)]
      simp
    · rw [find_filter_absent m (fun y => decide (y < a)) x (by simpa using hlo),
        find_filter_key m (fun y => decide (a + bs.length ≤ y)) x (by simp; omega)]
      simp

/-- A byte outside a write is kept. -/
theorem Mem.read_write_outside (m : Mem) (a : Nat) (bs : List Byte) (x : Nat) (h : x < a ∨ a + bs.length ≤ x) :
    Mem.read (Mem.write m a bs) x = Mem.read m x := by
  rw [Mem.read_write, if_neg (by omega)]

/-- A run of writes keeps the canonical form. -/
theorem Mem.wf_writes (ps : List (Nat × List Byte)) (m : Mem) (h : Mem.wf m = true) :
    Mem.wf (ps.foldl (fun m e => Mem.write m e.1 e.2) m) = true := by
  induction ps generalizing m with
  | nil => exact h
  | cons p ps ih => exact ih _ (Mem.wf_write m p.1 p.2 h)

/-- A run of writes leaves the bytes outside them. -/
theorem Mem.read_writes_outside (ps : List (Nat × List Byte)) (m : Mem) (x : Nat)
    (h : ∀ e ∈ ps, x < e.1 ∨ e.1 + e.2.length ≤ x) :
    Mem.read (ps.foldl (fun m e => Mem.write m e.1 e.2) m) x = Mem.read m x := by
  induction ps generalizing m with
  | nil => rfl
  | cons p ps ih =>
    rw [List.foldl_cons, ih _ fun e he => h e (List.mem_cons_of_mem _ he)]
    exact Mem.read_write_outside m p.1 p.2 x (h p List.mem_cons_self)

/-- Cleared bytes read as unlisted, and every other byte is kept. -/
theorem Mem.read_clear (m : Mem) (a n x : Nat) :
    Mem.read (Mem.clear m a n) x = if a ≤ x ∧ x < a + n then unlisted else Mem.read m x := by
  unfold Mem.read SMap.getD SMap.get? Mem.clear
  by_cases hx : a ≤ x ∧ x < a + n
  · rw [find_filter_absent m (fun y => decide (y < a) || decide (a + n ≤ y)) x (by simp; omega)]
    simp [hx]
  · rw [find_filter_key m (fun y => decide (y < a) || decide (a + n ≤ y)) x (by simp; omega), if_neg hx]

@[simp] theorem Mem.bytes_length (m : Mem) (a n : Nat) : (Mem.bytes m a n).length = n := by
  induction n generalizing a with
  | zero => rfl
  | succ n ih => simp [Mem.bytes, ih]

theorem Mem.bytes_getD (m : Mem) (a n k : Nat) (d : Byte) (h : k < n) : (Mem.bytes m a n).getD k d = Mem.read m (a + k) := by
  induction n generalizing a k with
  | zero => omega
  | succ n ih =>
    cases k with
    | zero => simp [Mem.bytes]
    | succ k =>
      rw [Mem.bytes, List.getD_cons_succ, ih (a + 1) k (by omega)]
      congr 1
      omega

/-- Two memories that read alike over a range give the same bytes there. -/
theorem Mem.bytes_congr (m m' : Mem) (a n : Nat) (h : ∀ x, a ≤ x → x < a + n → Mem.read m x = Mem.read m' x) :
    Mem.bytes m a n = Mem.bytes m' a n := by
  induction n generalizing a with
  | zero => rfl
  | succ n ih =>
    simp only [Mem.bytes]
    rw [h a (Nat.le_refl _) (by omega), ih (a + 1) fun x h1 h2 => h x (by omega) (by omega)]

/-- The bytes of a range just written. -/
theorem Mem.bytes_write (m : Mem) (a : Nat) (bs : List Byte) : Mem.bytes (Mem.write m a bs) a bs.length = bs := by
  apply List.ext_getElem (by simp)
  intro k h1 h2
  have hk : k < bs.length := h2
  have := Mem.bytes_getD (Mem.write m a bs) a bs.length k unlisted hk
  rw [Mem.read_write, if_pos (by omega)] at this
  simpa [List.getD_eq_getElem?_getD, hk] using this

@[simp] theorem leBytes_length (n x : Nat) : (leBytes n x).length = n := by
  induction n generalizing x with
  | zero => rfl
  | succ n ih => simp [leBytes, ih]

/-- Little-endian bytes give back their number (R4). -/
theorem leNat_leBytes (n x : Nat) : leNat (leBytes n x) = x % 256 ^ n := by
  induction n generalizing x with
  | zero => simp [leBytes, leNat, Nat.mod_one]
  | succ n ih =>
    simp only [leBytes, leNat, ih, BitVec.toNat_ofNat]
    have h : 256 ^ (n + 1) = 256 * 256 ^ n := by rw [Nat.pow_succ, Nat.mul_comm]
    rw [h, Nat.mod_mul]

end Sys2Proof.Machine
end

