-- ==== Sys2Proof/Laws/Results.lean ====
section
/-!
SUPPORT. Results: what registers read as once a word has landed a result, and the frame of a word that does only that.
-/
namespace Sys2Proof.Machine

/-! ### The landing that remains -/

theorem over_trans {a b c : Landing} (h1 : a.over b = true) (h2 : b.over c = true) : a.over c = true := by
  simp only [Landing.over, Bool.or_eq_true, Bool.and_eq_true, decide_eq_true_eq, beq_iff_eq] at *
  omega

theorem over_total (a b : Landing) (h : a.over b = false) : b.over a = true := by
  simp only [Landing.over, Bool.or_eq_false_iff, Bool.and_eq_false_imp, Bool.or_eq_true, Bool.and_eq_true,
    decide_eq_true_eq, decide_eq_false_iff_not, beq_iff_eq] at *
  omega

/-- Where no landing remains, none of the list has landed. -/
theorem landed_none {α : Type} (f : Write → Option α) (m : Nat) (ls : List Landing) (h : landed f m ls = none) :
    ∀ l ∈ ls, (f l.write).isSome → ¬ l.pos ≤ m := by
  induction ls with
  | nil => simp
  | cons w ws ih =>
    simp only [landed] at h
    intro l hl hs hm
    cases hw : f w.write with
    | none =>
      simp only [hw] at h
      rcases List.mem_cons.1 hl with rfl | hl
      · simp [hw] at hs
      · exact ih h l hl hs hm
    | some q =>
      simp only [hw] at h
      by_cases hwm : w.pos ≤ m
      · rw [if_pos hwm] at h
        cases hr : landed f m ws with
        | none => simp [hr] at h
        | some r =>
          simp only [hr] at h
          split at h <;> cases h
      · rw [if_neg hwm] at h
        rcases List.mem_cons.1 hl with rfl | hl
        · exact hwm hm
        · exact ih h l hl hs hm

/-- The landing that remains is one of the list, and stands over every other that has landed. -/
theorem landed_some {α : Type} (f : Write → Option α) (m : Nat) (ls : List Landing) (b : Landing) (y : α)
    (h : landed f m ls = some (b, y)) :
    b ∈ ls ∧ f b.write = some y ∧ b.pos ≤ m ∧ ∀ l ∈ ls, (f l.write).isSome → l.pos ≤ m → b.over l = true := by
  induction ls generalizing b y with
  | nil => simp [landed] at h
  | cons l ls ih =>
    have refl : ∀ x : Landing, x.over x = true := by intro x; simp [Landing.over]
    simp only [landed] at h
    cases hl : f l.write with
    | none =>
      simp only [hl] at h
      obtain ⟨h1, h2, h3, h4⟩ := ih b y h
      refine ⟨List.mem_cons_of_mem _ h1, h2, h3, ?_⟩
      intro x hx hs hp
      rcases List.mem_cons.1 hx with rfl | hx
      · simp [hl] at hs
      · exact h4 x hx hs hp
    | some x =>
      simp only [hl] at h
      by_cases hp : l.pos ≤ m
      · rw [if_pos hp] at h
        cases hr : landed f m ls with
        | none =>
          simp only [hr, Option.some.injEq, Prod.mk.injEq] at h
          obtain ⟨rfl, rfl⟩ := h
          refine ⟨List.mem_cons_self, hl, hp, ?_⟩
          intro z hz hs hzm
          rcases List.mem_cons.1 hz with rfl | hz
          · exact refl _
          · exact absurd hzm (landed_none f m ls hr z hz hs)
        | some r =>
          obtain ⟨r1, r2⟩ := r
          obtain ⟨i1, i2, i3, i4⟩ := ih r1 r2 hr
          simp only [hr] at h
          by_cases ho : r1.over l = true
          · rw [if_pos ho] at h
            simp only [Option.some.injEq, Prod.mk.injEq] at h
            obtain ⟨rfl, rfl⟩ := h
            refine ⟨List.mem_cons_of_mem _ i1, i2, i3, ?_⟩
            intro z hz hs hzm
            rcases List.mem_cons.1 hz with rfl | hz
            · exact ho
            · exact i4 z hz hs hzm
          · rw [if_neg ho] at h
            simp only [Option.some.injEq, Prod.mk.injEq] at h
            obtain ⟨rfl, rfl⟩ := h
            refine ⟨List.mem_cons_self, hl, hp, ?_⟩
            intro z hz hs hzm
            rcases List.mem_cons.1 hz with rfl | hz
            · exact refl _
            · exact over_trans (over_total _ _ (by simpa using ho)) (i4 z hz hs hzm)
      · rw [if_neg hp] at h
        obtain ⟨h1, h2, h3, h4⟩ := ih b y h
        refine ⟨List.mem_cons_of_mem _ h1, h2, h3, ?_⟩
        intro z hz hs hzm
        rcases List.mem_cons.1 hz with rfl | hz
        · exact absurd hzm hp
        · exact h4 z hz hs hzm

/-- What remains after one more result, the last to be issued. -/
theorem landed_concat {α : Type} (f : Write → Option α) (m : Nat) (ls : List Landing) (n : Landing) :
    landed f m (ls ++ [n]) =
      match f n.write with
      | none => landed f m ls
      | some x => if n.pos ≤ m then
          match landed f m ls with
          | none => some (n, x)
          | some (b, y) => if n.over b then some (n, x) else some (b, y)
        else landed f m ls := by
  induction ls with
  | nil =>
    simp only [List.nil_append, landed]
    cases f n.write <;> simp
  | cons l ls ih =>
    simp only [List.cons_append, landed, ih]
    cases hn : f n.write with
    | none => rfl
    | some x =>
      by_cases hp : n.pos ≤ m
      · simp only [if_pos hp]
        cases hl : f l.write with
        | none => simp
        | some y =>
          by_cases hlm : l.pos ≤ m
          · simp only [if_pos hlm]
            cases hr : landed f m ls with
            | none => simp
            | some r =>
              obtain ⟨b, z⟩ := r
              simp only
              by_cases h1 : n.over b = true
              · simp only [if_pos h1]
                by_cases h2 : b.over l = true
                · simp only [if_pos h2, if_pos h1]
                  rw [if_pos (over_trans h1 h2)]
                · simp only [if_neg h2]
              · simp only [if_neg h1]
                by_cases h2 : b.over l = true
                · simp only [if_pos h2, if_neg h1]
                · simp only [if_neg h2]
                  have hlb := over_total _ _ (by simpa using h2)
                  have : ¬ n.over l = true := fun h => h1 (over_trans h hlb)
                  rw [if_neg this]
          · simp only [if_neg hlm]
      · simp only [if_neg hp]

/-! ### Readings after a result -/

/-- The number a write carries. -/
def writeVal : Write → Nat
  | .s _ x => x.toNat
  | .i _ x => x.toNat
  | .v _ x => x.toNat
  | .a _ x => x.toNat
  | .p _ x => x.toNat
  | .slackr x => x.toNat
  | .pbk x => x.toNat

/-- Another landing of a register remains at bundle m over one at `p` issued at `src`. -/
def passed (ls : List Landing) (p src : Nat) (r : Reg) (m : Nat) : Bool :=
  ls.any fun l => writeReg l.write == r && decide (l.pos ≤ m) &&
    (decide (p < l.pos) || (l.pos == p && decide (src < l.src)))

theorem overtaken_eq (s : State) (lat : Nat) (r : Reg) (m : Nat) :
    overtaken s lat r m = passed s.cur.land (s.focus.pos + lat) s.focus.pos r m := rfl

theorem landed_value {α : Type} (f : Write → Option α) (g : α → Nat) (r : Reg) (d : α)
    (hf : ∀ w, (f w).isSome = (writeReg w == r)) (hg : ∀ w x, f w = some x → g x = writeVal w)
    (m : Nat) (ls : List Landing) (n : Landing) :
    g (((landed f m (ls ++ [n])).map (·.2)).getD d) =
      if writeReg n.write = r ∧ n.pos ≤ m ∧ passed ls n.pos n.src r m = false then writeVal n.write
      else g (((landed f m ls).map (·.2)).getD d) := by
  rw [landed_concat]
  cases hn : f n.write with
  | none =>
    have : ¬ writeReg n.write = r := by
      have := hf n.write
      simp only [hn, Option.isSome_none] at this
      intro h
      simp [h] at this
    simp [this]
  | some x =>
    have hr : writeReg n.write = r := by
      have := hf n.write
      simp only [hn, Option.isSome_some] at this
      simpa using this.symm
    by_cases hp : n.pos ≤ m
    · simp only [hr, hp, true_and]
      cases hl : landed f m ls with
      | none =>
        have : passed ls n.pos n.src r m = false := by
          simp only [passed, List.any_eq_false]
          intro l hlm hc
          simp only [Bool.and_eq_true, decide_eq_true_eq, beq_iff_eq] at hc
          obtain ⟨⟨h1, h2⟩, -⟩ := hc
          have hs : (f l.write).isSome := by rw [hf, h1]; simp
          exact landed_none f m ls hl l hlm hs h2
        simp [this, hg _ _ hn]
      | some b =>
        obtain ⟨b, y⟩ := b
        obtain ⟨h1, h2, h3, h4⟩ := landed_some f m ls b y hl
        by_cases ho : n.over b = true
        · have : passed ls n.pos n.src r m = false := by
            simp only [passed, List.any_eq_false]
            intro l hlm hc
            simp only [Bool.and_eq_true, decide_eq_true_eq, beq_iff_eq, Bool.or_eq_true] at hc
            obtain ⟨⟨q1, q2⟩, q3⟩ := hc
            have hs : (f l.write).isSome := by rw [hf, q1]; simp
            have := over_trans ho (h4 l hlm hs q2)
            simp only [Landing.over, Bool.or_eq_true, Bool.and_eq_true, decide_eq_true_eq, beq_iff_eq] at this
            omega
          simp [this, ho, hg _ _ hn]
        · have : passed ls n.pos n.src r m = true := by
            simp only [passed, List.any_eq_true]
            refine ⟨b, h1, ?_⟩
            have hbr : writeReg b.write = r := by
              have := hf b.write
              simp only [h2, Option.isSome_some] at this
              simpa using this.symm
            simp only [Landing.over, Bool.or_eq_true, Bool.and_eq_true, decide_eq_true_eq, beq_iff_eq] at ho
            simp only [hbr, h3, Bool.and_eq_true, Bool.or_eq_true, beq_iff_eq, decide_eq_true_eq, true_and]
            omega
          simp [this, ho]
    · simp [hp]

theorem asS_reg (n : Nat) (w : Write) : (w.asS n).isSome = (writeReg w == .s n) := by
  cases w with
  | s k x =>
    by_cases h : k = n
    · simp [Write.asS, writeReg, h]
    · have : (Reg.s k == Reg.s n) = false := by simp [h]
      simp [Write.asS, writeReg, h, this]
  | _ => rfl
theorem asI_reg (n : Nat) (w : Write) : (w.asI n).isSome = (writeReg w == .i n) := by
  cases w with
  | i k x =>
    by_cases h : k = n
    · simp [Write.asI, writeReg, h]
    · have : (Reg.i k == Reg.i n) = false := by simp [h]
      simp [Write.asI, writeReg, h, this]
  | _ => rfl
theorem asV_reg (n : Nat) (w : Write) : (w.asV n).isSome = (writeReg w == .v n) := by
  cases w with
  | v k x =>
    by_cases h : k = n
    · simp [Write.asV, writeReg, h]
    · have : (Reg.v k == Reg.v n) = false := by simp [h]
      simp [Write.asV, writeReg, h, this]
  | _ => rfl
theorem asA_reg (n : Nat) (w : Write) : (w.asA n).isSome = (writeReg w == .a n) := by
  cases w with
  | a k x =>
    by_cases h : k = n
    · simp [Write.asA, writeReg, h]
    · have : (Reg.a k == Reg.a n) = false := by simp [h]
      simp [Write.asA, writeReg, h, this]
  | _ => rfl
theorem asP_reg (n : Nat) (w : Write) : (w.asP n).isSome = (writeReg w == .p n) := by
  cases w with
  | p k x =>
    by_cases h : k = n
    · simp [Write.asP, writeReg, h]
    · have : (Reg.p k == Reg.p n) = false := by simp [h]
      simp [Write.asP, writeReg, h, this]
  | _ => rfl
theorem asSlackr_reg (w : Write) : (w.asSlackr).isSome = (writeReg w == .slackr) := by
  cases w <;> simp [Write.asSlackr, writeReg]
theorem asPbk_reg (w : Write) : (w.asPbk).isSome = (writeReg w == .pbk) := by
  cases w <;> simp [Write.asPbk, writeReg]

/-- What a register reads as after one more result in a context. -/
theorem regRead_land1 (c : Context) (w : Write) (p src m : Nat) (r : Reg) :
    regRead (c.land1 { write := w, pos := p, src := src }) m r =
      if writeReg w = r ∧ r.fixed = false ∧ p ≤ m ∧ passed c.land p src r m = false then writeVal w
      else regRead c m r := by
  have hd : w.discarded = (writeReg w).fixed := by
    cases w <;> rfl
  cases hdw : w.discarded with
  | true =>
    simp only [Context.land1, hdw, if_true]
    have : ¬(writeReg w = r ∧ r.fixed = false ∧ p ≤ m ∧ passed c.land p src r m = false) := by
      rintro ⟨rfl, h, -⟩
      rw [← hd, hdw] at h
      cases h
    rw [if_neg this]
  | false =>
    simp only [Context.land1, hdw]
    cases r with
    | s n =>
      by_cases hn : n = 0
      · subst hn; simp [regRead, Context.readS, Reg.fixed]
      · have := landed_value (Write.asS n) BitVec.toNat (.s n) (SMap.getD c.s n 0) (asS_reg n)
          (by intro w x h; cases w <;> simp [Write.asS] at h; simp [writeVal, h]) m c.land
          { write := w, pos := p, src := src }
        simpa [regRead, Context.readS, hn, Reg.fixed] using this
    | i n =>
      have := landed_value (Write.asI n) BitVec.toNat (.i n) (SMap.getD c.i n 0) (asI_reg n)
        (by intro w x h; cases w <;> simp [Write.asI] at h; simp [writeVal, h]) m c.land
        { write := w, pos := p, src := src }
      simpa [regRead, Context.readI, Reg.fixed] using this
    | v n =>
      have := landed_value (Write.asV n) BitVec.toNat (.v n) (SMap.getD c.v n 0) (asV_reg n)
        (by intro w x h; cases w <;> simp [Write.asV] at h; simp [writeVal, h]) m c.land
        { write := w, pos := p, src := src }
      simpa [regRead, Context.readV, Reg.fixed] using this
    | a n =>
      have := landed_value (Write.asA n) BitVec.toNat (.a n) (SMap.getD c.a n 0) (asA_reg n)
        (by intro w x h; cases w <;> simp [Write.asA] at h; simp [writeVal, h]) m c.land
        { write := w, pos := p, src := src }
      simpa [regRead, Context.readA, Reg.fixed] using this
    | p n =>
      by_cases hn : n = 0
      · subst hn; simp [regRead, Context.readP, Reg.fixed]
      · have := landed_value (Write.asP n) BitVec.toNat (.p n) (SMap.getD c.p n 0) (asP_reg n)
          (by intro w x h; cases w <;> simp [Write.asP] at h; simp [writeVal, h]) m c.land
          { write := w, pos := p, src := src }
        simpa [regRead, Context.readP, hn, Reg.fixed] using this
    | slackr =>
      have := landed_value Write.asSlackr BitVec.toNat .slackr c.slackr asSlackr_reg
        (by intro w x h; cases w <;> simp [Write.asSlackr] at h; simp [writeVal, h]) m c.land
        { write := w, pos := p, src := src }
      simpa [regRead, Context.readSlackr, Reg.fixed] using this
    | pbk =>
      have := landed_value Write.asPbk BitVec.toNat .pbk c.pbk asPbk_reg
        (by intro w x h; cases w <;> simp [Write.asPbk] at h; simp [writeVal, h]) m c.land
        { write := w, pos := p, src := src }
      simpa [regRead, Context.readPbk, Reg.fixed] using this

/-! ### Changes of one context -/

@[simp] theorem ctx_setCtx (s : State) (t k : Nat) (c : Context) :
    (s.setCtx t c).ctx k = if k = t then c else s.ctx k := SMap.getD_set _ _ _ _ _

@[simp] theorem cur_modCur (s : State) (f : Context → Context) : (s.modCur f).cur = f s.cur := by
  show (s.setCtx s.focus.ticket (f s.cur)).ctx s.focus.ticket = _
  simp

theorem ctx_modCtx (s : State) (t k : Nat) (f : Context → Context) :
    (s.modCtx t f).ctx k = if k = t then f (s.ctx t) else s.ctx k := ctx_setCtx _ _ _ _

@[simp] theorem modCtx_modCtx (s : State) (t : Nat) (f g : Context → Context) :
    (s.modCtx t f).modCtx t g = s.modCtx t fun c => g (f c) := by
  unfold State.modCtx
  rw [ctx_setCtx]
  simp [State.setCtx]

@[simp] theorem modCur_modCur (s : State) (f g : Context → Context) :
    (s.modCur f).modCur g = s.modCur fun c => g (f c) := modCtx_modCtx s s.focus.ticket f g

/-- Changing the context of the word in focus leaves the rest of the device. -/
theorem contextOnly_modCur (s : State) (f : Context → Context) : ContextOnly s (s.modCur f) :=
  ⟨rfl, fun k hk => by simp [State.modCur, ctx_modCtx, hk], fun _ => rfl⟩

theorem contextOnly_trans {s t u : State} (h1 : ContextOnly s t) (h2 : ContextOnly t u) : ContextOnly s u := by
  obtain ⟨a1, b1, c1⟩ := h1
  obtain ⟨a2, b2, c2⟩ := h2
  have hf : t.focus = s.focus := by rw [a1]
  refine ⟨?_, fun k hk => ?_, fun a => (c2 a).trans (c1 a)⟩
  · rw [a2, a1]
  · rw [b2 k (by rw [hf]; exact hk), b1 k hk]

/-- The progress that `endWord` records. -/
theorem endWord_eq (s : State) :
    s.endWord = s.modCur fun c => { c with inflight := c.inflight.map (executed s.focus.pos s.focus.slot) } := by
  unfold State.endWord State.modBundle State.modCur
  congr 1
  funext c
  congr 2
  funext b
  by_cases hb : b.pos = s.focus.pos
  · simp only [executed, Bundle.setWord, hb, beq_self_eq_true, if_true]
    congr 2
    funext w
    by_cases h1 : w.slot = s.focus.slot
    · cases h2 : w.progress <;> cases h3 : w.wait <;> simp_all
    · simp [h1]
  · simp [executed, hb]

theorem contextOnly_endWord (s : State) : ContextOnly s s.endWord := by
  rw [endWord_eq]
  exact contextOnly_modCur _ _

@[simp] theorem cur_endWord (s : State) :
    s.endWord.cur = { s.cur with inflight := s.cur.inflight.map (executed s.focus.pos s.focus.slot) } := by
  rw [endWord_eq, cur_modCur]

@[simp] theorem focus_endWord (s : State) : s.endWord.focus = s.focus := rfl

@[simp] theorem focus_modCur (s : State) (f : Context → Context) : (s.modCur f).focus = s.focus := rfl

@[simp] theorem cur_land (s : State) (lat : Nat) (w : Write) :
    (s.land lat w).cur = s.cur.land1 { write := w, pos := s.focus.pos + lat, src := s.focus.pos } := by
  simp [State.land]

/-- A landing changes nothing of a context but its landing queue. -/
theorem land1_eq (c : Context) (l : Landing) : c.land1 l = { c with land := (c.land1 l).land } := by
  unfold Context.land1
  split <;> rfl

/-- Reading a register does not depend on the bundles in flight. -/
@[simp] theorem regRead_inflight (c : Context) (bs : List Bundle) (m : Nat) (r : Reg) :
    regRead { c with inflight := bs } m r = regRead c m r := by
  cases r <;> rfl

theorem landsOnly_land (s : State) (lat : Nat) (w : Write) : LandsOnly s (s.land lat w).endWord := by
  refine ⟨contextOnly_trans (contextOnly_modCur s _) (contextOnly_endWord _), ?_⟩
  rw [cur_endWord, cur_land, land1_eq]
  rfl

/-- One result of the word in focus, as the statements say it. -/
theorem lands_land (s : State) (lat : Nat) (w : Write) :
    Lands s (s.land lat w).endWord lat [(writeReg w, writeVal w)] := by
  intro m r
  rw [cur_endWord, regRead_inflight, cur_land, regRead_land1]
  rw [overtaken_eq]
  by_cases hr : writeReg w = r
  · subst hr
    simp only [List.find?_cons, beq_self_eq_true, true_and]
    by_cases h : (writeReg w).fixed = false ∧ s.focus.pos + lat ≤ m ∧
        passed s.cur.land (s.focus.pos + lat) s.focus.pos (writeReg w) m = false
    · simp [h]
    · rw [if_neg h]
      by_cases h1 : (writeReg w).fixed = false
      · by_cases h2 : s.focus.pos + lat ≤ m
        · have h3 : passed s.cur.land (s.focus.pos + lat) s.focus.pos (writeReg w) m = true := by
            simpa [h1, h2] using h
          simp [h3]
        · simp [h2]
      · simp [h1]
  · have hb : (writeReg w == r) = false := by simpa using hr
    simp [hr, hb]

/-- A word that lands one result completes with it. -/
theorem results_land (i : Instr) (s : State) (lat : Nat) (w : Write) (h : exec i s = (s.land lat w).ok) :
    Results i s lat [(writeReg w, writeVal w)] :=
  ⟨_, h, lands_land s lat w, landsOnly_land s lat w⟩

theorem scalarResult_setS (i : Instr) (s : State) (lat : Nat) (d : BitVec 6) (x : Word)
    (h : exec i s = (s.setS lat d x).ok) : ScalarResult i s lat d x := results_land i s lat (.s d.toNat x) h

theorem indexResult_setI (i : Instr) (s : State) (lat : Nat) (d : BitVec 6) (x : Index)
    (h : exec i s = (s.setI lat d x).ok) : IndexResult i s lat d x := results_land i s lat (.i d.toNat x) h

end Sys2Proof.Machine
end

