-- ==== Sys2Proof/Laws/State.lean ====
section
/-!
SUPPORT. What the updates of contexts, cores and the free counter leave in each field of the device.
-/
namespace Sys2Proof.Laws
open Sys2Proof.Machine

@[simp] theorem agenda_setCtx (s : State) (k : Nat) (c : Context) : (s.setCtx k c).agenda = s.agenda := rfl
@[simp] theorem focus_setCtx (s : State) (k : Nat) (c : Context) : (s.setCtx k c).focus = s.focus := rfl
@[simp] theorem ctxs_setCtx (s : State) (k : Nat) (c : Context) : (s.setCtx k c).ctxs = SMap.set s.ctxs k c := rfl
@[simp] theorem cores_setCtx (s : State) (k : Nat) (c : Context) : (s.setCtx k c).cores = s.cores := rfl
@[simp] theorem mem_setCtx (s : State) (k : Nat) (c : Context) : (s.setCtx k c).mem = s.mem := rfl
@[simp] theorem lscr_setCtx (s : State) (k : Nat) (c : Context) : (s.setCtx k c).lscr = s.lscr := rfl
@[simp] theorem remote_setCtx (s : State) (k : Nat) (c : Context) : (s.setCtx k c).remote = s.remote := rfl
@[simp] theorem upsets_setCtx (s : State) (k : Nat) (c : Context) : (s.setCtx k c).upsets = s.upsets := rfl
@[simp] theorem lines_setCtx (s : State) (k : Nat) (c : Context) : (s.setCtx k c).lines = s.lines := rfl
@[simp] theorem floors_setCtx (s : State) (k : Nat) (c : Context) : (s.setCtx k c).floors = s.floors := rfl
@[simp] theorem floor_setCtx (s : State) (k : Nat) (c : Context) : (s.setCtx k c).floor = s.floor := rfl
@[simp] theorem l1_setCtx (s : State) (k : Nat) (c : Context) : (s.setCtx k c).l1 = s.l1 := rfl
@[simp] theorem picks_setCtx (s : State) (k : Nat) (c : Context) : (s.setCtx k c).picks = s.picks := rfl
@[simp] theorem mtxOrder_setCtx (s : State) (k : Nat) (c : Context) : (s.setCtx k c).mtxOrder = s.mtxOrder := rfl
@[simp] theorem readyPlays_setCtx (s : State) (k : Nat) (c : Context) : (s.setCtx k c).readyPlays = s.readyPlays := rfl
@[simp] theorem ops_setCtx (s : State) (k : Nat) (c : Context) : (s.setCtx k c).ops = s.ops := rfl
@[simp] theorem nextId_setCtx (s : State) (k : Nat) (c : Context) : (s.setCtx k c).nextId = s.nextId := rfl
@[simp] theorem astb_setCtx (s : State) (k : Nat) (c : Context) : (s.setCtx k c).astb = s.astb := rfl
@[simp] theorem lscrReg_setCtx (s : State) (k : Nat) (c : Context) : (s.setCtx k c).lscrReg = s.lscrReg := rfl
@[simp] theorem modesel_setCtx (s : State) (k : Nat) (c : Context) : (s.setCtx k c).modesel = s.modesel := rfl
@[simp] theorem kick_setCtx (s : State) (k : Nat) (c : Context) : (s.setCtx k c).kick = s.kick := rfl
@[simp] theorem kstat_setCtx (s : State) (k : Nat) (c : Context) : (s.setCtx k c).kstat = s.kstat := rfl
@[simp] theorem unmap_setCtx (s : State) (k : Nat) (c : Context) : (s.setCtx k c).unmap = s.unmap := rfl
@[simp] theorem ftriage_setCtx (s : State) (k : Nat) (c : Context) : (s.setCtx k c).ftriage = s.ftriage := rfl
@[simp] theorem fcmd_setCtx (s : State) (k : Nat) (c : Context) : (s.setCtx k c).fcmd = s.fcmd := rfl
@[simp] theorem saveb_setCtx (s : State) (k : Nat) (c : Context) : (s.setCtx k c).saveb = s.saveb := rfl
@[simp] theorem savel_setCtx (s : State) (k : Nat) (c : Context) : (s.setCtx k c).savel = s.savel := rfl
@[simp] theorem fabric_setCtx (s : State) (k : Nat) (c : Context) : (s.setCtx k c).fabric = s.fabric := rfl
@[simp] theorem expb_setCtx (s : State) (k : Nat) (c : Context) : (s.setCtx k c).expb = s.expb := rfl
@[simp] theorem expl_setCtx (s : State) (k : Nat) (c : Context) : (s.setCtx k c).expl = s.expl := rfl
@[simp] theorem csets_setCtx (s : State) (k : Nat) (c : Context) : (s.setCtx k c).csets = s.csets := rfl
@[simp] theorem routes_setCtx (s : State) (k : Nat) (c : Context) : (s.setCtx k c).routes = s.routes := rfl
@[simp] theorem svcr_setCtx (s : State) (k : Nat) (c : Context) : (s.setCtx k c).svcr = s.svcr := rfl
@[simp] theorem svcdone_setCtx (s : State) (k : Nat) (c : Context) : (s.setCtx k c).svcdone = s.svcdone := rfl
@[simp] theorem svcCount_setCtx (s : State) (k : Nat) (c : Context) : (s.setCtx k c).svcCount = s.svcCount := rfl
@[simp] theorem svcCounts_setCtx (s : State) (k : Nat) (c : Context) : (s.setCtx k c).svcCounts = s.svcCounts := rfl
@[simp] theorem services_setCtx (s : State) (k : Nat) (c : Context) : (s.setCtx k c).services = s.services := rfl
@[simp] theorem faulting_setCtx (s : State) (k : Nat) (c : Context) : (s.setCtx k c).faulting = s.faulting := rfl
@[simp] theorem collapsing_setCtx (s : State) (k : Nat) (c : Context) : (s.setCtx k c).collapsing = s.collapsing := rfl
@[simp] theorem freeing_setCtx (s : State) (k : Nat) (c : Context) : (s.setCtx k c).freeing = s.freeing := rfl
@[simp] theorem kernels_setCtx (s : State) (k : Nat) (c : Context) : (s.setCtx k c).kernels = s.kernels := rfl
@[simp] theorem launches_setCtx (s : State) (k : Nat) (c : Context) : (s.setCtx k c).launches = s.launches := rfl
@[simp] theorem queues_setCtx (s : State) (k : Nat) (c : Context) : (s.setCtx k c).queues = s.queues := rfl
@[simp] theorem lastQueue_setCtx (s : State) (k : Nat) (c : Context) : (s.setCtx k c).lastQueue = s.lastQueue := rfl
@[simp] theorem claims_setCtx (s : State) (k : Nat) (c : Context) : (s.setCtx k c).claims = s.claims := rfl
@[simp] theorem graphs_setCtx (s : State) (k : Nat) (c : Context) : (s.setCtx k c).graphs = s.graphs := rfl
@[simp] theorem barriers_setCtx (s : State) (k : Nat) (c : Context) : (s.setCtx k c).barriers = s.barriers := rfl
@[simp] theorem tables_setCtx (s : State) (k : Nat) (c : Context) : (s.setCtx k c).tables = s.tables := rfl
@[simp] theorem sets_setCtx (s : State) (k : Nat) (c : Context) : (s.setCtx k c).sets = s.sets := rfl
@[simp] theorem plays_setCtx (s : State) (k : Nat) (c : Context) : (s.setCtx k c).plays = s.plays := rfl
@[simp] theorem fabArrivals_setCtx (s : State) (k : Nat) (c : Context) : (s.setCtx k c).fabArrivals = s.fabArrivals := rfl
@[simp] theorem fabLost_setCtx (s : State) (k : Nat) (c : Context) : (s.setCtx k c).fabLost = s.fabLost := rfl
@[simp] theorem links_setCtx (s : State) (k : Nat) (c : Context) : (s.setCtx k c).links = s.links := rfl
@[simp] theorem lemant_setCtx (s : State) (k : Nat) (c : Context) : (s.setCtx k c).lemant = s.lemant := rfl
@[simp] theorem freeIx_setCtx (s : State) (k : Nat) (c : Context) : (s.setCtx k c).freeIx = s.freeIx := rfl

@[simp] theorem agenda_modCtx (s : State) (k : Nat) (f : Context → Context) : (s.modCtx k f).agenda = s.agenda := rfl
@[simp] theorem focus_modCtx (s : State) (k : Nat) (f : Context → Context) : (s.modCtx k f).focus = s.focus := rfl
@[simp] theorem ctxs_modCtx (s : State) (k : Nat) (f : Context → Context) : (s.modCtx k f).ctxs = SMap.set s.ctxs k (f (s.ctx k)) := rfl
@[simp] theorem cores_modCtx (s : State) (k : Nat) (f : Context → Context) : (s.modCtx k f).cores = s.cores := rfl
@[simp] theorem mem_modCtx (s : State) (k : Nat) (f : Context → Context) : (s.modCtx k f).mem = s.mem := rfl
@[simp] theorem lscr_modCtx (s : State) (k : Nat) (f : Context → Context) : (s.modCtx k f).lscr = s.lscr := rfl
@[simp] theorem remote_modCtx (s : State) (k : Nat) (f : Context → Context) : (s.modCtx k f).remote = s.remote := rfl
@[simp] theorem upsets_modCtx (s : State) (k : Nat) (f : Context → Context) : (s.modCtx k f).upsets = s.upsets := rfl
@[simp] theorem lines_modCtx (s : State) (k : Nat) (f : Context → Context) : (s.modCtx k f).lines = s.lines := rfl
@[simp] theorem floors_modCtx (s : State) (k : Nat) (f : Context → Context) : (s.modCtx k f).floors = s.floors := rfl
@[simp] theorem floor_modCtx (s : State) (k : Nat) (f : Context → Context) : (s.modCtx k f).floor = s.floor := rfl
@[simp] theorem l1_modCtx (s : State) (k : Nat) (f : Context → Context) : (s.modCtx k f).l1 = s.l1 := rfl
@[simp] theorem picks_modCtx (s : State) (k : Nat) (f : Context → Context) : (s.modCtx k f).picks = s.picks := rfl
@[simp] theorem mtxOrder_modCtx (s : State) (k : Nat) (f : Context → Context) : (s.modCtx k f).mtxOrder = s.mtxOrder := rfl
@[simp] theorem readyPlays_modCtx (s : State) (k : Nat) (f : Context → Context) : (s.modCtx k f).readyPlays = s.readyPlays := rfl
@[simp] theorem ops_modCtx (s : State) (k : Nat) (f : Context → Context) : (s.modCtx k f).ops = s.ops := rfl
@[simp] theorem nextId_modCtx (s : State) (k : Nat) (f : Context → Context) : (s.modCtx k f).nextId = s.nextId := rfl
@[simp] theorem astb_modCtx (s : State) (k : Nat) (f : Context → Context) : (s.modCtx k f).astb = s.astb := rfl
@[simp] theorem lscrReg_modCtx (s : State) (k : Nat) (f : Context → Context) : (s.modCtx k f).lscrReg = s.lscrReg := rfl
@[simp] theorem modesel_modCtx (s : State) (k : Nat) (f : Context → Context) : (s.modCtx k f).modesel = s.modesel := rfl
@[simp] theorem kick_modCtx (s : State) (k : Nat) (f : Context → Context) : (s.modCtx k f).kick = s.kick := rfl
@[simp] theorem kstat_modCtx (s : State) (k : Nat) (f : Context → Context) : (s.modCtx k f).kstat = s.kstat := rfl
@[simp] theorem unmap_modCtx (s : State) (k : Nat) (f : Context → Context) : (s.modCtx k f).unmap = s.unmap := rfl
@[simp] theorem ftriage_modCtx (s : State) (k : Nat) (f : Context → Context) : (s.modCtx k f).ftriage = s.ftriage := rfl
@[simp] theorem fcmd_modCtx (s : State) (k : Nat) (f : Context → Context) : (s.modCtx k f).fcmd = s.fcmd := rfl
@[simp] theorem saveb_modCtx (s : State) (k : Nat) (f : Context → Context) : (s.modCtx k f).saveb = s.saveb := rfl
@[simp] theorem savel_modCtx (s : State) (k : Nat) (f : Context → Context) : (s.modCtx k f).savel = s.savel := rfl
@[simp] theorem fabric_modCtx (s : State) (k : Nat) (f : Context → Context) : (s.modCtx k f).fabric = s.fabric := rfl
@[simp] theorem expb_modCtx (s : State) (k : Nat) (f : Context → Context) : (s.modCtx k f).expb = s.expb := rfl
@[simp] theorem expl_modCtx (s : State) (k : Nat) (f : Context → Context) : (s.modCtx k f).expl = s.expl := rfl
@[simp] theorem csets_modCtx (s : State) (k : Nat) (f : Context → Context) : (s.modCtx k f).csets = s.csets := rfl
@[simp] theorem routes_modCtx (s : State) (k : Nat) (f : Context → Context) : (s.modCtx k f).routes = s.routes := rfl
@[simp] theorem svcr_modCtx (s : State) (k : Nat) (f : Context → Context) : (s.modCtx k f).svcr = s.svcr := rfl
@[simp] theorem svcdone_modCtx (s : State) (k : Nat) (f : Context → Context) : (s.modCtx k f).svcdone = s.svcdone := rfl
@[simp] theorem svcCount_modCtx (s : State) (k : Nat) (f : Context → Context) : (s.modCtx k f).svcCount = s.svcCount := rfl
@[simp] theorem svcCounts_modCtx (s : State) (k : Nat) (f : Context → Context) : (s.modCtx k f).svcCounts = s.svcCounts := rfl
@[simp] theorem services_modCtx (s : State) (k : Nat) (f : Context → Context) : (s.modCtx k f).services = s.services := rfl
@[simp] theorem faulting_modCtx (s : State) (k : Nat) (f : Context → Context) : (s.modCtx k f).faulting = s.faulting := rfl
@[simp] theorem collapsing_modCtx (s : State) (k : Nat) (f : Context → Context) : (s.modCtx k f).collapsing = s.collapsing := rfl
@[simp] theorem freeing_modCtx (s : State) (k : Nat) (f : Context → Context) : (s.modCtx k f).freeing = s.freeing := rfl
@[simp] theorem kernels_modCtx (s : State) (k : Nat) (f : Context → Context) : (s.modCtx k f).kernels = s.kernels := rfl
@[simp] theorem launches_modCtx (s : State) (k : Nat) (f : Context → Context) : (s.modCtx k f).launches = s.launches := rfl
@[simp] theorem queues_modCtx (s : State) (k : Nat) (f : Context → Context) : (s.modCtx k f).queues = s.queues := rfl
@[simp] theorem lastQueue_modCtx (s : State) (k : Nat) (f : Context → Context) : (s.modCtx k f).lastQueue = s.lastQueue := rfl
@[simp] theorem claims_modCtx (s : State) (k : Nat) (f : Context → Context) : (s.modCtx k f).claims = s.claims := rfl
@[simp] theorem graphs_modCtx (s : State) (k : Nat) (f : Context → Context) : (s.modCtx k f).graphs = s.graphs := rfl
@[simp] theorem barriers_modCtx (s : State) (k : Nat) (f : Context → Context) : (s.modCtx k f).barriers = s.barriers := rfl
@[simp] theorem tables_modCtx (s : State) (k : Nat) (f : Context → Context) : (s.modCtx k f).tables = s.tables := rfl
@[simp] theorem sets_modCtx (s : State) (k : Nat) (f : Context → Context) : (s.modCtx k f).sets = s.sets := rfl
@[simp] theorem plays_modCtx (s : State) (k : Nat) (f : Context → Context) : (s.modCtx k f).plays = s.plays := rfl
@[simp] theorem fabArrivals_modCtx (s : State) (k : Nat) (f : Context → Context) : (s.modCtx k f).fabArrivals = s.fabArrivals := rfl
@[simp] theorem fabLost_modCtx (s : State) (k : Nat) (f : Context → Context) : (s.modCtx k f).fabLost = s.fabLost := rfl
@[simp] theorem links_modCtx (s : State) (k : Nat) (f : Context → Context) : (s.modCtx k f).links = s.links := rfl
@[simp] theorem lemant_modCtx (s : State) (k : Nat) (f : Context → Context) : (s.modCtx k f).lemant = s.lemant := rfl
@[simp] theorem freeIx_modCtx (s : State) (k : Nat) (f : Context → Context) : (s.modCtx k f).freeIx = s.freeIx := rfl

@[simp] theorem agenda_modCur (s : State) (f : Context → Context) : (s.modCur f).agenda = s.agenda := rfl
@[simp] theorem focus_modCur (s : State) (f : Context → Context) : (s.modCur f).focus = s.focus := rfl
@[simp] theorem ctxs_modCur (s : State) (f : Context → Context) : (s.modCur f).ctxs = SMap.set s.ctxs s.focus.ticket (f s.cur) := rfl
@[simp] theorem cores_modCur (s : State) (f : Context → Context) : (s.modCur f).cores = s.cores := rfl
@[simp] theorem mem_modCur (s : State) (f : Context → Context) : (s.modCur f).mem = s.mem := rfl
@[simp] theorem lscr_modCur (s : State) (f : Context → Context) : (s.modCur f).lscr = s.lscr := rfl
@[simp] theorem remote_modCur (s : State) (f : Context → Context) : (s.modCur f).remote = s.remote := rfl
@[simp] theorem upsets_modCur (s : State) (f : Context → Context) : (s.modCur f).upsets = s.upsets := rfl
@[simp] theorem lines_modCur (s : State) (f : Context → Context) : (s.modCur f).lines = s.lines := rfl
@[simp] theorem floors_modCur (s : State) (f : Context → Context) : (s.modCur f).floors = s.floors := rfl
@[simp] theorem floor_modCur (s : State) (f : Context → Context) : (s.modCur f).floor = s.floor := rfl
@[simp] theorem l1_modCur (s : State) (f : Context → Context) : (s.modCur f).l1 = s.l1 := rfl
@[simp] theorem picks_modCur (s : State) (f : Context → Context) : (s.modCur f).picks = s.picks := rfl
@[simp] theorem mtxOrder_modCur (s : State) (f : Context → Context) : (s.modCur f).mtxOrder = s.mtxOrder := rfl
@[simp] theorem readyPlays_modCur (s : State) (f : Context → Context) : (s.modCur f).readyPlays = s.readyPlays := rfl
@[simp] theorem ops_modCur (s : State) (f : Context → Context) : (s.modCur f).ops = s.ops := rfl
@[simp] theorem nextId_modCur (s : State) (f : Context → Context) : (s.modCur f).nextId = s.nextId := rfl
@[simp] theorem astb_modCur (s : State) (f : Context → Context) : (s.modCur f).astb = s.astb := rfl
@[simp] theorem lscrReg_modCur (s : State) (f : Context → Context) : (s.modCur f).lscrReg = s.lscrReg := rfl
@[simp] theorem modesel_modCur (s : State) (f : Context → Context) : (s.modCur f).modesel = s.modesel := rfl
@[simp] theorem kick_modCur (s : State) (f : Context → Context) : (s.modCur f).kick = s.kick := rfl
@[simp] theorem kstat_modCur (s : State) (f : Context → Context) : (s.modCur f).kstat = s.kstat := rfl
@[simp] theorem unmap_modCur (s : State) (f : Context → Context) : (s.modCur f).unmap = s.unmap := rfl
@[simp] theorem ftriage_modCur (s : State) (f : Context → Context) : (s.modCur f).ftriage = s.ftriage := rfl
@[simp] theorem fcmd_modCur (s : State) (f : Context → Context) : (s.modCur f).fcmd = s.fcmd := rfl
@[simp] theorem saveb_modCur (s : State) (f : Context → Context) : (s.modCur f).saveb = s.saveb := rfl
@[simp] theorem savel_modCur (s : State) (f : Context → Context) : (s.modCur f).savel = s.savel := rfl
@[simp] theorem fabric_modCur (s : State) (f : Context → Context) : (s.modCur f).fabric = s.fabric := rfl
@[simp] theorem expb_modCur (s : State) (f : Context → Context) : (s.modCur f).expb = s.expb := rfl
@[simp] theorem expl_modCur (s : State) (f : Context → Context) : (s.modCur f).expl = s.expl := rfl
@[simp] theorem csets_modCur (s : State) (f : Context → Context) : (s.modCur f).csets = s.csets := rfl
@[simp] theorem routes_modCur (s : State) (f : Context → Context) : (s.modCur f).routes = s.routes := rfl
@[simp] theorem svcr_modCur (s : State) (f : Context → Context) : (s.modCur f).svcr = s.svcr := rfl
@[simp] theorem svcdone_modCur (s : State) (f : Context → Context) : (s.modCur f).svcdone = s.svcdone := rfl
@[simp] theorem svcCount_modCur (s : State) (f : Context → Context) : (s.modCur f).svcCount = s.svcCount := rfl
@[simp] theorem svcCounts_modCur (s : State) (f : Context → Context) : (s.modCur f).svcCounts = s.svcCounts := rfl
@[simp] theorem services_modCur (s : State) (f : Context → Context) : (s.modCur f).services = s.services := rfl
@[simp] theorem faulting_modCur (s : State) (f : Context → Context) : (s.modCur f).faulting = s.faulting := rfl
@[simp] theorem collapsing_modCur (s : State) (f : Context → Context) : (s.modCur f).collapsing = s.collapsing := rfl
@[simp] theorem freeing_modCur (s : State) (f : Context → Context) : (s.modCur f).freeing = s.freeing := rfl
@[simp] theorem kernels_modCur (s : State) (f : Context → Context) : (s.modCur f).kernels = s.kernels := rfl
@[simp] theorem launches_modCur (s : State) (f : Context → Context) : (s.modCur f).launches = s.launches := rfl
@[simp] theorem queues_modCur (s : State) (f : Context → Context) : (s.modCur f).queues = s.queues := rfl
@[simp] theorem lastQueue_modCur (s : State) (f : Context → Context) : (s.modCur f).lastQueue = s.lastQueue := rfl
@[simp] theorem claims_modCur (s : State) (f : Context → Context) : (s.modCur f).claims = s.claims := rfl
@[simp] theorem graphs_modCur (s : State) (f : Context → Context) : (s.modCur f).graphs = s.graphs := rfl
@[simp] theorem barriers_modCur (s : State) (f : Context → Context) : (s.modCur f).barriers = s.barriers := rfl
@[simp] theorem tables_modCur (s : State) (f : Context → Context) : (s.modCur f).tables = s.tables := rfl
@[simp] theorem sets_modCur (s : State) (f : Context → Context) : (s.modCur f).sets = s.sets := rfl
@[simp] theorem plays_modCur (s : State) (f : Context → Context) : (s.modCur f).plays = s.plays := rfl
@[simp] theorem fabArrivals_modCur (s : State) (f : Context → Context) : (s.modCur f).fabArrivals = s.fabArrivals := rfl
@[simp] theorem fabLost_modCur (s : State) (f : Context → Context) : (s.modCur f).fabLost = s.fabLost := rfl
@[simp] theorem links_modCur (s : State) (f : Context → Context) : (s.modCur f).links = s.links := rfl
@[simp] theorem lemant_modCur (s : State) (f : Context → Context) : (s.modCur f).lemant = s.lemant := rfl
@[simp] theorem freeIx_modCur (s : State) (f : Context → Context) : (s.modCur f).freeIx = s.freeIx := rfl

@[simp] theorem agenda_setCore (s : State) (k : Nat) (c : Core) : (s.setCore k c).agenda = s.agenda := rfl
@[simp] theorem focus_setCore (s : State) (k : Nat) (c : Core) : (s.setCore k c).focus = s.focus := rfl
@[simp] theorem ctxs_setCore (s : State) (k : Nat) (c : Core) : (s.setCore k c).ctxs = s.ctxs := rfl
@[simp] theorem cores_setCore (s : State) (k : Nat) (c : Core) : (s.setCore k c).cores = SMap.set s.cores k c := rfl
@[simp] theorem mem_setCore (s : State) (k : Nat) (c : Core) : (s.setCore k c).mem = s.mem := rfl
@[simp] theorem lscr_setCore (s : State) (k : Nat) (c : Core) : (s.setCore k c).lscr = s.lscr := rfl
@[simp] theorem remote_setCore (s : State) (k : Nat) (c : Core) : (s.setCore k c).remote = s.remote := rfl
@[simp] theorem upsets_setCore (s : State) (k : Nat) (c : Core) : (s.setCore k c).upsets = s.upsets := rfl
@[simp] theorem lines_setCore (s : State) (k : Nat) (c : Core) : (s.setCore k c).lines = s.lines := rfl
@[simp] theorem floors_setCore (s : State) (k : Nat) (c : Core) : (s.setCore k c).floors = s.floors := rfl
@[simp] theorem floor_setCore (s : State) (k : Nat) (c : Core) : (s.setCore k c).floor = s.floor := rfl
@[simp] theorem l1_setCore (s : State) (k : Nat) (c : Core) : (s.setCore k c).l1 = s.l1 := rfl
@[simp] theorem picks_setCore (s : State) (k : Nat) (c : Core) : (s.setCore k c).picks = s.picks := rfl
@[simp] theorem mtxOrder_setCore (s : State) (k : Nat) (c : Core) : (s.setCore k c).mtxOrder = s.mtxOrder := rfl
@[simp] theorem readyPlays_setCore (s : State) (k : Nat) (c : Core) : (s.setCore k c).readyPlays = s.readyPlays := rfl
@[simp] theorem ops_setCore (s : State) (k : Nat) (c : Core) : (s.setCore k c).ops = s.ops := rfl
@[simp] theorem nextId_setCore (s : State) (k : Nat) (c : Core) : (s.setCore k c).nextId = s.nextId := rfl
@[simp] theorem astb_setCore (s : State) (k : Nat) (c : Core) : (s.setCore k c).astb = s.astb := rfl
@[simp] theorem lscrReg_setCore (s : State) (k : Nat) (c : Core) : (s.setCore k c).lscrReg = s.lscrReg := rfl
@[simp] theorem modesel_setCore (s : State) (k : Nat) (c : Core) : (s.setCore k c).modesel = s.modesel := rfl
@[simp] theorem kick_setCore (s : State) (k : Nat) (c : Core) : (s.setCore k c).kick = s.kick := rfl
@[simp] theorem kstat_setCore (s : State) (k : Nat) (c : Core) : (s.setCore k c).kstat = s.kstat := rfl
@[simp] theorem unmap_setCore (s : State) (k : Nat) (c : Core) : (s.setCore k c).unmap = s.unmap := rfl
@[simp] theorem ftriage_setCore (s : State) (k : Nat) (c : Core) : (s.setCore k c).ftriage = s.ftriage := rfl
@[simp] theorem fcmd_setCore (s : State) (k : Nat) (c : Core) : (s.setCore k c).fcmd = s.fcmd := rfl
@[simp] theorem saveb_setCore (s : State) (k : Nat) (c : Core) : (s.setCore k c).saveb = s.saveb := rfl
@[simp] theorem savel_setCore (s : State) (k : Nat) (c : Core) : (s.setCore k c).savel = s.savel := rfl
@[simp] theorem fabric_setCore (s : State) (k : Nat) (c : Core) : (s.setCore k c).fabric = s.fabric := rfl
@[simp] theorem expb_setCore (s : State) (k : Nat) (c : Core) : (s.setCore k c).expb = s.expb := rfl
@[simp] theorem expl_setCore (s : State) (k : Nat) (c : Core) : (s.setCore k c).expl = s.expl := rfl
@[simp] theorem csets_setCore (s : State) (k : Nat) (c : Core) : (s.setCore k c).csets = s.csets := rfl
@[simp] theorem routes_setCore (s : State) (k : Nat) (c : Core) : (s.setCore k c).routes = s.routes := rfl
@[simp] theorem svcr_setCore (s : State) (k : Nat) (c : Core) : (s.setCore k c).svcr = s.svcr := rfl
@[simp] theorem svcdone_setCore (s : State) (k : Nat) (c : Core) : (s.setCore k c).svcdone = s.svcdone := rfl
@[simp] theorem svcCount_setCore (s : State) (k : Nat) (c : Core) : (s.setCore k c).svcCount = s.svcCount := rfl
@[simp] theorem svcCounts_setCore (s : State) (k : Nat) (c : Core) : (s.setCore k c).svcCounts = s.svcCounts := rfl
@[simp] theorem services_setCore (s : State) (k : Nat) (c : Core) : (s.setCore k c).services = s.services := rfl
@[simp] theorem faulting_setCore (s : State) (k : Nat) (c : Core) : (s.setCore k c).faulting = s.faulting := rfl
@[simp] theorem collapsing_setCore (s : State) (k : Nat) (c : Core) : (s.setCore k c).collapsing = s.collapsing := rfl
@[simp] theorem freeing_setCore (s : State) (k : Nat) (c : Core) : (s.setCore k c).freeing = s.freeing := rfl
@[simp] theorem kernels_setCore (s : State) (k : Nat) (c : Core) : (s.setCore k c).kernels = s.kernels := rfl
@[simp] theorem launches_setCore (s : State) (k : Nat) (c : Core) : (s.setCore k c).launches = s.launches := rfl
@[simp] theorem queues_setCore (s : State) (k : Nat) (c : Core) : (s.setCore k c).queues = s.queues := rfl
@[simp] theorem lastQueue_setCore (s : State) (k : Nat) (c : Core) : (s.setCore k c).lastQueue = s.lastQueue := rfl
@[simp] theorem claims_setCore (s : State) (k : Nat) (c : Core) : (s.setCore k c).claims = s.claims := rfl
@[simp] theorem graphs_setCore (s : State) (k : Nat) (c : Core) : (s.setCore k c).graphs = s.graphs := rfl
@[simp] theorem barriers_setCore (s : State) (k : Nat) (c : Core) : (s.setCore k c).barriers = s.barriers := rfl
@[simp] theorem tables_setCore (s : State) (k : Nat) (c : Core) : (s.setCore k c).tables = s.tables := rfl
@[simp] theorem sets_setCore (s : State) (k : Nat) (c : Core) : (s.setCore k c).sets = s.sets := rfl
@[simp] theorem plays_setCore (s : State) (k : Nat) (c : Core) : (s.setCore k c).plays = s.plays := rfl
@[simp] theorem fabArrivals_setCore (s : State) (k : Nat) (c : Core) : (s.setCore k c).fabArrivals = s.fabArrivals := rfl
@[simp] theorem fabLost_setCore (s : State) (k : Nat) (c : Core) : (s.setCore k c).fabLost = s.fabLost := rfl
@[simp] theorem links_setCore (s : State) (k : Nat) (c : Core) : (s.setCore k c).links = s.links := rfl
@[simp] theorem lemant_setCore (s : State) (k : Nat) (c : Core) : (s.setCore k c).lemant = s.lemant := rfl
@[simp] theorem freeIx_setCore (s : State) (k : Nat) (c : Core) : (s.setCore k c).freeIx = s.freeIx := rfl

@[simp] theorem agenda_modCore (s : State) (k : Nat) (f : Core → Core) : (s.modCore k f).agenda = s.agenda := rfl
@[simp] theorem focus_modCore (s : State) (k : Nat) (f : Core → Core) : (s.modCore k f).focus = s.focus := rfl
@[simp] theorem ctxs_modCore (s : State) (k : Nat) (f : Core → Core) : (s.modCore k f).ctxs = s.ctxs := rfl
@[simp] theorem cores_modCore (s : State) (k : Nat) (f : Core → Core) : (s.modCore k f).cores = SMap.set s.cores k (f (s.core k)) := rfl
@[simp] theorem mem_modCore (s : State) (k : Nat) (f : Core → Core) : (s.modCore k f).mem = s.mem := rfl
@[simp] theorem lscr_modCore (s : State) (k : Nat) (f : Core → Core) : (s.modCore k f).lscr = s.lscr := rfl
@[simp] theorem remote_modCore (s : State) (k : Nat) (f : Core → Core) : (s.modCore k f).remote = s.remote := rfl
@[simp] theorem upsets_modCore (s : State) (k : Nat) (f : Core → Core) : (s.modCore k f).upsets = s.upsets := rfl
@[simp] theorem lines_modCore (s : State) (k : Nat) (f : Core → Core) : (s.modCore k f).lines = s.lines := rfl
@[simp] theorem floors_modCore (s : State) (k : Nat) (f : Core → Core) : (s.modCore k f).floors = s.floors := rfl
@[simp] theorem floor_modCore (s : State) (k : Nat) (f : Core → Core) : (s.modCore k f).floor = s.floor := rfl
@[simp] theorem l1_modCore (s : State) (k : Nat) (f : Core → Core) : (s.modCore k f).l1 = s.l1 := rfl
@[simp] theorem picks_modCore (s : State) (k : Nat) (f : Core → Core) : (s.modCore k f).picks = s.picks := rfl
@[simp] theorem mtxOrder_modCore (s : State) (k : Nat) (f : Core → Core) : (s.modCore k f).mtxOrder = s.mtxOrder := rfl
@[simp] theorem readyPlays_modCore (s : State) (k : Nat) (f : Core → Core) : (s.modCore k f).readyPlays = s.readyPlays := rfl
@[simp] theorem ops_modCore (s : State) (k : Nat) (f : Core → Core) : (s.modCore k f).ops = s.ops := rfl
@[simp] theorem nextId_modCore (s : State) (k : Nat) (f : Core → Core) : (s.modCore k f).nextId = s.nextId := rfl
@[simp] theorem astb_modCore (s : State) (k : Nat) (f : Core → Core) : (s.modCore k f).astb = s.astb := rfl
@[simp] theorem lscrReg_modCore (s : State) (k : Nat) (f : Core → Core) : (s.modCore k f).lscrReg = s.lscrReg := rfl
@[simp] theorem modesel_modCore (s : State) (k : Nat) (f : Core → Core) : (s.modCore k f).modesel = s.modesel := rfl
@[simp] theorem kick_modCore (s : State) (k : Nat) (f : Core → Core) : (s.modCore k f).kick = s.kick := rfl
@[simp] theorem kstat_modCore (s : State) (k : Nat) (f : Core → Core) : (s.modCore k f).kstat = s.kstat := rfl
@[simp] theorem unmap_modCore (s : State) (k : Nat) (f : Core → Core) : (s.modCore k f).unmap = s.unmap := rfl
@[simp] theorem ftriage_modCore (s : State) (k : Nat) (f : Core → Core) : (s.modCore k f).ftriage = s.ftriage := rfl
@[simp] theorem fcmd_modCore (s : State) (k : Nat) (f : Core → Core) : (s.modCore k f).fcmd = s.fcmd := rfl
@[simp] theorem saveb_modCore (s : State) (k : Nat) (f : Core → Core) : (s.modCore k f).saveb = s.saveb := rfl
@[simp] theorem savel_modCore (s : State) (k : Nat) (f : Core → Core) : (s.modCore k f).savel = s.savel := rfl
@[simp] theorem fabric_modCore (s : State) (k : Nat) (f : Core → Core) : (s.modCore k f).fabric = s.fabric := rfl
@[simp] theorem expb_modCore (s : State) (k : Nat) (f : Core → Core) : (s.modCore k f).expb = s.expb := rfl
@[simp] theorem expl_modCore (s : State) (k : Nat) (f : Core → Core) : (s.modCore k f).expl = s.expl := rfl
@[simp] theorem csets_modCore (s : State) (k : Nat) (f : Core → Core) : (s.modCore k f).csets = s.csets := rfl
@[simp] theorem routes_modCore (s : State) (k : Nat) (f : Core → Core) : (s.modCore k f).routes = s.routes := rfl
@[simp] theorem svcr_modCore (s : State) (k : Nat) (f : Core → Core) : (s.modCore k f).svcr = s.svcr := rfl
@[simp] theorem svcdone_modCore (s : State) (k : Nat) (f : Core → Core) : (s.modCore k f).svcdone = s.svcdone := rfl
@[simp] theorem svcCount_modCore (s : State) (k : Nat) (f : Core → Core) : (s.modCore k f).svcCount = s.svcCount := rfl
@[simp] theorem svcCounts_modCore (s : State) (k : Nat) (f : Core → Core) : (s.modCore k f).svcCounts = s.svcCounts := rfl
@[simp] theorem services_modCore (s : State) (k : Nat) (f : Core → Core) : (s.modCore k f).services = s.services := rfl
@[simp] theorem faulting_modCore (s : State) (k : Nat) (f : Core → Core) : (s.modCore k f).faulting = s.faulting := rfl
@[simp] theorem collapsing_modCore (s : State) (k : Nat) (f : Core → Core) : (s.modCore k f).collapsing = s.collapsing := rfl
@[simp] theorem freeing_modCore (s : State) (k : Nat) (f : Core → Core) : (s.modCore k f).freeing = s.freeing := rfl
@[simp] theorem kernels_modCore (s : State) (k : Nat) (f : Core → Core) : (s.modCore k f).kernels = s.kernels := rfl
@[simp] theorem launches_modCore (s : State) (k : Nat) (f : Core → Core) : (s.modCore k f).launches = s.launches := rfl
@[simp] theorem queues_modCore (s : State) (k : Nat) (f : Core → Core) : (s.modCore k f).queues = s.queues := rfl
@[simp] theorem lastQueue_modCore (s : State) (k : Nat) (f : Core → Core) : (s.modCore k f).lastQueue = s.lastQueue := rfl
@[simp] theorem claims_modCore (s : State) (k : Nat) (f : Core → Core) : (s.modCore k f).claims = s.claims := rfl
@[simp] theorem graphs_modCore (s : State) (k : Nat) (f : Core → Core) : (s.modCore k f).graphs = s.graphs := rfl
@[simp] theorem barriers_modCore (s : State) (k : Nat) (f : Core → Core) : (s.modCore k f).barriers = s.barriers := rfl
@[simp] theorem tables_modCore (s : State) (k : Nat) (f : Core → Core) : (s.modCore k f).tables = s.tables := rfl
@[simp] theorem sets_modCore (s : State) (k : Nat) (f : Core → Core) : (s.modCore k f).sets = s.sets := rfl
@[simp] theorem plays_modCore (s : State) (k : Nat) (f : Core → Core) : (s.modCore k f).plays = s.plays := rfl
@[simp] theorem fabArrivals_modCore (s : State) (k : Nat) (f : Core → Core) : (s.modCore k f).fabArrivals = s.fabArrivals := rfl
@[simp] theorem fabLost_modCore (s : State) (k : Nat) (f : Core → Core) : (s.modCore k f).fabLost = s.fabLost := rfl
@[simp] theorem links_modCore (s : State) (k : Nat) (f : Core → Core) : (s.modCore k f).links = s.links := rfl
@[simp] theorem lemant_modCore (s : State) (k : Nat) (f : Core → Core) : (s.modCore k f).lemant = s.lemant := rfl
@[simp] theorem freeIx_modCore (s : State) (k : Nat) (f : Core → Core) : (s.modCore k f).freeIx = s.freeIx := rfl

@[simp] theorem agenda_tick (s : State) : (s.tick).agenda = s.agenda := rfl
@[simp] theorem focus_tick (s : State) : (s.tick).focus = s.focus := rfl
@[simp] theorem ctxs_tick (s : State) : (s.tick).ctxs = s.ctxs := rfl
@[simp] theorem cores_tick (s : State) : (s.tick).cores = s.cores := rfl
@[simp] theorem mem_tick (s : State) : (s.tick).mem = s.mem := rfl
@[simp] theorem lscr_tick (s : State) : (s.tick).lscr = s.lscr := rfl
@[simp] theorem remote_tick (s : State) : (s.tick).remote = s.remote := rfl
@[simp] theorem upsets_tick (s : State) : (s.tick).upsets = s.upsets := rfl
@[simp] theorem lines_tick (s : State) : (s.tick).lines = s.lines := rfl
@[simp] theorem floors_tick (s : State) : (s.tick).floors = s.floors := rfl
@[simp] theorem floor_tick (s : State) : (s.tick).floor = s.floor := rfl
@[simp] theorem l1_tick (s : State) : (s.tick).l1 = s.l1 := rfl
@[simp] theorem picks_tick (s : State) : (s.tick).picks = s.picks := rfl
@[simp] theorem mtxOrder_tick (s : State) : (s.tick).mtxOrder = s.mtxOrder := rfl
@[simp] theorem readyPlays_tick (s : State) : (s.tick).readyPlays = s.readyPlays := rfl
@[simp] theorem ops_tick (s : State) : (s.tick).ops = s.ops := rfl
@[simp] theorem nextId_tick (s : State) : (s.tick).nextId = s.nextId := rfl
@[simp] theorem astb_tick (s : State) : (s.tick).astb = s.astb := rfl
@[simp] theorem lscrReg_tick (s : State) : (s.tick).lscrReg = s.lscrReg := rfl
@[simp] theorem modesel_tick (s : State) : (s.tick).modesel = s.modesel := rfl
@[simp] theorem kick_tick (s : State) : (s.tick).kick = s.kick := rfl
@[simp] theorem kstat_tick (s : State) : (s.tick).kstat = s.kstat := rfl
@[simp] theorem unmap_tick (s : State) : (s.tick).unmap = s.unmap := rfl
@[simp] theorem ftriage_tick (s : State) : (s.tick).ftriage = s.ftriage := rfl
@[simp] theorem fcmd_tick (s : State) : (s.tick).fcmd = s.fcmd := rfl
@[simp] theorem saveb_tick (s : State) : (s.tick).saveb = s.saveb := rfl
@[simp] theorem savel_tick (s : State) : (s.tick).savel = s.savel := rfl
@[simp] theorem fabric_tick (s : State) : (s.tick).fabric = s.fabric := rfl
@[simp] theorem expb_tick (s : State) : (s.tick).expb = s.expb := rfl
@[simp] theorem expl_tick (s : State) : (s.tick).expl = s.expl := rfl
@[simp] theorem csets_tick (s : State) : (s.tick).csets = s.csets := rfl
@[simp] theorem routes_tick (s : State) : (s.tick).routes = s.routes := rfl
@[simp] theorem svcr_tick (s : State) : (s.tick).svcr = s.svcr := rfl
@[simp] theorem svcdone_tick (s : State) : (s.tick).svcdone = s.svcdone := rfl
@[simp] theorem svcCount_tick (s : State) : (s.tick).svcCount = s.svcCount := rfl
@[simp] theorem svcCounts_tick (s : State) : (s.tick).svcCounts = s.svcCounts := rfl
@[simp] theorem services_tick (s : State) : (s.tick).services = s.services := rfl
@[simp] theorem faulting_tick (s : State) : (s.tick).faulting = s.faulting := rfl
@[simp] theorem collapsing_tick (s : State) : (s.tick).collapsing = s.collapsing := rfl
@[simp] theorem freeing_tick (s : State) : (s.tick).freeing = s.freeing := rfl
@[simp] theorem kernels_tick (s : State) : (s.tick).kernels = s.kernels := rfl
@[simp] theorem launches_tick (s : State) : (s.tick).launches = s.launches := rfl
@[simp] theorem queues_tick (s : State) : (s.tick).queues = s.queues := rfl
@[simp] theorem lastQueue_tick (s : State) : (s.tick).lastQueue = s.lastQueue := rfl
@[simp] theorem claims_tick (s : State) : (s.tick).claims = s.claims := rfl
@[simp] theorem graphs_tick (s : State) : (s.tick).graphs = s.graphs := rfl
@[simp] theorem barriers_tick (s : State) : (s.tick).barriers = s.barriers := rfl
@[simp] theorem tables_tick (s : State) : (s.tick).tables = s.tables := rfl
@[simp] theorem sets_tick (s : State) : (s.tick).sets = s.sets := rfl
@[simp] theorem plays_tick (s : State) : (s.tick).plays = s.plays := rfl
@[simp] theorem fabArrivals_tick (s : State) : (s.tick).fabArrivals = s.fabArrivals := rfl
@[simp] theorem fabLost_tick (s : State) : (s.tick).fabLost = s.fabLost := rfl
@[simp] theorem links_tick (s : State) : (s.tick).links = s.links := rfl
@[simp] theorem lemant_tick (s : State) : (s.tick).lemant = s.lemant := rfl
@[simp] theorem freeIx_tick (s : State) : (s.tick).freeIx = s.freeIx + 1 := rfl

end Sys2Proof.Laws
end

