-- ==== Sys2Proof/Laws/Events.lean ====
section
/-!
SUPPORT. The ways in which an event ends: with an exact state, with the end of an operation in its issuer, with a context that
waits; and what the operations that tasks and records use do to a device.
-/
namespace Sys2Proof.Machine

/-- An event that is done with a state answers it, with the waits that it has met released. -/
theorem after_done {i : Instr} {s u : State} {p : State → Prop} (h : exec i s = u.done) (hp : p u) : After i s p :=
  ⟨u, h, hp⟩

/-- The lemma of `modWho`: the context of an instance changes, wherever it is. -/
theorem changes_modWho (s : State) (w : Who) (f : Context → Context) : Changes s (s.modWho w f) w f := by
  unfold Changes State.modWho
  cases s.ticketOf w with
  | some k => exact ⟨by simp [ctx_modCtx], fun j hj => by simp [ctx_modCtx, hj], rfl⟩
  | none => exact ⟨fun _ => rfl, rfl⟩

theorem modWho_eq (s : State) (w : Who) (f : Context → Context) :
    s.modWho w f = { s with ctxs := (s.modWho w f).ctxs, launches := (s.modWho w f).launches } := by
  unfold State.modWho
  split <;> rfl

/-- The lemma of `opEnd`: an operation of an instance ends. -/
theorem ends_opEnd (s : State) (o : Op) (w : Who) (failed : Bool) (ho : o.who = some w) (hw : w.launch < 2 ^ 64) :
    Ends s (s.opEnd o failed) o w failed fun c => c := by
  have hn : ¬ 2 ^ 64 ≤ w.launch := by omega
  have key : s.opEnd o failed =
      ({ s.opDrop o.id with floor := max s.floor o.time } : State).modWho w fun c => told o failed c := by
    simp only [State.opEnd, ho, hn, if_false]
    congr 1
    funext c
    unfold told Context.ended
    cases o.tag <;> cases o.kind <;> rfl
  refine ⟨?_, ?_⟩
  · rw [key]
    exact modWho_eq _ _ _
  · rw [key]
    exact changes_modWho ({ s.opDrop o.id with floor := max s.floor o.time } : State) w _

theorem endsAfter_opEnd {i : Instr} {s u : State} {o : Op} {w : Who} {failed : Bool} (h : exec i s = (u.opEnd o failed).done)
    (ho : o.who = some w) (hw : w.launch < 2 ^ 64) : EndsAfter i s u o w failed fun c => c :=
  after_done h (ends_opEnd u o w failed ho hw)

/-- The lemma of `yieldTo`: a context leaves RUNNING for a wait. -/
theorem waits_yieldTo (s : State) (t : Nat) (f : Context → Context) : Waits s (s.yieldTo t f) t f := by
  unfold Waits State.yieldTo
  by_cases h : (s.ctx t).state = .running
  · simp only [h, beq_self_eq_true, if_true]
    refine ⟨rfl, by rw [ctx_modCtx]; simp; rfl, fun j hj => by rw [ctx_modCtx]; simp [hj]; rfl, fun j => ?_⟩
    show SMap.getD (SMap.set s.cores (coreOf t) _) j Core.zero = _
    rw [SMap.getD_set]
    by_cases hj : j = coreOf t
    · subst hj; simp
    · simp [hj]; rfl
  · have hb : ((s.ctx t).state == CtxState.running) = false := by simpa using h
    simp only [hb, h, and_false, if_false]
    exact ⟨rfl, by simp [ctx_modCtx], fun j hj => by simp [ctx_modCtx, hj], fun _ => rfl⟩

/-! ### Queues -/

theorem queue_setQueue_same (s : State) (q : Nat) (x : Queue) : (s.setQueue q x).queue q = x := by
  simp [State.queue, State.setQueue]

theorem queue_setQueue_other (s : State) (q j : Nat) (x : Queue) (h : j ≠ q) : (s.setQueue q x).queue j = s.queue j := by
  simp [State.queue, State.setQueue, SMap.getD_set, h]

/-- The lemma of `modQueue`: one queue changes. -/
theorem modQueue_eq (s : State) (q : Nat) (f : Queue → Queue) :
    s.modQueue q f = { s with queues := SMap.set s.queues q (f (s.queue q)) } := rfl

/-! ### Operations in flight -/

theorem opNew_eq (s : State) (o : Op) :
    s.opNew o = { s with ops := s.ops ++ [{ o with id := s.nextId }], nextId := s.nextId + 1 } := rfl

theorem opDrop_eq (s : State) (id : Nat) : s.opDrop id = { s with ops := s.ops.filter fun o => o.id != id } := rfl

/-- An operation that has just been begun is dropped: only its number has been used. -/
theorem opDrop_opNew (s : State) (o : Op) (h : ∀ x ∈ s.ops, x.id < s.nextId) :
    (s.opNew o).opDrop s.nextId = { s with nextId := s.nextId + 1 } := by
  have : (s.ops.filter fun x => x.id != s.nextId) = s.ops := by
    rw [List.filter_eq_self]
    intro x hx
    have := h x hx
    simp; omega
  simp [State.opNew, State.opDrop, List.filter_append, this]

end Sys2Proof.Machine
end

