-- ==== Sys2Proof/Laws/Words.lean ====
section
/-!
SUPPORT. The ways in which a slot word ends: with two results, with an effect left for commit, with a transfer, with no
effect, and with a trap; and what the suspension of a context does.
-/
namespace Sys2Proof.Machine

/-! ### Two results -/

theorem passed_concat (ls : List Landing) (l : Landing) (p src : Nat) (r : Reg) (m : Nat) (h : writeReg l.write ≠ r) :
    passed (ls ++ [l]) p src r m = passed ls p src r m := by
  have : (writeReg l.write == r) = false := by simpa using h
  simp [passed, List.any_append, this]

theorem land1_land (c : Context) (l : Landing) :
    (c.land1 l).land = if l.write.discarded then c.land else c.land ++ [l] := by
  unfold Context.land1
  split <;> rfl

theorem landsOnly_land2 (s : State) (lat : Nat) (w w' : Write) : LandsOnly s ((s.land lat w).land lat w').endWord := by
  refine ⟨contextOnly_trans (contextOnly_modCur s _)
    (contextOnly_trans (contextOnly_modCur _ _) (contextOnly_endWord _)), ?_⟩
  rw [cur_endWord, cur_land, land1_eq, cur_land, land1_eq s.cur]
  rfl

theorem lands_land2 (s : State) (lat : Nat) (w w' : Write) (h : writeReg w ≠ writeReg w') :
    Lands s ((s.land lat w).land lat w').endWord lat [(writeReg w, writeVal w), (writeReg w', writeVal w')] := by
  have one := lands_land s lat w
  intro m r
  have h1 := one m r
  rw [cur_endWord, regRead_inflight] at h1
  rw [cur_endWord, regRead_inflight, cur_land, regRead_land1, h1]
  have hf : (s.land lat w).focus = s.focus := rfl
  have hp : passed (s.land lat w).cur.land (s.focus.pos + lat) s.focus.pos (writeReg w') m =
      passed s.cur.land (s.focus.pos + lat) s.focus.pos (writeReg w') m := by
    rw [cur_land, land1_land]
    split
    · rfl
    · exact passed_concat _ _ _ _ _ _ h
  by_cases hr' : writeReg w' = r
  · subst hr'
    have hb : (writeReg w == writeReg w') = false := by simpa using h
    simp only [hf, hp, List.find?_cons, hb, beq_self_eq_true, true_and, overtaken_eq]
    by_cases h1 : (writeReg w').fixed = false
    · by_cases h2 : s.focus.pos + lat ≤ m
      · by_cases h3 : passed s.cur.land (s.focus.pos + lat) s.focus.pos (writeReg w') m = true
        · simp [h1, h2, h3]
        · simp [h1, h2, h3]
      · simp [h2]
    · simp [h1]
  · have hb : (writeReg w' == r) = false := by simpa using hr'
    cases hw : writeReg w == r <;> simp [hr', hb, hw]

theorem results_land2 (i : Instr) (s : State) (lat : Nat) (w w' : Write) (hw : writeReg w ≠ writeReg w')
    (h : exec i s = ((s.land lat w).land lat w').ok) : Results i s lat [(writeReg w, writeVal w), (writeReg w', writeVal w')] :=
  ⟨_, h, lands_land2 s lat w w' hw, landsOnly_land2 s lat w w'⟩

/-! ### Effects, transfers and words without effect -/

theorem effect_eq (s : State) (e : Effect) :
    s.effect e = s.modCur fun c => { c with inflight := c.inflight.map (withEffect s.focus.pos s.focus.slot e) } := by
  unfold State.effect State.modBundle State.modCur
  congr 1
  funext c
  congr 2
  funext b
  by_cases hb : b.pos = s.focus.pos <;> simp [withEffect, hb]

@[simp] theorem focus_effect (s : State) (e : Effect) : (s.effect e).focus = s.focus := rfl

theorem leaves_effect (i : Instr) (s : State) (e : Effect) (h : exec i s = (s.effect e).ok) : Leaves i s e := by
  refine ⟨_, h, ?_, ?_⟩
  · rw [effect_eq]
    exact contextOnly_trans (contextOnly_modCur _ _) (contextOnly_endWord _)
  · rw [cur_endWord, effect_eq, cur_modCur]
    rfl

theorem noEffect_ok (i : Instr) (s : State) (h : exec i s = s.ok) : NoEffect i s :=
  ⟨_, h, contextOnly_endWord s, cur_endWord s⟩

theorem branch_eq (s : State) (target : Nat) :
    s.branch target = s.modCur fun c => { c with
      inflight := c.inflight.map (targeted s.focus.pos (some target)), pc := target } := by
  have : s.branch target = (s.modCur fun c => { c with inflight := c.inflight.map fun b =>
      if b.pos == s.focus.pos then { b with target := some target } else b }).modCur fun c => { c with pc := target } := rfl
  rw [this, modCur_modCur]
  congr 1
  funext c
  congr 1
  show c.inflight.map _ = c.inflight.map _
  congr 1
  funext b
  by_cases hb : b.pos = s.focus.pos <;> simp [targeted, hb]

/-- A transfer that is not taken, with or without a result. -/
theorem transfers_none (i : Instr) (s : State) (h : exec i s = s.ok) : Transfers i s [] none := by
  refine ⟨_, h, fun m r => ?_, contextOnly_endWord s, ?_⟩
  · rw [cur_endWord, regRead_inflight]; rfl
  · rw [cur_endWord]
    have : (targeted s.focus.pos none) = id := by funext b; simp [targeted]
    simp [this]

theorem transfers_none_result (i : Instr) (s : State) (w : Write) (h : exec i s = (s.land 1 w).ok) :
    Transfers i s [(writeReg w, writeVal w)] none := by
  refine ⟨_, h, lands_land s 1 w, (landsOnly_land s 1 w).1, ?_⟩
  have : (targeted s.focus.pos none) = id := by funext b; simp [targeted]
  simp only [this, List.map_id, Option.getD_none]
  exact (landsOnly_land s 1 w).2

theorem regRead_pc (c : Context) (bs : List Bundle) (pc m : Nat) (r : Reg) :
    regRead { c with inflight := bs, pc := pc } m r = regRead c m r := by
  cases r <;> rfl

theorem transfers_branch (i : Instr) (s : State) (target : Nat) (h : exec i s = (s.branch target).ok) :
    Transfers i s [] (some target) := by
  refine ⟨_, h, fun m r => ?_, ?_, ?_⟩
  · rw [cur_endWord, regRead_inflight, branch_eq, cur_modCur, regRead_pc]; rfl
  · rw [branch_eq]
    exact contextOnly_trans (contextOnly_modCur _ _) (contextOnly_endWord _)
  · rw [cur_endWord, branch_eq, cur_modCur]
    rfl

theorem transfers_branch_result (i : Instr) (s : State) (target : Nat) (w : Write)
    (h : exec i s = ((s.land 1 w).branch target).ok) :
    Transfers i s [(writeReg w, writeVal w)] (some target) := by
  refine ⟨_, h, fun m r => ?_, ?_, ?_⟩
  · have := lands_land s 1 w m r
    rw [cur_endWord, regRead_inflight] at this
    rw [cur_endWord, regRead_inflight, branch_eq, cur_modCur, regRead_pc]
    exact this
  · rw [branch_eq]
    exact contextOnly_trans (contextOnly_modCur _ _)
      (contextOnly_trans (contextOnly_modCur _ _) (contextOnly_endWord _))
  · rw [cur_endWord, branch_eq, cur_modCur, cur_land, land1_eq]
    rfl

/-! ### Suspension -/

@[simp] theorem ctx_modCore (s : State) (k j : Nat) (f : Core → Core) : (s.modCore k f).ctx j = s.ctx j := rfl

theorem suspend_ctxs (s : State) (k : Nat) (tr : Trap) (n pc rpos rpc j : Nat) :
    (s.suspend k tr n pc rpos rpc).ctx j =
      if j = k then { (s.ctx k).discard rpos rpc with
        state := .faulted, reason := 0, arg := 0, block := none, met := none, pos := rpos, pc := rpc
        pending := (s.ctx k).pending.filter (·.isAsync)
        fault := some { trap := tr, pos := n, pc := pc, rpc := rpc, rpos := rpos, ltime := (s.ctx k).ltime, stage := 0, norec := false } }
      else s.ctx j := by
  have hd : ∀ (x : State) i, (x.discard k rpos rpc).ctx i = if i = k then (x.ctx k).discard rpos rpc else x.ctx i := by
    intro x i
    show (x.modCtx k fun c => c.discard rpos rpc).ctx i = _
    exact ctx_modCtx _ _ _ _
  simp only [State.suspend, ctx_modCtx]
  have hi : ∀ (b : Bool) (x : State) (f : Core → Core) i, (if b = true then x.modCore (coreOf k) f else x).ctx i = x.ctx i := by
    intro b x f i
    cases b <;> rfl
  simp only [hi, hd, if_true]
  by_cases hj : j = k
  · rw [if_pos hj, if_pos hj]
    rfl
  · rw [if_neg hj, if_neg hj, if_neg hj]
    rfl

theorem discard_held (c : Context) (n pc q : Nat) :
    ((c.discard n pc).held q).map (fun e => (e.pos, e.slot, e.part, e.data)) =
      ((c.queue q).filter fun e => decide (e.pos < n) && (match e.taken with
        | some (p, _, _) => decide (n ≤ p)
        | none => true)).map (fun e => (e.pos, e.slot, e.part, e.data)) := by
  have hq : (c.discard n pc).queue q = (((c.queue q).filter fun e => decide (e.pos < n)).map fun e =>
      match e.taken with
      | some (p, _, _) => if n ≤ p then { e with taken := none } else e
      | none => e) := by
    have := SMap.get_map c.queues (fun _ es => (es.filter fun e => decide (e.pos < n)).map fun e =>
      match e.taken with
      | some (p, _, _) => if n ≤ p then { e with taken := none } else e
      | none => e) q
    show SMap.getD (c.queues.map _) q [] = _
    refine (congrArg (fun x => Option.getD x []) this).trans ?_
    unfold Context.queue SMap.getD
    cases SMap.get? c.queues q <;> rfl
  unfold Context.held
  rw [hq]
  generalize c.queue q = es
  induction es with
  | nil => rfl
  | cons e es ih =>
    by_cases hp : e.pos < n
    · cases ht : e.taken with
      | none => simp [hp, ht, ih]
      | some x =>
        obtain ⟨p, a, b⟩ := x
        by_cases hn : n ≤ p
        · simp [hp, ht, hn, ih]
        · simp [hp, ht, hn, ih]
    · simp [hp, ih]

theorem suspend_mem (s : State) (k : Nat) (tr : Trap) (n pc rpos rpc : Nat) : (s.suspend k tr n pc rpos rpc).mem = s.mem := by
  simp only [State.suspend]
  split <;> rfl

theorem suspend_ops (s : State) (k : Nat) (tr : Trap) (n pc rpos rpc : Nat) :
    ∀ o ∈ (s.suspend k tr n pc rpos rpc).ops, o ∈ s.ops := by
  have : (s.suspend k tr n pc rpos rpc).ops = ((s.drainMtx (s.ctx k).who).discard k rpos rpc).ops := by
    simp only [State.suspend]
    split <;> rfl
  rw [this]
  intro o ho
  exact (List.mem_filter.1 (List.mem_filter.1 ho).1).1

/-- What a suspension does, whole. -/
theorem suspended_suspend (s : State) (k : Nat) (tr : Trap) (n pc rpos rpc : Nat) :
    Suspended s (s.suspend k tr n pc rpos rpc) k tr n pc rpos rpc := by
  have hk := suspend_ctxs s k tr n pc rpos rpc k
  rw [if_pos rfl] at hk
  unfold Suspended
  simp only [hk]
  refine ⟨trivial, trivial, trivial, ⟨_, rfl, rfl, rfl, rfl, rfl, rfl, rfl⟩, rfl, rfl, ⟨rfl, rfl, rfl, rfl, rfl, rfl, rfl, rfl⟩, ?_, ?_, ?_, ?_⟩
  · intro q
    exact discard_held (s.ctx k) rpos rpc q
  · intro j hj
    rw [suspend_ctxs, if_neg hj]
  · intro a
    rw [suspend_mem]
  · exact suspend_ops s k tr n pc rpos rpc

end Sys2Proof.Machine
end

