-- ==== Sys2Proof/Laws/Vectors.lean ====
section
/-!
SUPPORT. Elements of numbers, and the two ways in which a vector word ends: a whole register, or a datum in a queue.
-/
namespace Sys2Proof.Machine

/-! ### Elements -/

theorem elem_lt (e x j : Nat) : elem e x j < 2 ^ e := Nat.mod_lt _ (Nat.two_pow_pos e)

theorem elem_testBit (e x j i : Nat) : (elem e x j).testBit i = (decide (i < e) && x.testBit (e * j + i)) := by
  simp [elem, Nat.testBit_mod_two_pow, Nat.testBit_div_two_pow, Nat.add_comm]

/-- An element depends only on the window that holds it. -/
theorem elem_mod {e W j : Nat} (z : Nat) (h : e * (j + 1) ≤ W) : elem e (z % 2 ^ W) j = elem e z j := by
  apply Nat.eq_of_testBit_eq
  intro i
  rw [elem_testBit, elem_testBit, Nat.testBit_mod_two_pow]
  by_cases hi : i < e
  · have : e * j + i < W := by rw [Nat.mul_add] at h; omega
    simp [this]
  · simp [hi]

theorem elem_succ (e x j : Nat) : elem e x (j + 1) = elem e (x / 2 ^ e) j := by
  simp only [elem, Nat.div_div_eq_div_mul, ← Nat.pow_add]
  congr 3
  rw [Nat.mul_add]
  omega

theorem joined_lt (e : Nat) (xs : List Nat) : joined e xs < 2 ^ (e * xs.length) := by
  induction xs with
  | nil => simp [joined]
  | cons x xs ih =>
    have h1 : x % 2 ^ e < 2 ^ e := Nat.mod_lt _ (Nat.two_pow_pos e)
    simp only [joined, List.length_cons]
    have h2 : 2 ^ (e * (xs.length + 1)) = 2 ^ e * 2 ^ (e * xs.length) := by rw [← Nat.pow_add]; congr 1; rw [Nat.mul_add]; omega
    rw [h2]
    calc x % 2 ^ e + 2 ^ e * joined e xs < 2 ^ e + 2 ^ e * joined e xs := by omega
      _ = 2 ^ e * (joined e xs + 1) := by rw [Nat.mul_add]; omega
      _ ≤ 2 ^ e * 2 ^ (e * xs.length) := Nat.mul_le_mul_left _ ih

/-- The elements of joined elements. -/
theorem elem_joined (e : Nat) (xs : List Nat) (j : Nat) : elem e (joined e xs) j = xs.getD j 0 % 2 ^ e := by
  induction xs generalizing j with
  | nil => simp [joined, elem]
  | cons x xs ih =>
    have hp := Nat.two_pow_pos e
    cases j with
    | zero => simp [joined, elem, Nat.add_mul_mod_self_left]
    | succ j =>
      rw [elem_succ]
      have : joined e (x :: xs) / 2 ^ e = joined e xs := by
        simp only [joined]
        rw [Nat.add_mul_div_left _ _ hp, Nat.div_eq_of_lt (Nat.mod_lt _ hp), Nat.zero_add]
      rw [this, ih]
      simp

@[simp] theorem elems_length (e n x : Nat) : (elems e n x).length = n := by
  induction n generalizing x with
  | zero => rfl
  | succ n ih => simp [elems, ih]

theorem elems_getD (e n x j : Nat) (h : j < n) : (elems e n x).getD j 0 = elem e x j := by
  induction n generalizing x j with
  | zero => omega
  | succ n ih =>
    cases j with
    | zero => simp [elems, elem]
    | succ j =>
      rw [elem_succ, ← ih (x / 2 ^ e) j (by omega)]
      simp [elems]

theorem elems_getElem (e n x j : Nat) (h : j < (elems e n x).length) : (elems e n x)[j] = elem e x j := by
  have hn : j < n := by simpa using h
  rw [← elems_getD e n x j hn]
  simp [List.getD_eq_getElem?_getD, List.getElem?_eq_getElem h]

@[simp] theorem mergeElems_length (z : Bool) (bs : List Bool) (xs os : List Nat) :
    (mergeElems z bs xs os).length = xs.length := by
  induction xs generalizing bs os with
  | nil => cases bs <;> rfl
  | cons x xs ih => cases bs <;> cases os <;> simp [mergeElems, ih]

theorem mergeElems_getD (z : Bool) (bs : List Bool) (xs os : List Nat) (j : Nat) (hb : j < bs.length) (hx : j < xs.length)
    (ho : j < os.length) :
    (mergeElems z bs xs os).getD j 0 = if bs.getD j false then xs.getD j 0 else if z then 0 else os.getD j 0 := by
  induction xs generalizing bs os j with
  | nil => simp at hx
  | cons x xs ih =>
    cases bs with
    | nil => simp at hb
    | cons b bs =>
      cases os with
      | nil => simp at ho
      | cons o os =>
        cases j with
        | zero => simp [mergeElems]
        | succ j =>
          have := ih bs os j (by simpa using hb) (by simpa using hx) (by simpa using ho)
          simpa [mergeElems] using this

@[simp] theorem actives_length (p : Pred) (e n : Nat) : (actives p e n).length = n := by simp [actives]

theorem actives_getD (p : Pred) (e n j : Nat) (h : j < n) : (actives p e n).getD j false = p.getLsbD (j * e / 8) := by
  simp [actives, active, List.getD_eq_getElem?_getD, h]

/-! ### A whole vector result -/

theorem push_eq (s : State) (q W : Nat) (x : Vec) :
    s.push q W x = s.modCur fun c => c.setQueue q ((c.queue q).map (filledBy s.focus.pos s.focus.slot W x.toNat)) := by
  unfold State.push State.modCur
  congr 1
  funext c
  unfold Context.fill fillEntry
  congr 2
  funext e
  by_cases h1 : e.pos = s.focus.pos <;> by_cases h2 : e.slot = s.focus.slot <;> by_cases h3 : e.part = 0 <;>
    simp [filledBy, h1, h2, h3]

theorem queue_setQueue (c : Context) (q k : Nat) (es : List Entry) :
    (c.setQueue q es).queue k = if k = q then es else c.queue k := SMap.getD_set _ _ _ _ _

theorem pushes_push (i : Instr) (s : State) (q W : Nat) (x : Vec) (h : exec i s = (s.push q W x).ok) :
    Pushes i s q W x.toNat := by
  refine ⟨_, h, ?_, ?_, ?_⟩
  · rw [push_eq]
    exact contextOnly_trans (contextOnly_modCur _ _) (contextOnly_endWord _)
  · intro k
    rw [cur_endWord, push_eq, cur_modCur]
    by_cases hk : k = q
    · subst hk
      rw [if_pos rfl]
      exact (queue_setQueue _ _ _ _).trans (if_pos rfl)
    · rw [if_neg hk]
      exact (queue_setQueue _ _ _ _).trans (if_neg hk)
  · rw [cur_endWord, push_eq, cur_modCur]
    rfl

/-- What a window and the bits above it make of a register. -/
theorem window_testBit (W v x i : Nat) : (v / 2 ^ W * 2 ^ W + x % 2 ^ W).testBit i =
    if i < W then x.testBit i else v.testBit i := by
  have h := Nat.mod_lt x (Nat.two_pow_pos W)
  rw [Nat.mul_comm, Nat.testBit_two_pow_mul_add _ h]
  split
  · rename_i hi; simp [Nat.testBit_mod_two_pow, hi]
  · rename_i hi; rw [Nat.testBit_div_two_pow]; congr 1; omega

theorem vold_testBit (s : State) (d : BitVec 6) (i : Nat) (h : 1024 ≤ i) : (s.vold d).testBit i = false := by
  unfold State.vold
  split
  · exact BitVec.getLsbD_of_ge _ i h
  · simp

/-- The whole vector that a window makes (R139). -/
def windowVec (s : State) (d : BitVec 6) (W x : Nat) : Vec := BitVec.ofNat 1024 (s.vold d / 2 ^ W * 2 ^ W + x % 2 ^ W)

theorem windowVec_elem {s : State} {d : BitVec 6} {e W x j : Nat} (hW : W ≤ 1024) (h : e * (j + 1) ≤ W) :
    elem e (windowVec s d W x).toNat j = elem e x j := by
  apply Nat.eq_of_testBit_eq
  intro i
  rw [elem_testBit, elem_testBit]
  by_cases hi : i < e
  · have hb : e * j + i < W := by rw [Nat.mul_add] at h; omega
    have := window_testBit W (s.vold d) x (e * j + i)
    rw [if_pos hb] at this
    rw [windowVec, BitVec.toNat_ofNat, Nat.testBit_mod_two_pow, this]
    have : e * j + i < 1024 := by omega
    simp [this]
  · simp [hi]

theorem windowVec_low (s : State) (d : BitVec 6) (W x : Nat) (hW : W ≤ 1024) :
    (windowVec s d W x).toNat % 2 ^ W = x % 2 ^ W := by
  apply Nat.eq_of_testBit_eq
  intro i
  rw [Nat.testBit_mod_two_pow, Nat.testBit_mod_two_pow, windowVec, BitVec.toNat_ofNat, Nat.testBit_mod_two_pow, window_testBit]
  by_cases hi : i < W
  · have : i < 1024 := by omega
    simp [hi, this]
  · simp [hi]

theorem windowVec_high (s : State) (d : BitVec 6) (W x : Nat) :
    (windowVec s d W x).toNat / 2 ^ W = s.vold d / 2 ^ W := by
  apply Nat.eq_of_testBit_eq
  intro i
  rw [Nat.testBit_div_two_pow, Nat.testBit_div_two_pow, windowVec, BitVec.toNat_ofNat, Nat.testBit_mod_two_pow, window_testBit]
  by_cases hi : i + W < 1024
  · have : ¬ i + W < W := by omega
    simp [hi, this]
  · rw [vold_testBit s d (i + W) (by omega)]
    simp [hi]

/-- A word that ends with a window completes with the vector it makes. -/
theorem vectorResult_vwindow (i : Instr) (s : State) (lat : Nat) (d : BitVec 6) (W x : Nat)
    (h : exec i s = (s.vwindow lat d W x).ok) : VectorResult i s lat d W (windowVec s d W x) := by
  refine ⟨windowVec_high s d W x, ?_⟩
  have h' : exec i s = (s.vres lat d.toNat W (windowVec s d W x)).ok := h
  unfold State.vres at h'
  split at h'
  · rename_i hd
    rw [if_pos hd]
    exact results_land i s lat (.v d.toNat (windowVec s d W x)) h'
  · rename_i hd
    rw [if_neg hd]
    exact pushes_push i s _ W _ h'

/-- A word that ends with joined elements of a window completes with them. -/
theorem windowed_vwindow (i : Instr) (s : State) (lat : Nat) (d : BitVec 6) (e W : Nat) (xs : List Nat) (f : Nat → Int)
    (hW : W ≤ 1024) (hx : ∀ j, j < W / e → xs.getD j 0 % 2 ^ e = wrap e (f j))
    (h : exec i s = (s.vwindow lat d W (joined e xs)).ok) : Windowed i s lat d e W f := by
  refine ⟨_, vectorResult_vwindow i s lat d W _ h, fun j hj => ?_⟩
  have : e * (j + 1) ≤ W := by
    calc e * (j + 1) ≤ e * (W / e) := Nat.mul_le_mul_left _ hj
      _ ≤ W := Nat.mul_div_le W e
  rw [windowVec_elem hW this, elem_joined, hx j hj]

/-- A word that ends with predicated elements of a window completes with them. -/
theorem elementwise_vput (i : Instr) (s : State) (lat : Nat) (d : BitVec 6) (z : Bool) (p : Pred) (e W : Nat)
    (xs : List Nat) (f : Nat → Int) (hW : W ≤ 1024) (hl : xs.length = W / e)
    (hx : ∀ j, j < W / e → xs.getD j 0 % 2 ^ e = wrap e (f j))
    (h : exec i s = (s.vput lat d z p e W xs).ok) : Elementwise i s lat d z p e W f := by
  refine ⟨_, vectorResult_vwindow i s lat d W _ h, fun j hj => ?_⟩
  have : e * (j + 1) ≤ W := by
    calc e * (j + 1) ≤ e * (W / e) := Nat.mul_le_mul_left _ hj
      _ ≤ W := Nat.mul_div_le W e
  rw [windowVec_elem hW this, elem_joined, mergeElems_getD _ _ _ _ _ (by simpa using hj) (by omega) (by simpa using hj),
    actives_getD _ _ _ _ hj, elems_getD _ _ _ _ hj]
  by_cases ha : p.getLsbD (j * e / 8) = true
  · rw [if_pos ha, if_pos ha, hx j hj]
  · have ho := elem_lt e (s.vold d) j
    by_cases hz : z = true ∨ 60 ≤ d.toNat
    · have hz' : (z || decide (60 ≤ d.toNat)) = true := by simpa using hz
      simp only [Bool.not_eq_true] at ha
      simp [ha, hz, hz']
    · have hz' : (z || decide (60 ≤ d.toNat)) = false := by simpa using hz
      simp only [Bool.not_eq_true] at ha
      simp [ha, hz, hz', Nat.mod_eq_of_lt ho]

theorem zipWith_getD (f : Nat → Nat → Nat) (xs ys : List Nat) (j : Nat) (hx : j < xs.length) (hy : j < ys.length) :
    (xs.zipWith f ys).getD j 0 = f (xs.getD j 0) (ys.getD j 0) := by
  simp [List.getD_eq_getElem?_getD, List.getElem?_zipWith, hx, hy]

theorem map_getD (f : Nat → Nat) (xs : List Nat) (j : Nat) (hx : j < xs.length) :
    (xs.map f).getD j 0 = f (xs.getD j 0) := by
  simp [List.getD_eq_getElem?_getD, hx]

/-- A predicated element-wise word of two sources. -/
theorem elementwise_vmap2 (i : Instr) (s : State) (lat : Nat) (d a b : BitVec 6) (p : BitVec 3) (w e : Nat)
    (g : Nat → Nat → Nat) (f : Nat → Int) (hw : w ≤ 2)
    (hf : ∀ j, g (elem e (s.rv 0 a.toNat).toNat j) (elem e (s.rv 1 b.toNat).toNat j) % 2 ^ e = wrap e (f j))
    (h : exec i s = s.vmap2 lat d a b p w e g) :
    Elementwise i s lat d false (s.rp p.toNat) e (256 * 2 ^ w) f := by
  have hW : 256 * 2 ^ w ≤ 1024 := by
    have : 2 ^ w ≤ 2 ^ 2 := Nat.pow_le_pow_right (by omega) hw
    omega
  refine elementwise_vput i s lat d false _ e _ _ f hW ?_ ?_ h
  · simp [State.velems, windowBits]
  · intro j hj
    rw [zipWith_getD _ _ _ _ (by simpa [State.velems, windowBits] using hj) (by simpa [State.velems, windowBits] using hj)]
    simp only [State.velems]
    have hj' : j < windowBits w / e := hj
    rw [elems_getD _ _ _ _ hj', elems_getD _ _ _ _ hj']
    exact hf j

/-- A predicated element-wise word of one source. -/
theorem elementwise_vmap1 (i : Instr) (s : State) (lat : Nat) (d a : BitVec 6) (z : Bool) (p : BitVec 3) (w e : Nat)
    (g : Nat → Nat) (f : Nat → Int) (hw : w ≤ 2)
    (hf : ∀ j, g (elem e (s.rv 0 a.toNat).toNat j) % 2 ^ e = wrap e (f j))
    (h : exec i s = s.vmap1 lat d a z p w e g) :
    Elementwise i s lat d z (s.rp p.toNat) e (256 * 2 ^ w) f := by
  have hW : 256 * 2 ^ w ≤ 1024 := by
    have : 2 ^ w ≤ 2 ^ 2 := Nat.pow_le_pow_right (by omega) hw
    omega
  refine elementwise_vput i s lat d z _ e _ _ f hW ?_ ?_ h
  · simp [State.velems, windowBits]
  · intro j hj
    rw [map_getD _ _ _ (by simpa [State.velems, windowBits] using hj)]
    simp only [State.velems]
    have hj' : j < windowBits w / e := hj
    rw [elems_getD _ _ _ _ hj']
    exact hf j

end Sys2Proof.Machine
end

