-- ==== Sys2Proof/Laws/Loads.lean ====
section
/-!
SUPPORT. What the accesses of a word do: marking leaves, reading at an order point, and the way in which a load begins, a
store leaves its bytes, and a check ends in a trap.
-/
namespace Sys2Proof.Machine

/-! ### What touches memory and the event log alone -/

theorem touches_refl (s : State) : Touches s s := ⟨rfl, fun _ => ⟨rfl, rfl⟩⟩

theorem touches_trans {s t u : State} (h : Touches s t) (h' : Touches t u) : Touches s u := by
  have key := congrArg (fun x : State => ({ x with
    mem := u.mem, lines := u.lines, l1 := u.l1, lemant := { x.lemant with log := u.lemant.log }, freeIx := u.freeIx } : State))
    h.1
  refine ⟨h'.1.trans key, fun hs => ?_⟩
  have ht : t.upsets = [] := by rw [h.1]; exact hs
  exact ⟨(h'.2 ht).1.trans (h.2 hs).1, (h'.2 ht).2.trans (h.2 hs).2⟩

theorem touches_foldl {α : Type} (f : State → α → State) (hf : ∀ x a, Touches x (f x a)) (ps : List α) (s : State) :
    Touches s (ps.foldl f s) := by
  induction ps generalizing s with
  | nil => exact touches_refl s
  | cons p ps ih => exact touches_trans (hf s p) (ih _)

/-- Reports of errors that stand somewhere. -/
theorem touches_reports (s : State) (us : List Upset) (h : s.upsets = [] → us = []) :
    Touches s (us.foldl (fun s u => s.reportUpset u) s) := by
  have key : ∀ (us : List Upset) (x : State), ∃ g n, us.foldl (fun s u => s.reportUpset u) x =
      { x with lemant := { x.lemant with log := g }, freeIx := n } := by
    intro us
    induction us with
    | nil => exact fun x => ⟨_, _, rfl⟩
    | cons u us ih =>
      intro x
      obtain ⟨g, n, hg⟩ := ih (x.reportUpset u)
      exact ⟨g, n, by rw [List.foldl_cons, hg]; rfl⟩
  obtain ⟨g, n, hg⟩ := key us s
  refine ⟨by rw [hg], fun hs => ?_⟩
  rw [h hs]
  exact ⟨rfl, rfl⟩

theorem touches_reportIn (s : State) (p : Place) (a n : Nat) : Touches s (s.reportIn p a n) :=
  touches_reports s _ fun h => by rw [h]; rfl

/-- A walk's report. -/
theorem touches_reportWalk (s : State) (asid va : Nat) : Touches s (s.reportWalk asid va) := by
  unfold State.reportWalk
  split
  · exact touches_refl s
  · exact touches_trans (touches_reportIn _ _ _ _) (touches_foldl _ (fun x a => touches_reportIn x _ _ _) _ _)

/-! ### Marks and logical time -/

theorem touches_orPte (s : State) (a mask : Nat) : Touches s (s.orPte a mask) := by
  unfold State.orPte
  simp only
  split
  · exact touches_refl s
  · exact ⟨rfl, fun _ => ⟨rfl, rfl⟩⟩

/-- The lemma of `mark`: leaves get their bits, and errors that the walks have met are reported. -/
theorem touches_mark (s : State) (w : Who) (asid die : Nat) (segs : List Seg) (write : Bool) :
    Touches s (s.mark w asid die segs write) := by
  unfold State.mark
  split
  · exact touches_refl s
  · apply touches_foldl
    intro x p
    split
    · exact touches_trans (touches_reportWalk _ _ _) (touches_orPte _ _ _)
    · exact touches_refl x

/-- A step in logical time: memory stays, and the time does not fall. -/
def Retimes (x y : State × Nat) : Prop := Touches x.1 y.1 ∧ y.1.mem = x.1.mem ∧ x.2 ≤ y.2

theorem retimes_refl (x : State × Nat) : Retimes x x := ⟨touches_refl x.1, rfl, Nat.le_refl _⟩

theorem retimes_foldl {α : Type} (f : State × Nat → α → State × Nat) (hf : ∀ x a, Retimes x (f x a)) (ps : List α)
    (x : State × Nat) : Retimes x (ps.foldl f x) := by
  induction ps generalizing x with
  | nil => exact retimes_refl x
  | cons p ps ih =>
    obtain ⟨h, hm, h1⟩ := hf x p
    obtain ⟨h', hm', h2⟩ := ih (f x p)
    exact ⟨touches_trans h h', hm'.trans hm, Nat.le_trans h1 h2⟩

theorem mem_reports (us : List Upset) (x : State) : (us.foldl (fun s u => s.reportUpset u) x).mem = x.mem := by
  induction us generalizing x with
  | nil => rfl
  | cons u us ih => exact ih _

/-- The lemma of `recall`. -/
theorem touches_recall (s : State) (core : Option Nat) (xs : List Nat) :
    Touches s (s.recall core xs) ∧ (s.recall core xs).mem = s.mem := by
  unfold State.recall
  refine ⟨touches_trans ⟨rfl, fun _ => ⟨rfl, rfl⟩⟩ (touches_reports _ _ fun h => ?_), mem_reports _ _⟩
  have hs : s.upsets = [] := h
  simp [State.dirtyUpsets, hs]

/-- A read of one sector. -/
theorem retimes_readSector (s : State) (core : Option Nat) (lt sector : Nat) :
    Retimes (s, lt) (s.readSector core lt sector) := by
  unfold State.readSector
  split
  · refine ⟨?_, ?_, Nat.le_max_left _ _⟩ <;> dsimp only <;> split <;>
      first | exact ⟨rfl, fun _ => ⟨rfl, rfl⟩⟩ | rfl
  · obtain ⟨h, hm⟩ := touches_recall s core (if core.isSome then [sector] else lineSectors (sector / 4))
    refine ⟨touches_trans h ?_, ?_, Nat.le_max_left _ _⟩
    · cases core <;> exact ⟨rfl, fun _ => ⟨rfl, rfl⟩⟩
    · cases core <;> exact hm

theorem retimes_readTime (s : State) (core : Option Nat) (lt pa n : Nat) : Retimes (s, lt) (s.readTime core lt pa n) :=
  retimes_foldl _ (fun x a => retimes_readSector x.1 core x.2 a) _ (s, lt)

/-- A read takes part in logical time and touches nothing but the times of lines, the copies in L1s and the event log. -/
theorem retimes_access (s : State) (core : Option Nat) (w : Who) (asid die lt : Nat) (segs : List Seg) :
    Retimes (s, lt) (s.accessTime core w asid die lt segs false) := by
  unfold State.accessTime
  split
  · exact retimes_refl _
  · refine retimes_foldl _ (fun x c => ?_) _ (s, lt)
    split
    · split
      · exact retimes_refl _
      · exact retimes_readTime _ _ _ _ _
    · exact retimes_refl _

/-! ### The canonical form of memory -/

/-- Writing units of data one after another keeps the form. -/
theorem wf_foldl_write {α : Type} (xs : List α) (f : Mem → α → Nat × List Byte) (m : Mem) (h : Mem.wf m = true) :
    Mem.wf (xs.foldl (fun m x => Mem.write m (f m x).1 (f m x).2) m) = true := by
  induction xs generalizing m with
  | nil => exact h
  | cons x xs ih => exact ih _ (Mem.wf_write _ _ _ h)

/-- A write to any place, under a key or not, keeps the canonical form of physical memory. -/
theorem wf_poke (s : State) (p : Place) (a : Nat) (bs : List Byte) (h : Mem.wf s.mem = true) :
    Mem.wf (s.poke p a bs).mem = true := by
  cases p with
  | phys => exact Mem.wf_write _ _ _ h
  | cipher k =>
    exact wf_foldl_write _ (fun _ line => (256 * line, xtsUnit false (SMap.getD s.lemant.keys k 0) line (Mem.bytes
      (Mem.write (Mem.write [] (256 * line) (s.plainUnit k line)) a bs) (256 * line) 256))) _ h
  | scratch k => exact h
  | lscr => exact h
  | remote => exact h
  | saved l k => exact h

/-- The parts of a write keep it too. -/
theorem wf_put (s : State) (ws : List (Place × Nat × List Byte)) (h : Mem.wf s.mem = true) : Mem.wf (s.put ws).mem = true := by
  unfold State.put
  induction ws generalizing s with
  | nil => exact h
  | cons w ws ih => exact ih _ (wf_poke s w.1 w.2.1 w.2.2 h)

/-! ### Loads -/

/-- The state in which a load has read: its leaves are marked and its pieces timed, and its context has a new LTIME and the
error it has met. -/
theorem load_eq (s : State) (segs : List Seg) :
    ∃ x lt, Touches s x ∧ x.mem = (marked s segs).mem ∧ s.cur.ltime ≤ lt ∧
      s.load segs = (x.modCur fun c => { c with
        ltime := lt
        inflight := c.inflight.map fun b => if b.pos == s.focus.pos then b.setWord s.focus.slot fun w =>
          { w with bad := ((marked s segs).upsetOf s.cur.who s.cur.asid s.die segs).map (·.cause) } else b },
        loaded s segs) := by
  have h0 : Touches s (marked s segs) := touches_mark s s.cur.who s.cur.asid s.die segs false
  have hf0 : (marked s segs).focus = s.focus := by rw [h0.1]
  have hc0 : (marked s segs).ctxs = s.ctxs := by rw [h0.1]
  have hd : (marked s segs).die = s.die := by unfold State.die; rw [hf0]
  have hk : (marked s segs).here = s.here := by unfold State.here; rw [hf0]
  obtain ⟨hr, hm, hl⟩ := retimes_access (marked s segs) (some s.here) s.cur.who s.cur.asid s.die s.cur.ltime segs
  generalize hx : (marked s segs).accessTime (some s.here) s.cur.who s.cur.asid s.die s.cur.ltime segs false = r at hr hm hl
  obtain ⟨x, lt⟩ := r
  have ht : Touches s x := touches_trans h0 hr
  have hf : x.focus = s.focus := by rw [ht.1]
  have hcur : x.cur = s.cur := by
    unfold State.cur State.ctx
    rw [hf, show x.ctxs = s.ctxs by rw [ht.1]]
  refine ⟨x, max s.cur.ltime lt, ht, hm, Nat.le_max_left _ _, ?_⟩
  have hload : s.load segs = ((x.modCur fun c => { c with ltime := max c.ltime lt }).modCur fun c => { c with
        inflight := c.inflight.map fun b => if b.pos == s.focus.pos then b.setWord s.focus.slot fun w =>
          { w with bad := ((marked s segs).upsetOf s.cur.who s.cur.asid s.die segs).map (·.cause) } else b },
      loaded s segs) := by
    have hx' : (s.mark s.cur.who s.cur.asid s.die segs false).accessTime
        (some (s.mark s.cur.who s.cur.asid s.die segs false).here) s.cur.who s.cur.asid
        (s.mark s.cur.who s.cur.asid s.die segs false).die s.cur.ltime segs false = (x, lt) := by
      rw [show (s.mark s.cur.who s.cur.asid s.die segs false).die = s.die from hd,
        show (s.mark s.cur.who s.cur.asid s.die segs false).here = s.here from hk]
      exact hx
    simp only [State.load]
    rw [hx']
    simp only [Prod.mk.injEq]
    refine ⟨?_, ?_⟩
    · unfold State.modBundle
      rw [show (x.modCur fun c => { c with ltime := max c.ltime lt }).focus = s.focus from hf]
      unfold State.modCur
      rw [hf, show ((x.modCtx s.focus.ticket fun c => { c with ltime := max c.ltime lt }).focus).ticket
        = s.focus.ticket from congrArg Focus.ticket hf, show (s.mark s.cur.who s.cur.asid s.die segs false).die = s.die from hd]
      rfl
    · rw [show (s.mark s.cur.who s.cur.asid s.die segs false).die = s.die from hd]
      rfl
  rw [hload, modCur_modCur]
  congr 1
  unfold State.modCur State.modCtx
  congr 1
  rw [show x.ctx x.focus.ticket = s.cur from hcur]

end Sys2Proof.Machine
end

