-- ==== Sys2Proof/Tests/Slice0.lean ====
section
/-!
SUPPORT. Tests: words of each family that decode to their instructions, written out from the encoding tables; ill-formed terms
that well-formedness refuses, one for each check; single steps with results worked out by hand from the rules; and states that
meet the hypotheses of the statements.
-/
namespace Sys2Proof.Tests
open Sys2Proof Sys2Proof.Machine

/-! ### A small device -/

/-- A context that runs ADD s3, s1, s2 next, with 64 GiB of addresses mapped one to one. -/
def base : State := State.reset.withFetchWord 32 0x00304200

/-- The issuer and its registers. -/
def me : Who := { launch := 0, inst := 0 }

def withS (s : State) (rs : List (Nat × Word)) : State := s.modCtx 0 fun c => { c with s := rs }

/-- Bytes of memory. -/
def withBytes (s : State) (a : Nat) (bs : List Byte) : State := { s with mem := Mem.write s.mem a bs }

/-- Eight pages from address 2^36 on, with the flags that are given, at physical address 0x50_0000 on. -/
def withPages (s : State) (flags : List Nat) : State :=
  let s := withBytes (withBytes s 0x220008 (leBytes 8 0x230001)) 0x230000 (leBytes 8 0x240001)
  flags.zipIdx.foldl (fun s f => withBytes s (0x240000 + 8 * f.2) (leBytes 8 (0x500000 + 0x10000 * f.2 + f.1))) s

/-- One bundle of one word. -/
def oneWord (slot raw : Nat) (p : Progress) : Bundle :=
  { pos := 0, pc := 0x10000, hdr := 2 ^ (24 + slot), words := [⟨slot, raw, p, none, none, []⟩], following := 0x10008,
    target := none, effects := [], mtx := none, traps := [] }

/-- The context with that bundle in flight. -/
def running (s : State) (b : Bundle) : State :=
  { s.modCtx 0 (fun c => { c with inflight := [b], pos := 1, pc := 0x10008 }) with
    focus := { ticket := 0, pos := 0, slot := (b.words.map (·.slot)).headD 0 } }

/-- An operation in flight. -/
def sent (kind : OpKind) : Op :=
  { id := 5, who := some me, asid := 0, pos := 0, pc := 0x10000, tag := none, time := 7, wait := none, denied := false,
    failed := false, ports := [], kind := kind }

def withOp (s : State) (o : Op) : State := { s with ops := s.ops ++ [o], nextId := 6 }

/-- A link in a state. -/
def withLinkState (s : State) (l : Nat) (st : LState) : State :=
  { s with links := SMap.set s.links l { Link.zero with state := st, en := true, lanes := 4 } }

/-! ### Words (the encodings of Tables 5-1, 5-7, 6-1, 6-7, 7-1, 8-1 and 8-6; the worked examples of the manual) -/

theorem test_decode_ADD : decodeSpace .scl 0x00304200 = .word (.add 3 1 2) false := by decide
theorem test_decode_LI : decodeSpace .scl 0x7050CDEF = .word (.li 5 0xCDEF) false := by decide
theorem test_decode_LIQ : decodeSpace .scl 0x745489AB = .word (.liq 5 1 0x89AB) false := by decide
theorem test_decode_DBNZ : decodeSpace .scl 0xA80207FD = .word (.dbnz 1 0x7FD) false := by decide
theorem test_decode_LD : decodeSpace .adr 0x00511802 = .word (.ld 5 4 3 2) false := by decide
theorem test_decode_AMO : decodeSpace .adr 0x2870C460 = .word (.amo 7 3 4 1 1 0) false := by decide
theorem test_decode_IADDI : decodeSpace .idx 0x08208004 = .word (.iaddi 2 2 4) false := by decide
theorem test_decode_VADD : decodeSpace .vec 0x00200112 = .word (.vadd 2 0 1 0 2 2) false := by decide
theorem test_decode_VADD_masked : decodeSpace .vec 0x0040424A = .word (.vadd 4 1 2 2 1 2) false := by decide
theorem test_decode_QGTH : decodeSpace .adr 0x1D1894A0 = .word (.qgth 1 6 9 2 2 2) false := by decide
theorem test_decode_TLD : decodeSpace .mtx 0x00620A80 = .word (.tld 1 1 4 5 1) false := by decide
theorem test_decode_CPY : decodeSpace .eng 0x00328B30 = .word (.cpy 3 10 11 12) false := by decide
theorem test_decode_TQ : decodeSpace .eng 0x14431E01 = .word (.tq 4 12 30 0 1) false := by decide
theorem test_decode_BINIT : decodeSpace .eng 0x58110009 = .word (.binit 1 4 9) false := by decide
theorem test_decode_BARR : decodeSpace .eng 0x5C600009 = .word (.barr 6 0 9) false := by decide
theorem test_decode_BWAIT : decodeSpace .eng 0x60018009 = .word (.bwait 6 0 9) false := by decide
theorem test_decode_unassigned : decodeSpace .scl 0xFFFFFFFF = .bad := by decide
theorem test_decode_mbz : decodeSpace .scl 0x00304201 = .word (.add 3 1 2) true := by decide
theorem test_table_word : decodeTableWord 32 0x00304200 = some (.add 3 1 2) := by decide

theorem test_decode_SDIV : decodeSpace .sfu 0x1C20010E = .word (.sdiv 2 0 1 0 1 6) false := by decide

/-! ### Ill-formed terms, one for each check (Table 3-15 step 6) -/

theorem test_wf_scalar : Instr.wf (.add 3 1 2) = true ∧ Instr.wf (.fcmp 1 2 3 5) = false ∧ Instr.wf (.bc 4 1 2 0) = false ∧
    Instr.wf (.bc 5 1 2 0) = false ∧ Instr.wf (.csrr 1 0x0FF) = false ∧ Instr.wf (.csrw 1 0x0FF) = false ∧
    Instr.wf (.fence 3) = false := by decide

theorem test_wf_address : Instr.wf (.ld 1 2 7 0) = false ∧ Instr.wf (.st 1 2 4 0) = false ∧ Instr.wf (.ldx 1 2 3 0 7) = false ∧
    Instr.wf (.stx 1 2 3 0 4) = false ∧ Instr.wf (.ldv 60 1 0) = false ∧ Instr.wf (.qld 0 1 2 4 0 0) = false ∧
    Instr.wf (.qld 0 1 2 0 0 3) = false ∧ Instr.wf (.qld 0 1 16 0 0 0) = false ∧ Instr.wf (.qgth 0 1 2 4 0 0) = false ∧
    Instr.wf (.qgth 0 1 2 0 0 3) = false ∧ Instr.wf (.qgth 0 1 2 0 0 1) = false ∧ Instr.wf (.qst 0 1 16 0 0 0) = false ∧
    Instr.wf (.qsct 0 1 2 0 0 2) = false ∧ Instr.wf (.amo 1 2 3 0 0 9) = false ∧ Instr.wf (.red 1 2 0 8) = false ∧
    Instr.wf (.red 1 2 1 9) = false ∧ Instr.wf (.pref 0 1 4 0) = false := by decide

theorem test_wf_index : Instr.wf (.iadd 16 0 0) = false ∧ Instr.wf (.isub 0 16 0) = false ∧ Instr.wf (.iand 0 0 16) = false ∧
    Instr.wf (.iaddi 0 16 0) = false ∧ Instr.wf (.ishi 16 0 0 0) = false ∧ Instr.wf (.imov 16 0 0 0) = false ∧
    Instr.wf (.imov 0 16 0 1) = false ∧ Instr.wf (.imov 0 0 1 0) = false ∧ Instr.wf (.ipopc 0 8 1) = false ∧
    Instr.wf (.isurv 0 60 0) = false ∧ Instr.wf (.icmp 8 0 0 0 0) = false ∧ Instr.wf (.plog 1 0 0 6) = false ∧
    Instr.wf (.plog 8 0 0 0) = false ∧ Instr.wf (.plog 1 16 0 5) = false ∧ Instr.wf (.plog 1 2 8 0) = false ∧
    Instr.wf (.plog 1 2 1 4) = false := by decide

theorem test_wf_vector : Instr.wf (.vadd 1 2 3 0 3 0) = false ∧ Instr.wf (.vadd 1 2 3 0 0 4) = false ∧
    Instr.wf (.vand 1 2 3 0 3 0) = false ∧ Instr.wf (.vshi 1 2 8 0 0 0) = false ∧ Instr.wf (.vshi 1 2 0 4 0 0) = false ∧
    Instr.wf (.vcmp 6 1 2 3 0 0 0) = false ∧ Instr.wf (.vfadd 1 2 3 0 0 3) = false ∧ Instr.wf (.vfadd 1 2 3 0 0 7) = false ∧
    Instr.wf (.vfma 60 2 3 0 0 6) = false ∧ Instr.wf (.vfcmp 5 1 2 3 0 0 6) = false ∧
    Instr.wf (.vcvt 1 2 6 1 0 0 0 0 6) = false ∧ Instr.wf (.vcvt 1 2 6 0 0 0 1 0 6) = false ∧
    Instr.wf (.vmac 16 1 2 0 0 0) = false ∧ Instr.wf (.vmac 1 1 2 0 0 3) = false ∧ Instr.wf (.vfmac 1 1 2 0 0 3) = false ∧
    Instr.wf (.vnarrow 1 16 0 0 0 0 0) = false ∧ Instr.wf (.vnarrow 1 1 0 1 0 0 4) = false ∧ Instr.wf (.vaclr 16) = false ∧
    Instr.wf (.vshuf 1 2 3 5 0 0) = false ∧ Instr.wf (.vshuf 1 2 3 4 0 0) = false ∧ Instr.wf (.vins 60 1 2 0 0 0) = false ∧
    Instr.wf (.vext 1 2 16 0 0) = false ∧ Instr.wf (.vred 1 2 3 0 0 0 4) = false ∧ Instr.wf (.vred 1 2 0 0 0 0 7) = false ∧
    Instr.wf (.vscan 1 2 0 0 1 0 0 6) = false ∧ Instr.wf (.vpack4 1 2 3 0 1) = false ∧ Instr.wf (.vunpk4 1 2 0 0 2) = false ∧
    Instr.wf (.vpair4 1 2 3 0 0 7) = false ∧ Instr.wf (.vsgnpk 60 1 0 0 0) = false ∧ Instr.wf (.vhash 1 2 3 0 0 1) = false ∧
    Instr.wf (.vbcmp 1 2 3 0 0 4) = false ∧ Instr.wf (.vpopc 1 2 0 0 0 4) = false := by decide

theorem test_wf_special : Instr.wf (.sexp2 1 2 0 2 6) = false ∧ Instr.wf (.sexp2 1 2 0 0 5) = false ∧
    Instr.wf (.rng128 1 2 3 0 0 1) = false ∧ Instr.wf (.scrc 1 2 3 0 0 6) = false ∧ Instr.wf (.sdiv 1 2 3 0 3 6) = false := by
  decide

theorem test_wf_matrix : Instr.wf (.tld 12 0 1 2 0) = false ∧ Instr.wf (.tst 1 0 1 2 3) = false ∧ Instr.wf (.tzero 12) = false ∧
    Instr.wf (.tgetr 12 0 0) = false ∧ Instr.wf (.tsetr 12 0 0) = false ∧ Instr.wf (.mlds 1 0 8 0 0) = false ∧
    Instr.wf (.mlds 1 0 7 1 0) = false ∧ Instr.wf (.mlds 1 0 3 0 1) = false ∧ Instr.wf (.mlds 1 1 3 0 0) = false ∧
    Instr.wf (.mlds 1 0 0 1 0) = false ∧ Instr.wf (.mma 1 1 0 0 0 0 0 0) = false ∧ Instr.wf (.mma 12 1 0 0 0 0 0 0) = false ∧
    Instr.wf (.mma 1 2 0 0 1 0 0 0) = false ∧ Instr.wf (.sld 1 6 2) = false ∧ Instr.wf (.tcvt 1 1 0 8 8 0 0) = false ∧
    Instr.wf (.tadd 1 2 7) = false := by decide

theorem test_wf_engine : Instr.wf (.rsel 0 1 2 0 65) = false ∧ Instr.wf (.coll 1 2 3 3 0 0 0) = false ∧
    Instr.wf (.coll 1 2 3 0 0 3 0) = false ∧ Instr.wf (.coll 1 2 3 0 0 2 3) = false ∧ Instr.wf (.tq 1 2 3 1 1) = false ∧
    Instr.wf (.barr 1 1 1) = false ∧ Instr.wf (.bwait 1 1 1) = false := by decide

/-! ### Single steps -/

/-- What one step of a device leaves. -/
def after (s : State) (f : State → Nat) : Nat :=
  match Machine.step s with
  | .next t => f t
  | _ => 0

/-- The step that runs one word in a slot of the context with some scalar registers. -/
def ran (slot w : Nat) (rs : List (Nat × Word)) (f : State → Nat) : Nat := after (withS (State.reset.placeWord slot w) rs) f

/-- R101: the sum wraps; s3 is written. -/
theorem test_step_ADD_wraps : ran 0 0x00304200 [(1, 0xFFFFFFFFFFFFFFFF), (2, 5)] (fun t => ((t.ctx 0).readS 1 3).toNat) = 4 := by
  decide

/-- R82: a result of latency 1 is not seen by its own bundle. -/
theorem test_step_ADD_exposed : ran 0 0x00304200 [(1, 1), (2, 5), (3, 9)] (fun t => ((t.ctx 0).readS 0 3).toNat) = 9 := by decide

set_option maxRecDepth 20000 in
/-- R104: a zero divisor gives all ones, twelve bundles on. -/
theorem test_step_DIV_zero : ran 0 (encode (.div 3 1 2 0)) [(1, 9)] (fun t => ((t.ctx 0).readS 12 3).toNat) = 2 ^ 64 - 1 ∧
    ran 0 (encode (.div 3 1 2 0)) [(1, 9)] (fun t => ((t.ctx 0).readS 11 3).toNat) = 0 := by decide

/-- R110: LI extends the sign of its 20 bits. -/
theorem test_step_LI : ran 0 0x7058CDEF [] (fun t => ((t.ctx 0).readS 1 5).toNat) = 0xFFFFFFFFFFF8CDEF := by decide

/-- R120: DBNZ lands the decremented counter and branches back by three words. -/
theorem test_step_DBNZ : ran 0 0xA80207FD [(1, 2)] (fun t => (t.ctx 0).pc) = 0x10000 - 12 ∧
    ran 0 0xA80207FD [(1, 2)] (fun t => ((t.ctx 0).readS 1 1).toNat) = 1 := by decide

set_option maxRecDepth 20000 in
/-- R112: 1.5 + 2.25 = 3.75, four bundles on. -/
theorem test_step_FADD : ran 0 (encode (.fadd 3 1 2 0)) [(1, 0x3FC00000), (2, 0x40100000)]
    (fun t => ((t.ctx 0).readS 4 3).toNat) = 0x40700000 := by decide

/-- R125, R90: TRAP suspends the context after its bundle, with class 13 and its code. -/
theorem test_step_TRAP : ran 0 (encode (.trap 77)) []
    (fun t => ((t.ctx 0).fault.map fun f => f.trap.cls + 100 * f.trap.code + 100000 * f.rpos).getD 0) = 107713 := by decide

/-- R201: LD.d reads 8 bytes at sA + 8·OFF11, here the header and the word of its own bundle, six bundles on. -/
theorem test_step_LD : ran 1 0x00511802 [(4, 0x10000 - 16)] (fun t => ((t.ctx 0).readS 6 5).toNat) = 0x0051180202000000 := by
  decide

set_option maxRecDepth 20000 in
/-- R197: an address with a bit of 63 to 56 set is LOAD_FAULT with cause SPACE. -/
theorem test_step_LD_space : ran 1 0x00511802 [(4, 2 ^ 60)]
    (fun t => ((t.ctx 0).fault.map fun f => f.trap.cls + 16 * f.trap.cause).getD 0) = 22 := by decide

/-- R201: ST.b stores one byte at commit. -/
theorem test_step_ST : ran 1 (encode (.st 5 4 0 1)) [(4, 0x30000), (5, 0x1234)]
    (fun t => (Mem.read t.mem 0x30001).toNat + 256 * (Mem.read t.mem 0x30002).toNat) = 0x34 := by decide

/-- R129: IADDI adds its sign-extended immediate. -/
theorem test_step_IADDI : ran 2 0x08208004 [] (fun t => ((t.ctx 0).readI 1 2).toNat) = 4 := by decide

/-- R137: PLOG.not of p0 is all zeros. -/
theorem test_step_PLOG : ran 2 (encode (.plog 1 0 0 4)) [] (fun t => ((t.ctx 0).readP 1 1).toNat) = 0 := by decide

set_option maxRecDepth 20000 in
/-- R158: VBCAST.i8 at 256 bits gives each of 32 bytes the low byte, and leaves the others. -/
theorem test_step_VBCAST : ran 3 (encode (.vbcast 2 1 0 0 0 0)) [(1, 0x1FF)] (fun t => ((t.ctx 0).readV 2 2).toNat) = 2 ^ 256 - 1 := by
  decide

/-- R216: a TWALL of no tag passes at once. -/
theorem test_step_TWALL : ran 7 (encode (.twall 1)) [] (fun t => (t.ctx 0).pos) = 1 := by decide

/-- R216: a TWANY of an IDLE tag is ENGINE_FAULT. -/
theorem test_step_TWANY : ran 7 (encode (.twany 1)) [(1, 1)]
    (fun t => ((t.ctx 0).fault.map fun f => f.trap.cls).getD 0) = 8 := by decide

/-- R179: a TZERO is in flight once it is accepted. -/
theorem test_step_TZERO : ran 5 (encode (.tzero 2)) [] (fun t => (t.ops.length)) = 1 := by decide

/-! ### States that meet the hypotheses of the statements -/

/-- The context with a bundle in flight whose word is in focus, and two registers. -/
def inScl : State := withS (running base (oneWord 0 0 .queued)) [(1, 1), (2, 2)]

theorem witness_ControlTransfers : (∃ b, inScl.curBundle = some b) ∧ ((0 : BitVec 3) ≠ 4 ∧ (0 : BitVec 3) ≠ 5) ∧
    bcHolds 0 (inScl.rs 1) (inScl.rs 1) ∧ ¬bcHolds 0 (inScl.rs 1) (inScl.rs 2) ∧ inScl.rs 1 = 1 ∧ inScl.rs 2 ≠ 1 :=
  ⟨⟨_, rfl⟩, by decide, by unfold bcHolds; decide, by unfold bcHolds; decide, by decide, by decide⟩

theorem witness_CsrsAndFences : (∃ b, inScl.curBundle = some b) ∧ Unwaiting inScl ∧ ¬LinkWait inScl ∧
    LinkWait (withOp { inScl with focus := { ticket := 0, pos := 1, slot := 0 } }
      { sent (.sysWrite [(hostBase, [1])]) with ports := [0] }) ∧
    (4 : BitVec 3).getLsbD 2 = true ∧ (1 : BitVec 3).getLsbD 2 = false := by
  refine ⟨⟨_, rfl⟩, by unfold Unwaiting; decide, ?_, .inr ⟨_, .head _, by decide, by decide, by decide⟩, by decide, by decide⟩
  rintro (⟨b, bs, h, hb⟩ | ⟨o, ho, _⟩)
  · cases h
    exact hb rfl
  · cases ho

theorem witness_ProgramTraps : ∃ b, inScl.curBundle = some b := ⟨_, rfl⟩

theorem witness_VectorIntegers : (2 : BitVec 2).toNat ≤ 2 ∧ (3 : BitVec 3).toNat ≤ 3 ∧ (63 : BitVec 6).toNat < elemBits 3 ∧
    (5 : BitVec 3).toNat ≤ 5 ∧ 4 ≤ (6 : BitVec 3).toNat ∧ (6 : BitVec 3).toNat ≤ 6 ∧ (4 : BitVec 3).toNat ≤ 4 := by decide

theorem witness_VectorFloats : (2 : BitVec 2).toNat ≤ 2 ∧ 4 ≤ (4 : BitVec 3).toNat ∧ (4 : BitVec 3).toNat ≤ 6 := by decide

theorem witness_Accumulation : (2 : BitVec 2).toNat ≤ 2 ∧ (2 : BitVec 3).toNat ≤ 2 ∧ 4 ≤ (7 : BitVec 3).toNat := by decide

theorem witness_VectorMovement : (0 : BitVec 2).toNat ≤ 2 ∧ (59 : BitVec 6).toNat < 60 := by decide

theorem witness_ReductionsAndScans : (2 : BitVec 2).toNat ≤ 2 ∧ (6 : BitVec 3).toNat ≤ 6 ∧ (3 : BitVec 3).toNat ≤ 3 ∧
    4 ≤ (4 : BitVec 3).toNat := by decide

theorem witness_VectorCodes : (2 : BitVec 2).toNat ≤ 2 ∧ (3 : BitVec 3).toNat ≤ 3 ∧ (59 : BitVec 6).toNat < 60 ∧
    ((7 : BitVec 3).toNat + 1) * (256 / elemBits 0) ≤ 256 := by decide

theorem witness_SpecialFunctions : (1 : BitVec 2).toNat ≤ 1 := by decide

/-- The same in the ADR slot: s4 names mapped memory, s5 an address with a high bit set, s6 an odd multiple of 4. -/
def inAdr : State := withS (running base (oneWord 1 0 .queued)) [(4, 0x30000), (5, 2 ^ 60), (6, 0x30004)]

theorem witness_RegisterLoads : (6 : BitVec 3).toNat ≤ 6 ∧ Readable inAdr [(offsetAddress inAdr 4 4 1, 4)] ∧
    Readable inAdr [(indexAddress inAdr 4 0 1 4, 4)] ∧ Readable inAdr [(offsetAddress inAdr 4 8 0, 128)] := by
  unfold Readable
  decide

set_option maxRecDepth 20000 in
theorem witness_QueueLoads : (3 : BitVec 3).toNat ≤ 3 ∧ (2 : BitVec 2).toNat ≤ 2 ∧ 32 * 2 ^ (2 : BitVec 2).toNat / 2 ^ 2 ≤ 32 ∧
    Readable inAdr (inAdr.loadSegs (.qld 0 4 1 3 0 0)) ∧ Readable inAdr (inAdr.loadSegs (.qgth 0 4 1 3 0 0)) := by
  unfold Readable
  decide

theorem witness_StoresAndAtomics : Writable inAdr [(0x30008, 8)] (fun _ => true) true 0 ∧
    inAdr.chk 6 [(0x30000, 8)] true true (fun k => k != .host) true 0x30000 = .ok ∧
    inAdr.upsetOf inAdr.cur.who inAdr.cur.asid inAdr.die [(0x30000, 8)] = none ∧
    Writable inAdr [(0x30000, 8)] (fun k => k != .host && k != .peer) true 0x30000 := by
  unfold Writable
  decide

/-- Pages from 2^36 on: one without R, one whose entry is malformed, one that awaits mapping, a BANK page, and plain ones. -/
def paged8 (s : State) : State := withPages s [0x9, 0x5, 0, 0x47, 0x7, 0x7, 0x7, 0x7]

set_option maxRecDepth 20000 in
theorem witness_AccessFaults : 2 ^ 56 ≤ offsetAddress inAdr 5 1 0 ∧ 2 ^ 56 ≤ indexAddress inAdr 5 0 0 1 ∧
    2 ^ 56 ≤ (inAdr.rs 5).toNat ∧ (inAdr.rs 6).toNat < 2 ^ 55 - 8 ∧ (inAdr.rs 6).toNat % 8 = 4 := by decide

set_option maxRecDepth 20000 in
theorem witness_ChecksOfAccesses : offsetAddress inAdr 4 1 0 < 2 ^ 55 ∧
    (paged8 inAdr).page 0 0 (2 ^ 36) true false false = .perm ∧
    (paged8 inAdr).page 0 0 (2 ^ 36 + 0x10000) true false false = .cannot 4 ∧
    (paged8 inAdr).page 0 0 (2 ^ 36 + 0x20000) true false false = .awaits ∧
    pagesOf [(0x30000, 8)] = [(3, 0x30000)] ∧ inAdr.kindOf me 0 [(0x30000, 8)] = .generic ∧
    (∃ pa e level addr, inAdr.page 0 0 0x30000 false true false = .ok pa e level addr) :=
  ⟨by decide, by decide, by decide, by decide, by decide, by decide, _, _, _, _, rfl⟩

/-- The same in the MTX slot: s4 a base and s7 a stride, both multiples of 64. -/
def inMtx : State := withS (running base (oneWord 5 0 .queued)) [(4, 0x30000), (7, 0x400)]

set_option maxRecDepth 20000 in
theorem witness_MatrixWordsStart : inMtx.chk 7 (tilePieces inMtx 4 7 64 1024) true false RKind.device true 0x30000 = .ok ∧
    inMtx.chk 7 (tilePieces inMtx 4 7 64 1024) false true RKind.device true 0x30000 = .ok ∧
    inMtx.chk 7 (tilePieces inMtx 4 7 256 256) false true RKind.device true 0x30000 = .ok ∧
    inMtx.chk 7 [(0x30000, 2048)] true false RKind.device true 0x30000 = .ok := by decide

theorem of_empty {α : Type} {l : List α} {p : α → Prop} (h : l = []) : ∀ x ∈ l, p x := by
  subst h
  nofun

/-- A context whose bundle at position 0 has popped an entry of a result queue, with tag 1 SET, tag 2 PENDING and tag 3 idle. -/
def popping : State := (running base (oneWord 1 0 .queued)).modCtx 0 fun c =>
  { c with
    s := [(1, 2), (2, 4), (3, 8), (4, 6), (5, 14)]
    tags := [(1, ⟨0, true, true, 9⟩), (2, ⟨255, false, false, 0⟩)]
    queues := [(9, [{ Entry.reserved 0 1 0 with filled := true, taken := some (0, 1, 0) }])] }

theorem witness_TagsAndResultQueues : (∃ e, popping.popped 0 = some e) ∧
    let set := fun g => (popping.cur.tag g).set = true
    let selected := fun (a : BitVec 6) g => g < 64 ∧ (popping.rs a).getLsbD g = true
    (∃ g, selected 1 g ∧ set g) ∧ ((∀ g, selected 2 g → ¬set g) ∧ ∃ g, selected 2 g ∧ pendingTag popping g) ∧
    (∀ g, selected 3 g → ¬set g ∧ ¬pendingTag popping g) ∧ (∀ g, selected 1 g → set g) ∧
    ((∀ g, selected 4 g → set g ∨ pendingTag popping g) ∧ ∃ g, selected 4 g ∧ pendingTag popping g) ∧
    (∃ g, selected 5 g ∧ ¬set g ∧ ¬pendingTag popping g) ∧
    (selected 5 1 ∧ set 1 ∧ ∀ k, k < 1 → ¬(selected 5 k ∧ set k)) := by
  refine ⟨⟨_, rfl⟩, ⟨1, by decide⟩, ⟨?_, 2, by decide, by unfold pendingTag; decide⟩, ?_, ?_,
    ⟨?_, 2, by decide, by unfold pendingTag; decide⟩, ⟨3, by decide, by decide, by unfold pendingTag; decide⟩, by decide,
    by decide, by decide⟩
  all_goals
    simp only [pendingTag, and_imp]
    decide

/-- Descriptors in mapped memory: a table (base 2^36 + 3 pages, 2^4 rows) at 0x30000, a set (8 rows, one spill page) at 0x30040,
a pool (2048 pages from 2^36) at 0x30080 with its records at 0x31000 and its bitmaps at 0x38000, and a task at 0x30100. -/
def described : State :=
  let s := withS (paged8 inAdr) [(1, 0x30000), (2, 0x30040), (3, 0x30080), (4, 0x30100), (5, 2 ^ 36 + 0x40000), (6, 2 ^ 40 - 1),
    (7, 0x38FFF), (8, 2 ^ 36 + 0x50000), (9, 2 ^ 21 - 1), (10, 2 ^ 53 - 1), (11, 16384), (12, 2 ^ 36), (13, 2 ^ 36 + 0x6DF00)]
  let s := withBytes s 0x30000 (leBytes 32 (2 ^ 36 + 0x30000 + 4 * 2 ^ 64))
  let s := withBytes s 0x30040 (leBytes 64 (7 + 2 ^ 32 + 2 ^ 96 + (2 ^ 36 + 0x30000) * 2 ^ 128))
  let s := withBytes s 0x30080 (leBytes 64 (2 ^ 36 + 2048 * 2 ^ 64 + 0x31000 * 2 ^ 128 + 0x38000 * 2 ^ 192))
  let s := withBytes (withBytes s 0x30100 (leBytes 64 1)) 0x38FFF [254]
  withBytes (withBytes s 0x38000 [0x00, 0x20]) (0x31000 + 64 * 5) (leBytes 64 (2 ^ 288 + 3 * 2 ^ 296))

/-- The pool of `described`. -/
def pool1 : Pool := ⟨0x30080, 2 ^ 36, 2048, 0x31000, 0x38000, 0, 0⟩

set_option maxRecDepth 20000 in
theorem witness_EngineCommands_copies_and_plays : (described.rs 6).toNat < 2 ^ 40 ∧
    described.rangeBad (described.rs 1).toNat (described.rs 6).toNat = false ∧
    described.rangeBad (described.rs 12).toNat (described.rs 6).toNat = false ∧ (described.rs 0).toNat = 0 ∧
    ((described.rs 13).toNat % 64 = 0 ∧ (described.rs 13).toNat % 65536 + 8448 = 65536 ∧
      ∃ pa pte level addr, described.page 0 0 (described.rs 13).toNat true false false = .ok pa pte level addr) ∧
    ((described.rs 8).toNat % 256 = 0 ∧ (described.rs 8).toNat < 2 ^ 55 ∧
      ∃ pa pte level addr, described.page 0 0 (described.rs 8).toNat true false false = .ok pa pte level addr ∧
        pteW pte = true ∧ pteBank pte = false) ∧
    regRead described.cur described.focus.pos .pbk = 0 ∧
    ∃ pa pte level addr, (described.modCtx 0 fun c => { c with pbk := 2 ^ 36 + 0x60000 }).page 0 0 (2 ^ 36 + 0x60000) true false
      false = .ok pa pte level addr :=
  ⟨by decide, by decide, by decide, by decide, ⟨by decide, by decide, _, _, _, _, rfl⟩,
    ⟨by decide, by decide, _, _, _, _, rfl, by decide, by decide⟩, by decide, _, _, _, _, rfl⟩

set_option maxRecDepth 20000 in
theorem witness_EngineCommands_tables_and_sets : (described.rs 1).toNat = 0x30000 ∧ Checked described 0x30000 32 ∧
    TableDesc.ofBytes (bytesAt described 0x30000 32) = some ⟨2 ^ 36 + 0x30000, 4, false, 0⟩ ∧
    (∀ j, j ≤ 0 → BankPage (afterRead described 0x30000 32) (2 ^ 36 + 0x30000 + 65536 * j)) ∧
    (described.rs 2).toNat = 0x30040 ∧ Checked described 0x30040 64 ∧
    (∃ d, SetDesc.ofBytes described.cur.asid (bytesAt described 0x30040 64) = some d ∧
      ∀ va ∈ d.pages, BankPage (afterRead described 0x30040 64) va ∧ described.heldPage 0 va = false) ∧
    (described.rs 9).toNat < 2 ^ 21 ∧ (described.rs 10).toNat / 2 ^ 32 < 2 ^ 21 := by
  refine ⟨by decide, by unfold Checked; decide, by decide, fun j h => ?_, by decide, by unfold Checked; decide,
    ⟨⟨0, 0, 7, 8, 0, 0, false, 0, 0, 1, 2 ^ 36 + 0x30000, 0⟩, by decide, fun va h => ?_⟩, by decide, by decide⟩
  · rw [Nat.le_zero.mp h]; exact ⟨_, _, _, _, rfl, by decide, by decide, by decide, by decide⟩
  · rw [List.eq_of_mem_singleton h]; exact ⟨⟨_, _, _, _, rfl, by decide, by decide, by decide, by decide⟩, by decide⟩

/-- The reads of the PALLOC that follow its descriptor: the bitmaps of the chunks from the cursor on, until one has a free slot. -/
def allocReads : List Seg :=
  [254, 255, 0, 1].map (fun c => (pool1.bitmap c, pool1.bitmapLen)) ++ [(pool1.record (256 * 5 + 1), 64)]

set_option maxRecDepth 20000 in
theorem witness_EngineCommands_alloc : let u := afterRead described 0x30080 64
    (described.rs 3).toNat = 0x30080 ∧ (described.rs 7).toNat = 0x38FFF ∧
    Checked described 0x30080 64 ∧ Pool.ofBytes 0x30080 (bytesAt described 0x30080 64) = some pool1 ∧
    u.chk 6 [(0x38FFF, 1)] true true RKind.device true 0 = .ok ∧
    u.view.findSlot me 0 pool1 256 (number (bytesAt u 0x38FFF 1)) [] = (some (256 * 5 + 1), [254, 255, 0, 1]) ∧
    AllChecked u allocReads := by
  simp only [AllChecked, allocReads, List.map, List.cons_append, List.nil_append, Checked]
  decide

set_option maxRecDepth 20000 in
theorem witness_EngineCommands_pages : let u := afterRead described 0x30080 64
    let record := leNat (bytesAt u (pool1.record 5) 64)
    (pool1.slotOf (2 ^ 36 + 0x50000) = some 5 ∧ Checked u (pool1.record 5) 64 ∧ recordAlloc record = true ∧
      described.isFreeing ((afterRead u (pool1.record 5) 64).homeKey me 0 (pool1.record 5)) = false ∧
      described.heldPage 0 (2 ^ 36 + 0x50000) = false ∧ recordRref record = 3) ∧
    (let z := withBytes described (0x31000 + 64 * 5) (leBytes 64 (2 ^ 288))
     recordRref (leNat (bytesAt (afterRead z 0x30080 64) (pool1.record 5) 64)) = 0 ∧ Checked z 0x30080 64 ∧
      Checked (afterRead z 0x30080 64) (pool1.record 5) 64) ∧
    ∃ pa e level addr, described.page 0 0 (2 ^ 36 + 0x50000) false false false = .ok pa e level addr ∧
      pteW e = true ∧ pteEnc e = false ∧ pteKv e = false ∧ pteRepl e = false := by
  refine ⟨?_, ?_, ⟨_, _, _, _, rfl, by decide, by decide, by decide, by decide⟩⟩
  all_goals
    unfold Checked
    decide

set_option maxRecDepth 20000 in
theorem witness_EngineCommands_tasks : (described.rs 4).toNat = 0x30100 ∧
    described.spaceBad me 0 RKind.device [(0x30100, 64)] = none ∧ Checked described 0x30100 64 ∧
    taskReason (leNat (bytesAt described 0x30100 64)) = none ∧ (described.rs 11).toNat = 16384 ∧ (described.rs 11).toNat % 8 = 0 ∧
    described.spaceBad me 0 RKind.device [(0x30000, 16384 * 8)] = none ∧
    described.chk 6 [(0x30000, 16384 * 8)] true true RKind.device true 0 = .ok := by
  unfold Checked
  decide

/-- Barrier 9 is set and barrier 5 belongs to another address space; comparator 7 is another's; context 0's group counts. -/
def synchronising : State :=
  let s := { withS (running base (oneWord 7 0 .queued)) [(1, 0xFFFF), (2, 0x1_0000), (3, ownBase), (4, 0x18_0000), (5, 1),
    (6, 2 ^ 63)] with
    barriers := [(5, ⟨2, 3, 1, 0, true, 0, 0⟩), (9, ⟨1, 0, 65535, 4, true, 8, 6⟩)] }
  s.modCore 0 fun c => { c with comps := [(6, ⟨me, false, 0, 64⟩), (7, ⟨⟨3, 0⟩, true, 0, 64⟩)] }

/-- The same with a token taken by the bundle in flight. -/
def tokened : State := synchronising.modCore 0 fun c => { c with tokens := [⟨6, me, 1, true, 8, 12, some (0, 0)⟩] }

theorem witness_BarriersAndWakes : (0 < (synchronising.rs 1).toNat ∧ (synchronising.rs 1).toNat + 1 = 2 ^ 16) ∧
    (synchronising.rs 0).toNat = 0 ∧ 2 ^ 16 ≤ (synchronising.rs 2).toNat ∧
    ((synchronising.modCtx 0 fun c => { c with met := some (1, 9) }).ctx 0).met = some ((synchronising.ctx 0).pos, 9) ∧
    (synchronising.ctx 0).met = none ∧
    (synchronising.groupBarrier synchronising.cur).ph ≠ (synchronising.rs 5).getLsbD 0 ∧
    (synchronising.groupBarrier synchronising.cur).ph = (synchronising.rs 0).getLsbD 0 ∧
    ((synchronising.deviceBarrier 9).state ≠ 0 ∧ (synchronising.deviceBarrier 9).asid = synchronising.cur.asid ∧
      (synchronising.deviceBarrier 9).ph ≠ (synchronising.rs 0).getLsbD 0 ∧
      (synchronising.deviceBarrier 9).ph = (synchronising.rs 5).getLsbD 0) ∧
    (synchronising.deviceBarrier 255).state = 0 ∧ (synchronising.deviceBarrier 5).asid ≠ synchronising.cur.asid ∧
    (synchronising.ownOffset (synchronising.rs 3).toNat = some 0 ∧ (synchronising.rs 4).toNat ≤ 0x18_0000 ∧
      0 + (synchronising.rs 4).toNat = hdrScratch (synchronising.hdrOf me) ∧ synchronising.compFree 0 6 = true ∧
      synchronising.compFree 0 0 = true) ∧
    (∃ y, tokened.takenToken = some y) ∧ synchronising.takenToken = none ∧ synchronising.token 0 (2 ^ 63) = none ∧
    ∀ e ∈ (synchronising.core 0).comps, e.2.armed = true → e.2.owner = me → selected (2 ^ 63) e.1 = false :=
  by refine ⟨?_, ?_, ?_, ?_, ?_, ?_, ?_, ?_, ?_, ?_, ?_, ⟨_, rfl⟩, ?_⟩ <;> decide

/-- A context that runs TWALL of s1 next, whose one tag counts nothing. -/
def waiting : State := withS (State.reset.placeWord 7 (encode (.twall 1))) [(1, 4)]

/-- The context that fetches from the second page past 2^36, which awaits mapping. -/
def unmapped : State :=
  ({ paged8 base with kernels := [(0, { loadKernel with base := 2 ^ 36 + 0x20000 })] }).modCtx 0 fun c =>
    { c with pc := 2 ^ 36 + 0x20000 }

/-- TWALL of the context before with its tag PENDING. -/
def pendingWait : State := waiting.modCtx 0 fun c => { c with tags := [(2, ⟨1, false, false, 0⟩)] }

theorem ok_of_option {α β : Type} {x : Except α β} {y : β} (h : x.toOption = some y) : x = .ok y := by
  cases x with
  | error => cases h
  | ok z => exact congrArg _ (Option.some.inj h)

set_option maxRecDepth 20000 in
theorem witness_BundlesDispatch : MayDispatch base 0 ∧
    (∃ ws', base.fetchBundle 0 = .bundle 0x01000000 [(0, 0x00304200)] [0x220000] none ∧
      (base.ctx 0).checkBundle 0x01000000 [(0, 0x00304200)] = .ok ws' ∧
      let u := fetched base 0 (base.fetchBundle 0)
      let ws := (base.ctx 0).effective ws'
      u.stalls 0 0x01000000 ws = false ∧ u.engineFaultAt 0 ws = none ∧ ws.findSome? (u.wordHold 0 ws) = none ∧
        brkCode ws = none) ∧
    (∃ ws', waiting.fetchBundle 0 = .bundle 0x80000000 [(7, encode (.twall 1))] [0x220000] none ∧
      (waiting.ctx 0).checkBundle 0x80000000 [(7, encode (.twall 1))] = .ok ws' ∧
      let u := fetched waiting 0 (waiting.fetchBundle 0)
      let ws := (waiting.ctx 0).effective ws'
      MayDispatch waiting 0 ∧ u.stalls 0 0x80000000 ws = false ∧ (waiting.ctx 0).inflight = [] ∧
        ∃ w, u.engineFaultAt 0 ws = some w) ∧
    (∃ ws', (pendingWait.ctx 0).checkBundle 0x80000000 [(7, encode (.twall 1))] = .ok ws' ∧
      let u := fetched pendingWait 0 (pendingWait.fetchBundle 0)
      let ws := (pendingWait.ctx 0).effective ws'
      MayDispatch pendingWait 0 ∧ u.stalls 0 0x80000000 ws = false ∧ u.engineFaultAt 0 ws = none ∧
        ∃ h, ws.findSome? (u.wordHold 0 ws) = some h) ∧
    (MayDispatch unmapped 0 ∧ unmapped.fetchBundle 0 = .awaits (2 ^ 36 + 0x20000) []) ∧
    (∃ tr, (base.modCtx 0 fun c => { c with pc := 0xFFFC }).fetchBundle 0 = .trap tr []) ∧
    ∃ tr, (base.ctx 0).checkBundle 0x01000000 [(0, 0xFFFFFFFF)] = .error tr := by
  unfold MayDispatch
  refine ⟨by decide, ⟨_, by decide, rfl, by decide, by decide, by decide, by decide⟩,
    ⟨[⟨7, encode (.twall 1), .twall 1⟩], by decide, ok_of_option (by decide), by decide, by decide, by decide, _, rfl⟩,
    ⟨[⟨7, encode (.twall 1), .twall 1⟩], ok_of_option (by decide), by decide, by decide, by decide, _, rfl⟩,
    by decide, ⟨_, rfl⟩, _, rfl⟩

/-- The context at an address of a kernel of 512 bytes in two pages with these flags, with a bundle of one word at 2^36 + 0xFFF8
and at 2^36 + 0xFFFC. -/
def coded (first second pc : Nat) : State :=
  { (withPages base [first, second]).modCtx 0 (fun c => { c with pc := pc }) with
    kernels := [(0, { loadKernel with
      base := 2 ^ 36 + 0xFF00, hdr := loadHeader + (512 - 64) * 2 ^ 256
      code := Mem.write (Mem.write [] 0xF8 (leBytes 4 (2 ^ 24))) 0xFC (leBytes 4 (2 ^ 24)) })] }

/-- What the fetch of the context finds of a code page. -/
def codeAt (s : State) (va : Nat) : PageAns := s.page 0 0 va false false true

set_option maxRecDepth 20000 in
theorem witness_BundlesDispatch_fetch :
    let edge := 2 ^ 36 + 0xFFFC
    (coded 0xB 0xB edge).codeSegment me = (2 ^ 36 + 0xFF00, 512) ∧
    (codeAt (coded 0x7 0xB edge) edge = .perm ∧ codeAt (coded 0x5 0xB edge) edge = .cannot 4 ∧
      codeAt (coded 0 0xB edge) edge = .awaits) ∧
    (∃ pa e level leaf, codeAt (coded 0xB 0xB edge) edge = .ok pa e level leaf) ∧
    number ((coded 0xB 0xB (2 ^ 36 + 0xFF00)).codeBytes me (2 ^ 36 + 0xFF00) 4) = 0 ∧
    (number ((coded 0xB 0xB edge).codeBytes me edge 4) = 2 ^ 24 ∧
      number ((coded 0xB 0xB edge).codeBytes me (2 ^ 36 + 0xFFF8) 4) = 2 ^ 24 ∧
      (2 ^ 36 + 0xFFF8) % 65536 + 8 = 65536 ∧ 65536 < edge % 65536 + 8) ∧
    (codeAt (coded 0xB 0x7 edge) (2 ^ 36 + 0x10000) = .perm ∧ codeAt (coded 0xB 0x5 edge) (2 ^ 36 + 0x10000) = .cannot 4 ∧
      codeAt (coded 0xB 0 edge) (2 ^ 36 + 0x10000) = .awaits) ∧
    ∃ pa e level leaf, codeAt (coded 0xB 0xB edge) (2 ^ 36 + 0x10000) = .ok pa e level leaf := by
  refine ⟨by decide, by decide, ⟨_, _, _, _, rfl⟩, by decide, by decide, by decide, _, _, _, _, rfl⟩

theorem witness_BundlesDispatch_checks :
    decodeSpace (slotSpace 0) 0xFFFFFFFF = .bad ∧ (∃ i, decodeSpace (slotSpace 0) 0x00304200 = .word i false) ∧
    (∃ i, decodeSpace (slotSpace 0) 0x0030420F = .word i true) ∧
    ((base.ctx 0).checkWord 0 0x00304200 = .ok (.add 3 1 2)) ∧
    ([⟨0, 0, .add 3 1 2⟩, ⟨1, 0, .ld 3 4 3 2⟩] : List Issued).map Issued.dests = [[3], [3]] ∧
    ∃ r n, Instr.csrw (3 : BitVec 6) (0 : BitVec 12) = .csrw r n ∧ n ≠ 2 ∧ n ≠ 0x20 :=
  ⟨by decide, ⟨_, rfl⟩, ⟨_, rfl⟩, rfl, by decide, _, _, rfl, by decide, by decide⟩

/-- A context whose bundle has started a load in its ADR slot; a word in its SCL slot is still to execute. -/
def loading (bad : Option Nat) : State :=
  running base { oneWord 1 0 .started with words := [⟨0, 0, .queued, none, none, []⟩, ⟨1, 0x00511802, .started, none, bad, []⟩] }

/-- The same load, sent on a link. -/
def remoteLoading : State := withOp (withS (loading none) [(4, BitVec.ofNat 64 hostBase)]) (sent (.sysLoad [(hostBase, 8)] 1))

/-- The same load from the device's own window, which reaches the pages from 2^36 on. -/
def ownLoading (page : Nat) (bad : Option Nat := none) : State :=
  let a := 2 ^ 55 + 65536 * page
  { withOp (withS (paged8 (loading bad)) [(4, BitVec.ofNat 64 a)]) (sent (.sysLoad [(a, 8)] 1)) with
    expb := 0x100000, expl := 8 }

/-- Where the load returns. -/
def atLoad (s : State) : State := { s with focus := { ticket := 0, pos := 0, slot := 1 } }

/-- Its operation. -/
def linkLoad (s : State) : Op := (s.remoteLoad 0 0 1).getD (sent (.kick 0))

/-- A load on a link that can return. -/
def Arriving (s : State) : Prop :=
  (∃ w, s.wordAt 0 0 1 = some w ∧ w.progress = .started ∧ w.instr = some (.ld 5 4 3 2)) ∧
    s.remoteLoad 0 0 1 = some (linkLoad s) ∧ (atLoad s).windowHeld (linkLoad s) = false ∧ (linkLoad s).wait = none

/-- Its data return, with an error that they or the network have. -/
def Returning (s : State) (bad : Option Nat) : Prop :=
  let segs := (atLoad s).loadSegs (.ld 5 4 3 2)
  (atLoad s).far (linkLoad s) segs true false = .performed ∧ ∃ w, s.wordAt 0 0 1 = some w ∧
    (((atLoad s).upsetOf noWho s.expAsid 0 ((atLoad s).ownSegs segs)).map (·.cause)).or w.bad = bad

theorem unsettled_untrapped {c : Context} {b : Bundle} (h : c.inflight = [b]) (hb : b.settled = false) : Untrapped c := by
  intro x hx
  rw [h] at hx
  cases hx
  exact .inr hb

set_option maxRecDepth 20000 in
theorem witness_ContextsGoOn_loads :
    (∃ w, (loading none).wordAt 0 0 1 = some w ∧ w.progress = .started ∧ w.bad = none ∧ (loading none).remoteLoad 0 0 1 = none ∧
      Untrapped { (loading none).ctx 0 with inflight := returned 0 1 ((loading none).ctx 0).inflight }) ∧
    ∃ w, (loading (some 3)).wordAt 0 0 1 = some w ∧ w.progress = .started ∧ w.bad = some 3 ∧
      (loading (some 3)).remoteLoad 0 0 1 = none ∧
      Untrapped { (loading (some 3)).ctx 0 with
        inflight := ((loading (some 3)).ctx 0).inflight.map (trapping 0 1 { earlyTrap 11 1 0 with cause := 3 }) } :=
  ⟨⟨_, rfl, rfl, rfl, rfl, unsettled_untrapped rfl rfl⟩, _, rfl, rfl, rfl, rfl, unsettled_untrapped rfl rfl⟩

set_option maxRecDepth 20000 in
theorem witness_ContextsGoOn_windows :
    let i : Instr := .ld 5 4 3 2
    let far := fun (page : Nat) => let here := atLoad (ownLoading page); here.far (linkLoad here) (here.loadSegs i) true false
    let waited := atLoad (ownLoading 2)
    (Arriving remoteLoading ∧ Returning remoteLoading none) ∧ (Arriving (ownLoading 4) ∧ Returning (ownLoading 4) none) ∧
    (Arriving (ownLoading 4 (some 8)) ∧ Returning (ownLoading 4 (some 8)) (some 8) ∧
     Untrapped { (ownLoading 4 (some 8)).ctx 0 with
       inflight := ((ownLoading 4 (some 8)).ctx 0).inflight.map (trapping 0 1 { earlyTrap 11 1 0 with cause := 8 }) }) ∧
    (let here := atLoad (ownLoading 4)
     let u := (here.farTime (here.loadSegs i) false).1
     let d := (u.loadInto ((here.loadSegs i).flatMap here.farBytes) i).cur
     Untrapped { d with inflight := returned 0 1 d.inflight }) ∧
    (Arriving (ownLoading 2) ∧ far 2 = .waits (waited.farAwait (linkLoad waited) [(2 ^ 20 + 2, 2 ^ 36 + 0x20010)] false)) ∧
    (Arriving (ownLoading 0) ∧ far 0 = .refused 3 (2 ^ 55 + 16) ∧
     Untrapped { (ownLoading 0).ctx 0 with
       inflight := ((ownLoading 0).ctx 0).inflight.map
         (trapping 0 1 { earlyTrap 6 1 0x00511802 with cause := 3, addr := 2 ^ 55 + 16 }) }) := by
  refine ⟨⟨⟨⟨_, rfl, rfl, rfl⟩, rfl, by decide, rfl⟩, rfl, _, rfl, rfl⟩,
    ⟨⟨⟨_, rfl, rfl, rfl⟩, rfl, by decide, rfl⟩, rfl, _, rfl, by decide⟩,
    ⟨⟨⟨_, rfl, rfl, rfl⟩, rfl, by decide, rfl⟩, ⟨rfl, _, rfl, by decide⟩, unsettled_untrapped rfl rfl⟩, ?_, ⟨⟨⟨_, rfl, rfl, rfl⟩, rfl, by decide, rfl⟩, rfl⟩, ⟨⟨_, rfl, rfl, rfl⟩, rfl, by decide, rfl⟩, rfl,
    unsettled_untrapped rfl rfl⟩
  exact fun b hb => .inr (by cases hb; rfl)

/-- A bundle whose one word waits, or has trapped. -/
def stopped (p : Progress) (w : Option Wait) (traps : List Trap) : State :=
  running base { oneWord 1 0 p with words := [⟨1, 0, p, w, none, []⟩], traps := traps }

theorem witness_BundlesDispatch_waits :
    (let c := (stopped .trapped none [earlyTrap 8 1 0]).ctx 0
     c.state = .running ∧ c.block ≠ some .drain ∧ c.inflight.map Bundle.settled = [true] ∧ lowestTrap [earlyTrap 8 1 0] = some (earlyTrap 8 1 0)) ∧
    (let c := (stopped .queued (some (.page 6 [(3, 0x30000)])) []).ctx 0
     c.state = .running ∧ c.trapDue = false ∧ c.waitsFor false = true) ∧
    (let c := (stopped .queued (some (.log 1)) []).ctx 0
     c.state = .running ∧ c.trapDue = false ∧ c.waitsFor true = true ∧ c.waitsFor false = false) ∧
    let c := (base.modCtx 0 fun c => { c with block := some .drain }).ctx 0
    c.state = .running ∧ c.block = some .drain := by decide

/-- A pending asynchronous trap. -/
def anError : Trap := { earlyTrap 12 8 0 with isAsync := true, due := 0 }

theorem witness_ContextsGoOn_switches_and_traps :
    (let s := base.modCtx 5 fun c => { c with state := .ready }
     let at_ := fun (n : Nat) => 4 * 1 + ((s.core 1).last + 1 + n) % 4
     (∀ j, j < 4 → (s.ctx (4 * 1 + j)).state ≠ .running) ∧
     SMap.get? { s with picks := [(1, 5)] }.picks 1 = some 5 ∧
     ∃ x, x < 4 ∧ (s.ctx (at_ x)).state = .ready ∧ ∀ y, y < x → (s.ctx (at_ y)).state ≠ .ready) ∧
    (let c := (base.modCtx 0 fun c => { c with pending := [anError] }).ctx 0
     c.inflight = [] ∧ firstDue c.pos c.pending = some anError ∧ c.state = .running) ∧
    (let c := (inScl.modCtx 0 fun c => { c with pending := [anError], state := .pageWait }).ctx 0
     c.inflight = [oneWord 0 0 .queued] ∧ firstDue 0 c.pending = some anError ∧ c.state = .pageWait) ∧
    (let s := base.modCtx 0 fun c => { c with pending := [anError], state := .blocked, block := some .drain }
     (s.ctx 0).state = .blocked ∧ (s.ctx 0).block = some .drain ∧ s.draining (s.ctx 0) = false ∧
       (s.ctx 0).pending = anError :: []) ∧
    (let s := base.modCtx 0 fun c => { c with state := .blocked, block := some .drain }
     (s.ctx 0).state = .blocked ∧ (s.ctx 0).block = some .drain ∧ s.draining (s.ctx 0) = false ∧ (s.ctx 0).pending = []) := by
  refine ⟨⟨by decide, by decide, ?_⟩, by decide, by decide, by decide, by decide⟩
  first
    | exact ⟨0, by decide⟩
    | exact ⟨1, by decide⟩
    | exact ⟨2, by decide⟩

/-- A bundle that has executed, with effects. -/
def ended (effects : List (Nat × Effect)) : Bundle := { oneWord 0 0 .executed with effects := effects }

theorem mayCommit_ended {effects : List (Nat × Effect)}
    (h : ∀ e ∈ effects, (running base (ended effects)).effectOk 0 e.2 = true ∧
      (running base (ended effects)).effectWaits 0 e.2 = false) : MayCommit (running base (ended effects)) 0 (ended effects) :=
  ⟨rfl, nofun, nofun, nofun, rfl, fun _ h => by cases List.mem_singleton.mp h; rfl,
    fun _ _ => ⟨fun _ => rfl, fun _ _ => .inl rfl⟩, h⟩

set_option maxRecDepth 20000 in
theorem witness_BundlesCommit :
    (let b := ended [(1, .store [(0x30000, [7])] false)]
     let s := running base b
     MayCommit s 0 b ∧ (∀ e ∈ b.effects, e.2 ≠ .done ∧ ∀ code, e.2 ≠ .progTrap code) ∧
       Untrapped { (effected s 0 b).ctx 0 with inflight := ((effected s 0 b).ctx 0).inflight.filter fun x => x.pos != b.pos }) ∧
    (MayCommit (running base (ended [(0, .done)])) 0 (ended [(0, .done)]) ∧
      ((running base (ended [(0, .done)])).ctx 0).inflight = [ended [(0, .done)]]) ∧
    (MayCommit (running base (ended [(0, .progTrap 5)])) 0 (ended [(0, .progTrap 5)]) ∧
      ((running base (ended [(0, .progTrap 5)])).ctx 0).inflight = [ended [(0, .progTrap 5)]]) ∧
    (let b' := ended [(1, .store [(2 ^ 36, [7])] false)]
     let s := running (paged8 base) b'
     b'.traps = [] ∧ (s.ctx 0).state = .running ∧ (∀ w ∈ b'.words, w.progress = .executed) ∧
       (b'.effects.filter fun e => !s.effectOk 0 e.2).map (·.1) ≠ []) := by
  refine ⟨⟨mayCommit_ended (by decide), fun e h => ?_, fun b h => ?_⟩, ⟨mayCommit_ended (by decide), rfl⟩,
    ⟨mayCommit_ended (by decide), rfl⟩, by decide⟩
  · cases List.mem_singleton.mp h
    exact ⟨nofun, fun _ => nofun⟩
  · cases h

/-- The device's own pages from 2^36 on in a context with a bundle in flight, a pending copy of no bytes, and a link. -/
def committing : State := withLinkState (running (paged8 base) (oneWord 1 0 .executed)) 0 .up

/-- Parts that are all in physical memory. -/
theorem phys_local {parts : List (Place × Nat × List Byte)} (h : parts.all (fun x => x.1 == .phys) = true) : Local parts :=
  fun x hx => .inl (by simpa using List.all_eq_true.mp h x hx)

set_option maxRecDepth 20000 in
theorem witness_CommittedAccesses :
    (let c := committing.ctx 0
     let segs : List (Nat × List Byte) := [(0x3FFFE, [1, 2, 3, 4])]
     (committing.kindOf c.who c.asid (segs.map fun g => (g.1, g.2.length))).device = true ∧
       (∀ p ∈ pagesOf (segs.map fun g => (g.1, g.2.length)), committing.page c.asid 0 p.2 false true false ≠ .awaits) ∧
       let pieces := paged segs
       let m := committing.mark c.who c.asid 0 (pieces.map fun g => (g.1, g.2.length)) true
       Local (pieces.flatMap fun g => m.partsOf c.who c.asid 0 g.1 g.2)) ∧
    (let va := 2 ^ 36 + 0x2FFFC
     let bs : List Byte := [1, 2, 3, 4]
     bs ≠ [] ∧ committing.kindOf me 0 [(va, 4)] = .generic ∧ va / 65536 = (va + bs.length - 1) / 65536 ∧
       committing.page 0 0 va false true false = .awaits) ∧
    (committing.kindOf me 0 [(hostBase, 4)]).device = false ∧
    (committing.kindOf me 0 [(0x30008, 8)]).device = true ∧
    let m := committing.mark me 0 0 [(0x30008, 8)] true
    Local (m.partsOf me 0 0 0x30008 (leBytes 8 5)) ∧
      leNat (committing.readSeg me 0 0 (0x30008, 8)) = (0 : BitVec 64).toNat % 2 ^ 64 ∧
      leNat (committing.readSeg me 0 0 (0x30008, 8)) ≠ (1 : BitVec 64).toNat % 2 ^ 64 ∧ Local [] := by
  refine ⟨⟨by decide, by decide, phys_local (by decide)⟩, by decide, by decide, by decide, phys_local (by decide), by decide,
    by decide, nofun⟩

set_option maxRecDepth 20000 in
theorem witness_CommittedCommands : Ordered committing.ctxs ∧
    ((∀ a got result, OpKind.binitFree 9 ≠ .coll a got result) ∧ committing.instant 0 (.binitFree 9) = false) ∧
    (∃ l, committing.launchOf (committing.ctx 0).who = some l) ∧
    ((committing.ctx 0).state ≠ .empty ∧ committing.opGet committing.nextId = none ∧
      committing.ticketOf (committing.ctx 0).who = some 0 ∧ (committing.ctx 0).who.launch < 2 ^ 64) ∧
    (¬(committing.kindOf me 0 [(0x30008, 8)] = .generic ∧ committing.page 0 0 0x30008 false true false = .awaits) ∧
      (committing.mark me 0 0 [(0x30008, 8)] true).resolve me 0 0 0x30008 true = some (.phys, 0x30008)) ∧
    (committing.kindOf me 0 [(2 ^ 36 + 0x20000, if true then 8 else 4)] = .generic ∧
      committing.page 0 0 (2 ^ 36 + 0x20000) false true false = .awaits) ∧
    let s := committing.modCtx 3 fun c => { c with state := .faulted, fault := some ⟨earlyTrap 14 0 7, 3, 8, 8, 3, 9, 2, false, true, none, none⟩ }
    ((s.ctx 3).state = .faulted ∧ (s.ctx 3).asid = (s.ctx 0).asid ∧ ∃ f, (s.ctx 3).fault = some f ∧ f.trap.cls = 14) ∧
      (s.ctx 4).state ≠ .faulted ∧ (0x3_0000_0001 : Word).toNat / 2 ^ 32 % 2 ^ 11 = 3 ∧ (0x3_0000_0001 : Word).toNat % 8 = 1 ∧
      (0x3_0000_0002 : Word).toNat % 8 = 2 ∧
      (0x4_0000_0003 : Word).toNat / 2 ^ 32 % 2 ^ 11 = 4 ∧ (0x4_0000_0003 : Word).toNat % 8 = 3 := by
  unfold Ordered
  exact ⟨by decide, ⟨nofun, by decide⟩, ⟨_, rfl⟩, by decide, by decide, by decide, ⟨by decide, by decide, _, rfl, rfl⟩, by decide⟩

/-- What a FAULTED context has to report. -/
def report (stage : Nat) (norec hw : Bool) (refused : Option Nat) : FaultInfo :=
  ⟨earlyTrap 2 0 7, 3, 0x10000, 0x10000, 3, 9, stage, norec, hw, none, refused⟩

/-- A FAULTED context with its record area and the handler's record in one of the eight pages, a handler queue and a host
link. -/
def faulted (page : Nat) (f : FaultInfo) : State :=
  let s := (withLinkState (withBytes (paged8 base) (0x5000C0 + 0x10000 * page) (leBytes 64 1)) 0 .up).modCtx 0 fun c =>
    { c with state := .faulted, fltp := BitVec.ofNat 64 (2 ^ 36 + 65536 * page), fault := some f }
  { s with
    ftriage := 5
    launches := SMap.set s.launches 0
      { loadLaunch with task := { loadTask with record := 1 + (2 ^ 36 + 65536 * page + 0x100) * 2 ^ 128 } }
    queues := [(5, { Queue.zero with state := .enabled, handler := true })] }

/-- The record of the page, and what the checks of its write find; the handler's record, and what those of its read find. -/
def recordSegs (page : Nat) : List Seg := [(2 ^ 36 + 65536 * page, 128)]
def writes (page : Nat) (f : FaultInfo) : Chk := (faulted page f).reach me 0 (recordSegs page) false true
def handlerSegs (page : Nat) : List Seg := [(2 ^ 36 + 65536 * page + 0xC0, 64)]
def reads (page : Nat) (f : FaultInfo) : Chk := (faulted page f).reach me 0 (handlerSegs page) true false

/-- The notice's host write can leave. -/
def Notifies (page : Nat) (f : FaultInfo) : Prop :=
  let x := (faulted page f).ftriage.toNat
  HostReach (faulted page f) (x / 2 ^ 12 % 2 ^ 44 * 4096 + 16 * (x / 2 ^ 56)) 16

set_option maxRecDepth 20000 in
theorem witness_FaultsAreDelivered_record :
    (let f := report 0 false true none
     let s := faulted 6 f
     ((s.ctx 0).fault = some f ∧ (s.ctx 0).state = .faulted ∧ f.wait = none ∧ f.stage = 0) ∧ writes 6 f = .ok ∧
       Local ((s.mark me 0 0 (recordSegs 6) true).partsOf me 0 0 (2 ^ 36 + 0x60000) ((recordWords 0 (s.ctx 0) f).flatMap (leBytes 8)))) ∧
    writes 0 (report 0 false true none) = .trap 6 3 (2 ^ 36) 0 ∧
    (let ps := [(2 ^ 20 + 2, 2 ^ 36 + 0x20000)]
     writes 2 (report 0 false true none) = .wait ps ∧ (report 0 false true none).refuses ps = false ∧
       writes 2 (report 0 false true (some (2 ^ 20 + 2))) = .wait ps ∧
       (report 0 false true (some (2 ^ 20 + 2))).refuses ps = true) :=
  ⟨⟨⟨rfl, rfl, rfl, rfl⟩, by decide, phys_local (by decide)⟩, by decide, by decide⟩

set_option maxRecDepth 20000 in
theorem witness_FaultsAreDelivered_notice :
    (let f := report 1 true true none
     ((faulted 6 f).ctx 0).fault = some f ∧ f.stage = 1 ∧ ((faulted 6 f).launchOf me).isSome = true ∧ f.norec = true ∧
       Notifies 6 f) ∧
    (report 1 false false none).hw = false ∧
    (let f := report 1 false true none
     (((faulted 6 f).ctx 0).handler = false ∧ f.norec = false ∧ f.hw = true) ∧
       reads 0 f = .trap 6 3 (2 ^ 36 + 0xC0) 0 ∧ Notifies 0 f ∧
       (let ps := [(2 ^ 20 + 2, 2 ^ 36 + 0x200C0)]
        reads 2 f = .wait ps ∧ f.refuses ps = false ∧ reads 2 (report 1 false true (some (2 ^ 20 + 2))) = .wait ps ∧
          (report 1 false true (some (2 ^ 20 + 2))).refuses ps = true ∧ Notifies 2 (report 1 false true (some (2 ^ 20 + 2)))) ∧
       (let s := faulted 6 f
        let record := leNat (s.readSeg me 0 0 (2 ^ 36 + 0x600C0, 64))
        (recFaultB (((s.launchOf me).map fun l => l.task.record).getD 0) + 2 ^ 64 - 64) % 2 ^ 64 = 2 ^ 36 + 0x600C0 ∧
          reads 6 f = .ok ∧ s.upsetOf me 0 0 (handlerSegs 6) = none ∧ taskReason record = none ∧
          (let x := s.queue (s.ftriage.toNat % 2 ^ 6)
           x.handler = true ∧ x.state = .enabled ∧ x.drain = false ∧ x.waiting < 256) ∧
          (SMap.get? s.kernels (recKernel record)).map (·.asid) = some 0)) ∧
    let f := report 1 false true none
    (let s := { faulted 6 f with upsets := [⟨.phys, 0x5600C0, 8⟩] }
     s.reach me 0 (handlerSegs 6) true false = .ok ∧ s.upsetOf me 0 0 (handlerSegs 6) = some ⟨.phys, 0x5600C0, 8⟩) ∧
    let s := { faulted 6 f with ftriage := 6 }
    s.reach me 0 (handlerSegs 6) true false = .ok ∧ s.upsetOf me 0 0 (handlerSegs 6) = none ∧
      (s.queue (s.ftriage.toNat % 2 ^ 6)).handler = false := by
  unfold Notifies HostReach
  decide

set_option maxRecDepth 20000 in
theorem witness_FaultCommands :
    let f := report 2 false true none
    let s := faulted 6 f
    let v : Nat → Word := fun cmd => BitVec.ofNat 64 (cmd + 2 ^ 32 * 2047)
    ((1 : Word).toNat % 8 = 1 ∧ (2 : Word).toNat % 8 = 2 ∧ (3 : Word).toNat % 8 = 3 ∧ 0 = (3 : Word).toNat / 2 ^ 32 % 2 ^ 11 ∧
      2047 = (v 2).toNat / 2 ^ 32 % 2 ^ 11 ∧ (v 1).toNat % 8 = 1) ∧
    ((s.ctx 0).state = .faulted ∧ (s.ctx 0).asid = (1 : Word).toNat / 2 ^ 48 ∧ (s.ctx 0).fault = some f) ∧
    ((s.ctx 2047).state ≠ .faulted ∧ (s.ctx 0).asid ≠ (0x1_0000_0000_0001 : Word).toNat / 2 ^ 48) ∧
    (s.reach me 0 [((s.ctx 0).fltp.toNat + 80, 8)] true false = .ok ∧ s.upsetOf me 0 0 [((s.ctx 0).fltp.toNat + 80, 8)] = none) ∧
    (let s := { faulted 6 f with upsets := [⟨.phys, 0x560050, 8⟩] }
     s.reach me 0 [((s.ctx 0).fltp.toNat + 80, 8)] true false = .ok ∧
       s.upsetOf me 0 0 [((s.ctx 0).fltp.toNat + 80, 8)] = some ⟨.phys, 0x560050, 8⟩) ∧
    (let s := faulted 2 f
     s.reach me 0 [((s.ctx 0).fltp.toNat + 80, 8)] true false = .wait [(2 ^ 20 + 2, 2 ^ 36 + 0x20050)]) ∧
    let s := faulted 0 f
    s.reach me 0 [((s.ctx 0).fltp.toNat + 80, 8)] true false = .trap 6 3 (2 ^ 36 + 80) 0 := by
  decide

/-- A page of the eight that is FAULTING, with an answered request, and a collapse of another page that three dies, or none,
have acknowledged. -/
def serving (verdict page : Nat) (acks : List Nat) : State :=
  { withLinkState (paged8 base) 0 .up with
    services := [⟨8, 0, true, 0, 2 ^ 36 + 65536 * page, 0, some 0, none, some (verdict, 0, 0)⟩]
    faulting := [⟨0, 2 ^ 20 + page, 0⟩]
    collapsing := [⟨0, 2 ^ 20 + 7, 1, 0x240038, acks, 0⟩] }

set_option maxRecDepth 20000 in
theorem witness_PagesAreServed :
    (∃ v, (serving 0 5 []).serviceGet 8 = some v ∧ v.func = 0 ∧ AllSent (serving 0 5 []) ∧ v.asid < 2 ^ 16 ∧
      (serving 0 5 []).faulting.filter (fun f => f.asid == v.asid && f.page == v.addr / 65536) = [⟨v.asid, v.addr / 65536, 0⟩] ∧
      (serving 0 5 []).logged v.asid (v.addr / 65536) 1 = 0 ∧ v.answer = some (0, 0, 0) ∧
      ∃ pte addr, (serving 0 5 []).walk v.asid v.addr = .leaf pte 4 addr) ∧
    (let s := (serving 1 2 []).modCtx 0 fun c => { c with state := .pageWait, fetchWait := some (2 ^ 20 + 2) }
     ∃ v, s.serviceGet 8 = some v ∧ v.func = 0 ∧ AllSent s ∧ v.answer = some (1, 0, 0) ∧ (s.ctx 0).asid = v.asid ∧
      s.faulting.filter (fun f => f.asid == v.asid && f.page == v.addr / 65536) = [⟨v.asid, v.addr / 65536, 0⟩] ∧
      s.logged v.asid (v.addr / 65536) 1 = 0 ∧ (s.ctx 0).state = .pageWait ∧ (s.ctx 0).fetchWait = some (v.addr / 65536) ∧ (s.ctx 0).pending = [] ∧
      ((s.ctx 0).inflight = [] ∧ (s.ctx 0).fault = none ∧ ∀ e ∈ s.ctxs, e.1 = 0 ∨ (Calm e.2 ∧ e.2.asid ≠ v.asid)) ∧
      Ordered s.ctxs) ∧
    (∃ c, (serving 0 5 [0, 1]).collapsing.find? (fun c => c.asid == 0 && c.page == 2 ^ 20 + 7) = some c ∧ c.stage = 0 ∧
      3 ∉ c.acks ∧ c.acks.length < 3) ∧
    (∃ c, (serving 0 5 [0, 1, 2]).collapsing.find? (fun c => c.asid == 0 && c.page == 2 ^ 20 + 7) = some c ∧ c.stage = 0 ∧
      3 ∉ c.acks ∧ c.acks.length = 3 ∧ (serving 0 5 [0, 1, 2]).modesel.getLsbD 2 = true ∧ c.count = 1 ∧
      (serving 0 5 [0, 1, 2]).logged 0 (2 ^ 20 + 7) 1 = 0) ∧
    let s := { serving 0 5 [0, 1, 2] with modesel := 0 }
    s.modesel.getLsbD 2 = false ∧ s.svcr = 0 ∧ s.unanswered false 0 < 256 ∧ HostReach s (32 * (s.svcCount % 256)) 32 := by
  unfold AllSent Ordered HostReach
  refine ⟨⟨_, rfl, rfl, by decide, by decide, by decide, by decide, rfl, _, _, rfl⟩,
    ⟨_, rfl, rfl, by decide, rfl, by decide, by decide, by decide, by decide, by decide, by decide,
      ⟨rfl, rfl, fun e he => by cases he with | head => exact .inl rfl | tail _ h => cases h⟩, by decide⟩,
    ⟨_, rfl, rfl, by decide, by decide⟩, ⟨_, rfl, rfl, by decide, rfl, by decide, rfl, by decide⟩, by decide⟩

/-- A context in PAGE-WAIT whose load waits for a page that its service cannot bring. -/
def starved : State :=
  (serving 1 2 []).modCtx 0 fun c => { c with
    state := .pageWait
    inflight := [{ oneWord 1 0 .queued with
      words := [⟨1, 0x00511802, .queued, some (.page 6 [(2 ^ 20 + 2, 2 ^ 36 + 0x20000)]), none, []⟩] }] }

/-- An entry of a side log, of a page from 2^36 on. -/
def logEntry (page : Nat) (kind : StoreKind) : LogEntry :=
  { who := me, asid := 0, page := 2 ^ 20 + page, pos := 0, pc := 0x10000, kind := kind, segs := [(16, [1, 2, 3, 4])], time := 3 }

set_option maxRecDepth 20000 in
theorem witness_PagesAreServed_words :
    ∃ v b w, starved.serviceGet 8 = some v ∧ v.func = 0 ∧ v.answer = some (1, 0, 0) ∧ (starved.ctx 0).asid = v.asid ∧
      ((starved.ctx 0).state = .pageWait ∧ (starved.ctx 0).fetchWait = none ∧ (starved.ctx 0).inflight = [b] ∧
        (starved.ctx 0).fault = none ∧ (starved.ctx 0).pending = [] ∧ b.traps = [] ∧ b.words = [w] ∧
        w.wait = some (.page 6 [(v.addr / 65536, 2 ^ 36 + 0x20000)])) ∧
      ∀ e ∈ starved.ctxs, e.1 = 0 ∨ (Calm e.2 ∧ e.2.asid ≠ v.asid) :=
  ⟨_, _, _, rfl, rfl, rfl, rfl, ⟨rfl, rfl, rfl, rfl, rfl, rfl, rfl, rfl⟩, fun e he => by
    cases he with
    | head => exact .inl rfl
    | tail _ h => cases h⟩

set_option maxRecDepth 20000 in
theorem witness_PagesAreServed_replay :
    let s := serving 0 5 []
    (∃ pa pte level addr, s.page 0 0 ((2 ^ 20 + 6) * 65536) false true false = .ok pa pte level addr ∧
      let m := (s.reportWalk 0 ((2 ^ 20 + 6) * 65536)).orPte addr 0x30
      Local ([(16, [1, 2, 3, 4])].map fun g => (m.leafPlace 0 pte, pa + g.1, g.2)) ∧
        m.upsetIn (m.leafPlace 0 pte) (pa + 16) 4 = none) ∧
    (logEntry 6 .store).segs = [(16, [1, 2, 3, 4])] ∧ (logEntry 6 (.red 0 false 5)).kind = .red 0 false 5 ∧
    (s.whoCtx me).isSome = true ∧ s.whoCtx ⟨7, 0⟩ = none :=
  ⟨⟨_, _, _, _, rfl, phys_local (by decide), by decide⟩, rfl, rfl, by decide, by decide⟩

/-- Bytes that nothing has written leave a zero CRC at zero. -/
theorem crc_unlisted (m : Mem) (n : Nat) : ∀ a, (∀ e ∈ m, e.1 < a ∨ a + n ≤ e.1) → crcBytes 0 (Mem.bytes m a n) = 0 := by
  induction n with
  | zero => intro a _; rfl
  | succ n ih =>
    intro a h
    have none_ : Mem.read m a = 0 := by
      have find : m.find? (fun e => e.1 == a) = none := List.find?_eq_none.mpr fun e he => by have := h e he; simp; omega
      simp [Mem.read, SMap.getD, SMap.get?, find, unlisted]
    rw [Mem.bytes, none_]
    exact ih (a + 1) fun e he => by have := h e he; omega

/-- The bytes FF FF FF FF take the checksum from its start to zero. -/
theorem crc_ones (l : List Byte) : crcBytes 0xFFFFFFFF (255 :: 255 :: 255 :: 255 :: l) = crcBytes 0 l := by
  have h1 : crcBits 8 0xFFFFFFFF (255 : Byte).toNat = 0xFFFFFF := by decide
  have h2 : crcBits 8 0xFFFFFF (255 : Byte).toNat = 0xFFFF := by decide
  have h3 : crcBits 8 0xFFFF (255 : Byte).toNat = 0xFF := by decide
  have h4 : crcBits 8 0xFF (255 : Byte).toNat = 0 := by decide
  rw [crcBytes, h1, crcBytes, h2, crcBytes, h3, crcBytes, h4]

/-- A sealed page, FF FF FF FF and zeros, with a checksum in its record, and its pool. -/
def sealed (check : Nat) : State :=
  withBytes (withBytes described (0x31000 + 64 * 6) (leBytes 64 (check * 2 ^ 256 + 2 ^ 288 + 2 ^ 312))) 0x560000
    [255, 255, 255, 255]

set_option maxRecDepth 20000 in
theorem sealed_checksum (check : Nat) (h : check = 0 ∨ check = 2 ^ 32 - 1) :
    kvChecksum (Mem.bytes (sealed check).mem 0x560000 65536) = 2 ^ 32 - 1 := by
  have zeros : crcBytes 0 (Mem.bytes (sealed check).mem (0x560000 + 1 + 1 + 1 + 1) 65532) = 0 :=
    crc_unlisted _ _ _ (by rcases h with rfl | rfl <;> decide)
  have first : Mem.bytes (sealed check).mem 0x560000 65536 =
      255 :: 255 :: 255 :: 255 :: Mem.bytes (sealed check).mem (0x560000 + 1 + 1 + 1 + 1) 65532 := by
    have reads : ∀ i, i < 4 → Mem.read (sealed check).mem (0x560000 + i) = 255 := by
      rcases h with rfl | rfl <;> decide
    rw [show (65536 : Nat) = 65532 + 1 + 1 + 1 + 1 from rfl, Mem.bytes, Mem.bytes, Mem.bytes, Mem.bytes]
    rw [show Mem.read (sealed check).mem 0x560000 = _ from reads 0 (by decide),
      show Mem.read (sealed check).mem (0x560000 + 1) = _ from reads 1 (by decide),
      show Mem.read (sealed check).mem (0x560000 + 1 + 1) = _ from reads 2 (by decide),
      show Mem.read (sealed check).mem (0x560000 + 1 + 1 + 1) = _ from reads 3 (by decide)]
  rw [kvChecksum, first, crc_ones, zeros]
  rfl

/-- An operation on a pool. -/
def pooling (kind : OpKind) : State := withOp described (sent kind)

theorem pooling_inFlight (kind : OpKind) : InFlight (pooling kind) 5 (sent kind) me := ⟨rfl, rfl, by decide⟩

set_option maxRecDepth 20000 in
theorem witness_PoolOperations_of_pages :
    let va := 2 ^ 36 + 0x50000
    let after := fun (kind : OpKind) => (poolRead (pooling kind) (sent kind) me 0x30080 5 pool1).1
    (∃ o, InFlight (pooling (.pfree 0x30080 va 5)) 5 o me ∧ o.kind = .pfree 0x30080 va 5 ∧
      PoolAt (pooling (.pfree 0x30080 va 5)) o me 0x30080 5 pool1 ∧
      (after (.pfree 0x30080 va 5)).reach me 0 [(pool1.bitAt 5, 1)] true false = .ok) ∧
    (∃ o, InFlight (pooling (.pseal 0x30080 va 5)) 5 o me ∧ o.kind = .pseal 0x30080 va 5 ∧
      PoolAt (pooling (.pseal 0x30080 va 5)) o me 0x30080 5 pool1 ∧
      (after (.pseal 0x30080 va 5)).reach me 0 [(va, 65536)] true false = .ok) ∧
    ∃ o, InFlight (pooling (.pattr va true)) 5 o me ∧ o.kind = .pattr va true ∧ o.wait = none ∧ o.denied = false ∧
      (pooling (.pattr va true)).lemant.power ≠ .trip ∧ ∃ pa e level addr,
        (pooling (.pattr va true)).page 0 0 va false false false = .ok pa e level addr ∧ pteBank e ≠ true ∧ pteBank e = false := by
  refine ⟨⟨_, pooling_inFlight _, rfl, ⟨rfl, rfl, rfl, by decide, by decide, by decide, by decide⟩, by decide⟩,
    ⟨_, pooling_inFlight _, rfl, ⟨rfl, rfl, rfl, by decide, by decide, by decide, by decide⟩, by decide⟩,
    ⟨_, pooling_inFlight _, rfl, rfl, rfl, by decide, _, _, _, _, rfl, by decide⟩⟩

/-- A pool that is low, with a refill asked for; its third page has no frame. -/
def refilling : State :=
  { withBytes described 0x30080 (leBytes 64 (2 ^ 36 + 2048 * 2 ^ 64 + 0x31000 * 2 ^ 128 + 0x38000 * 2 ^ 192 + 2 ^ 256)) with
    services := [⟨9, 3, true, 0, 0x30080, 0, none, none, none⟩] }

/-- That pool. -/
def lowPool : Pool := { pool1 with low := 1 }

set_option maxRecDepth 20000 in
theorem witness_PoolOperations_of_the_device :
    ((∃ v ∈ refilling.services, v.func = 3 ∧ v.asid = 0 ∧ v.addr = 0x30080) ∧
      refilling.reach noWho 0 [(0x30080, 64)] true false = .ok ∧
      Pool.ofBytes 0x30080 (refilling.fetch noWho 0 0x30080 64) = some lowPool ∧ lowPool.free < lowPool.low ∧ 2 < lowPool.npage ∧
      258 % 256 = 2 % 256 ∧
      (let unpopulated := fun j => (∃ a, refilling.pteAddr 0 (lowPool.page j) = some a ∧
         pteV (Mem.le refilling.mem a 8) = false ∧ pteKv (Mem.le refilling.mem a 8) = false) ∧
         (∀ f ∈ refilling.faulting, ¬(f.asid = 0 ∧ f.page = lowPool.page j / 65536)) ∧
         refilling.reach noWho 0 [(lowPool.record j, 64)] true false = .ok ∧
         recordAlloc (leNat (refilling.fetch noWho 0 (lowPool.record j) 64)) = false
       unpopulated 2 ∧ ∀ j, j < 2 → ¬unpopulated j) ∧
      refilling.reach noWho 0 [(lowPool.bitAt 2, 1)] true false = .ok) ∧
    (∀ check, check = 2 ^ 32 - 1 ∨ check = 0 →
      (sealed check).reach noWho 0 [(0x30080, 64)] true false = .ok ∧
      Pool.ofBytes 0x30080 ((sealed check).fetch noWho 0 0x30080 64) = some pool1 ∧ 6 < pool1.npage ∧
      (sealed check).resolve noWho 0 0 (pool1.page 6) false = some (.phys, 0x560000) ∧
      (sealed check).resolve noWho 0 0 (pool1.record 6) false = some (.phys, 0x31180) ∧
      (sealed check).modesel.getLsbD 9 = true ∧ (sealed check).upsets = [] ∧
      Mem.le (sealed check).mem 0x31180 64 / 2 ^ 312 % 2 = 1 ∧
      (kvChecksum (Mem.bytes (sealed check).mem 0x560000 65536) = Mem.le (sealed check).mem 0x31180 64 / 2 ^ 256 % 2 ^ 32 ↔
        check = 2 ^ 32 - 1)) ∧
    ∃ addr, described.pteAddr 0 (2 ^ 36 + 0x7FFFF) = some addr ∧ 2 ^ 64 - 1 < 2 ^ 64 := by
  refine ⟨⟨⟨_, .head _, by decide⟩, by decide, by decide, by decide, by decide, by decide,
    ⟨⟨⟨0x240010, by decide⟩, nofun, by decide, by decide⟩, ?_⟩, by decide⟩, ?_,
    ⟨0x240038, by decide⟩⟩
  · intro j h
    match j, h with
    | 0, _ => rintro ⟨⟨a, ha, hv⟩, -⟩; cases ha; revert hv; decide
    | 1, _ => rintro ⟨⟨a, ha, hv⟩, -⟩; cases ha; revert hv; decide
  · rintro check (rfl | rfl)
    · rw [sealed_checksum _ (.inr rfl)]
      decide
    · rw [sealed_checksum _ (.inl rfl)]
      decide

/-- The operation before in flight, in the device of pages. -/
def working (kind : OpKind) : State := withOp (paged8 inAdr) (sent kind)

theorem working_inFlight (kind : OpKind) : InFlight (working kind) 5 (sent kind) me := ⟨rfl, rfl, by decide⟩

/-- A second reduction of the same word. -/
def another : Op := { sent (.red 0 true .phys 0x30000 0x30000 9) with id := 6 }

set_option maxRecDepth 20000 in
theorem witness_CopiesAndReductions :
    (∃ o w, InFlight (working (.cpy (2 ^ 36 + 0x3FFFE) 0x30000 258 false 0)) 5 o w ∧
      o.kind = .cpy (2 ^ 36 + 0x3FFFE) 0x30000 258 false 0 ∧
      (working (.cpy (2 ^ 36 + 0x3FFFE) 0x30000 258 false 0)).lemant.power ≠ .trip) ∧
    (∀ j, j = 1 ∨ j = 2 →
      let s := working (.cpy (2 ^ 36 + 0x3FFFE) 0x30000 259 true j)
      ∃ o w, InFlight s 5 o w ∧ o.kind = .cpy (2 ^ 36 + 0x3FFFE) 0x30000 259 true j ∧ o.wait = none ∧ o.denied = false ∧
        let p := pieceOf (2 ^ 36 + 0x3FFFE) 259 j
        j ≤ (2 ^ 36 + 0x3FFFE + 259 - 1) / 256 - (2 ^ 36 + 0x3FFFE) / 256 ∧
        (∀ va, va = 0x30000 + p.1 ∨ va = 2 ^ 36 + 0x3FFFE + p.1 → inWindow va = false ∨ s.portsHeld va = false) ∧
        s.windowsBefore o (([0x30000 + p.1, 2 ^ 36 + 0x3FFFE + p.1].filter inWindow).map fun va => (va, p.2)) = false ∧
        s.windowChk [(0x30000 + p.1, p.2)] true false = .ok ∧ s.windowChk [(2 ^ 36 + 0x3FFFE + p.1, p.2)] false true = .ok ∧
        s.check w o.asid 0 6 [(0x30000 + p.1, p.2)] true false (fun _ => true) true 0 = .ok ∧
        s.check w o.asid 0 6 [(2 ^ 36 + 0x3FFFE + p.1, p.2)] false true (fun _ => true) true 0 = .ok ∧
        s.upsetOf w o.asid 0 [(0x30000 + p.1, p.2)] = none ∧
        let m := (s.mark w o.asid 0 [(0x30000 + p.1, p.2)] false).mark w o.asid 0 [(2 ^ 36 + 0x3FFFE + p.1, p.2)] true
        Local (m.partsOf w o.asid 0 (2 ^ 36 + 0x3FFFE + p.1) (m.readSeg w o.asid 0 (0x30000 + p.1, p.2)))) ∧
    (∃ o w, InFlight (working (.red 9 false .phys 0x30000 0x30000 (2 ^ 32 - 1))) 5 o w ∧
      o.kind = .red 9 false .phys 0x30000 0x30000 (2 ^ 32 - 1) ∧
      (working (.red 9 false .phys 0x30000 0x30000 (2 ^ 32 - 1))).redPlace w o.asid
        (Reduction.mk 9 false .phys 0x30000 0x30000 (2 ^ 32 - 1)) = (.phys, 0x30000) ∧
      (working (.red 9 false .phys 0x30000 0x30000 (2 ^ 32 - 1))).upsetIn .phys 0x30000 4 = none) ∧
    let s := withOp (working (.red 0 true .phys 0x30000 0x30000 1)) another
    InFlight s 5 (sent (.red 0 true .phys 0x30000 0x30000 1)) me ∧ InFlight s 6 another me ∧ 6 ≠ 5 ∧
      s.redPlace me 0 (Reduction.mk 0 true .phys 0x30000 0x30000 1) = (.phys, 0x30000) ∧ s.upsetIn .phys 0x30000 8 = none := by
  refine ⟨⟨_, _, working_inFlight _, rfl, by decide⟩, ?_, ⟨_, _, working_inFlight _, rfl, by decide, by decide⟩,
    ⟨rfl, rfl, by decide⟩, ⟨rfl, rfl, by decide⟩, by decide, by decide, by decide⟩
  rintro j (rfl | rfl) <;>
    exact ⟨_, _, working_inFlight _, rfl, rfl, rfl, by decide, fun va h => by rcases h with rfl | rfl <;> exact .inl (by decide),
      by decide, by decide, by decide, by decide, by decide, by decide, phys_local (by decide)⟩

/-- A play of a line of one of the pages, with its playbook at physical address 0x540000, the second that became READY. -/
def playing (state : PlayState) (num : Nat) (book : Option Nat) (ws : List Nat) : State :=
  let s := withBytes (withBytes (paged8 inAdr) 0x540004 (leBytes 4 (2111 + 1 * 2 ^ 16))) 0x54000C (leBytes 4 (64 + 33 * 2 ^ 16))
  withOp { s with readyPlays := [4, 5], plays := [⟨(s.sliceOf me 0 (2 ^ 36 + 0x5FF00)).getD 0, 0x540000, 2, [0xC0000000]⟩] }
    (sent (.play state num (2 ^ 36 + 0x5FF00) 7 book ws 7))

theorem playing_inFlight (state : PlayState) (num : Nat) (book : Option Nat) (ws : List Nat) :
    InFlight (playing state num book ws) 5 (sent (.play state num (2 ^ 36 + 0x5FF00) 7 book ws 7)) me := ⟨rfl, rfl, by decide⟩

set_option maxRecDepth 20000 in
theorem witness_Plays :
    Ordered (playing .sent 1 none []).ctxs ∧ (playing .sent 1 none []).lemant.power ≠ .trip ∧
    (∀ x ∈ (playing .sent 1 none []).ops, x.who = some me → x.id < 5 → ∀ book, x.kind ≠ .pbset book) ∧
    (InFlight (working (.pbset none)) 5 (sent (.pbset none)) me ∧ (working (.pbset none)).lemant.power ≠ .trip ∧
      ∀ x ∈ (working (.pbset none)).ops, x.kind.runsFrom none = false) ∧
    (∃ c, (playing .sent 2 (some 0x540000) []).plays.find? (fun c =>
      some c.slice == (playing .sent 2 (some 0x540000) []).sliceOf me 0 (2 ^ 36 + 0x5FF00) && c.book == 0x540000 && c.num == 2) = some c) ∧
    ((playing .sent 1 (some 0x540000) []).plays.find? (fun c =>
      some c.slice == (playing .sent 1 (some 0x540000) []).sliceOf me 0 (2 ^ 36 + 0x5FF00) && c.book == 0x540000 && c.num == 1) = none ∧
      (playing .sent 1 (some 0x540000) []).modesel.getLsbD 5 = true ∧ (playing .sent 1 (some 0x540000) []).upsets = [] ∧
      Mem.le (playing .sent 1 (some 0x540000) []).mem 0x540004 4 / 2 ^ 16 % 2 ^ 8 ≠ 0) ∧
    (let s := playing .ready 1 none []
     let slice := s.sliceOf me 0 (2 ^ 36 + 0x5FF00)
     s.readyPlays = [4] ++ 5 :: [] ∧ (∀ j ∈ [4], s.startsOn slice j = false) ∧ s.startsOn slice 5 = true) ∧
    (∀ v ∈ (playing .fetching 1 (some 0x540000) [2111 + 1 * 2 ^ 16, 0xC0000000]).services, v.func = 5 → v.op ≠ some 5) ∧
    (64 / 2 ^ 16 % 2 ^ 8 = 0) ∧ ((64 + 33 * 2 ^ 16) / 2 ^ 16 % 2 ^ 8 ≠ 0 ∧ ∃ r, playFails (64 + 33 * 2 ^ 16) [] = some r) ∧
    playFails (2111 + 1 * 2 ^ 16) [0xC0000000] = none ∧
    (∀ ws, ws = [0xC0000000] ∨ ws = [0xB8000000, 0xC0000000] →
      let s := playing .ready 1 none ws
      ∃ o w, InFlight s 5 o w ∧ o.wait = none ∧ o.denied = false ∧
        s.playHeldBack o w (PlayOp.mk .ready 1 (2 ^ 36 + 0x5FF00) 7 none ws 7) = false ∧
        s.playTurn 5 (s.sliceOf w o.asid (2 ^ 36 + 0x5FF00)) = true ∧ (2 ^ 36 + 0x5FF00) % 256 = 0 ∧
        (∃ pa e level addr, s.page o.asid 0 (2 ^ 36 + 0x5FF00) true true false = .ok pa e level addr ∧ pteBank e = false ∧
          pteEnc e = false ∧ s.upsetIn .phys pa 256 = none) ∧
        ((runPlay (leNat ((s.markRange o.asid (2 ^ 36 + 0x5FF00) 256 false).peek .phys 0x55FF00 256)) 7 ws).ok = true ↔
          ws = [0xC0000000])) := by
  unfold Ordered
  refine ⟨by decide, by decide, fun x h => ?_, ⟨working_inFlight _, by decide, by decide⟩, ⟨_, rfl⟩, by decide, by decide, nofun,
    by decide,
    ⟨by decide, ⟨(1, 0), by decide⟩⟩, by decide, ?_⟩
  · cases List.mem_singleton.mp h
    exact fun _ h => absurd h (by decide)
  · rintro ws (rfl | rfl) <;>
      exact ⟨_, _, playing_inFlight _ _ _ _, rfl, rfl, by decide, by decide, by decide,
        ⟨_, _, _, _, rfl, by decide, by decide, by decide⟩, by decide⟩

/-- A play of the start of one of the eight pages, that is to run or PARKED. -/
def playingAt (state : PlayState) (page : Nat) : State :=
  withOp { paged8 inAdr with readyPlays := [5] } (sent (.play state 1 (2 ^ 36 + 65536 * page) 7 none [0xC0000000] 7))

/-- It is its turn. -/
def PlayTurns (state : PlayState) (page : Nat) : Prop :=
  let s := playingAt state page
  s.playHeldBack (sent (.play state 1 (2 ^ 36 + 65536 * page) 7 none [0xC0000000] 7)) me
    (PlayOp.mk state 1 (2 ^ 36 + 65536 * page) 7 none [0xC0000000] 7) = false ∧
  (state = .ready → s.playTurn 5 (s.sliceOf me 0 (2 ^ 36 + 65536 * page)) = true)

set_option maxRecDepth 20000 in
theorem witness_Plays_pages :
    (PlayTurns .ready 0 ∧ (playingAt .ready 0).page 0 0 (2 ^ 36) true true false = .perm) ∧
    (PlayTurns .ready 1 ∧ (playingAt .ready 1).page 0 0 (2 ^ 36 + 65536) true true false = .cannot 4) ∧
    (PlayTurns .ready 2 ∧ (playingAt .ready 2).page 0 0 (2 ^ 36 + 65536 * 2) true true false = .awaits) ∧
    (PlayTurns .ready 3 ∧ ∃ pa e level addr,
      (playingAt .ready 3).page 0 0 (2 ^ 36 + 65536 * 3) true true false = .ok pa e level addr ∧ pteBank e = true) ∧
    (PlayTurns .parked 4 ∧ ∃ pa e level addr,
      (playingAt .parked 4).page 0 0 (2 ^ 36 + 65536 * 4) true true false = .ok pa e level addr ∧ pteBank e = false) ∧
    ({ playingAt .ready 4 with upsets := [⟨.phys, 0x5400FF, 8⟩] } : State).upsetIn .phys 0x540000 256 = some ⟨.phys, 0x5400FF, 8⟩ ∧
    7 ∈ playReads 0x18E00000 := by
  unfold PlayTurns
  refine ⟨by decide, by decide, by decide, ⟨by decide, _, _, _, _, rfl, by decide⟩, ⟨by decide, _, _, _, _, rfl, by decide⟩,
    by decide, by decide⟩

/-- The words of a play of two. -/
theorem word_of_two {a b x : Nat} {P : Nat → Prop} {i : Nat} (h : [a, b][i]? = some x) (ha : P a) (hb : P b) : P x := by
  have := List.mem_of_getElem? h
  simp only [List.mem_cons, List.not_mem_nil, or_false] at this
  rcases this with rfl | rfl <;> assumption

theorem sound_words {x : Nat} (h : x = 0 ∨ x = 0x08200001 ∨ x = 0xC0000000) : ¬NoPlayWord x := by
  unfold NoPlayWord playFieldsUsed
  rcases h with rfl | rfl | rfl <;> decide

theorem witness_Plays_validation :
    (32 < (64 + 33 * 2 ^ 16) / 2 ^ 16 % 2 ^ 8) ∧ ((63 + 2 ^ 16) % 2 ^ 16 < 64 ∧ 2112 < 2111 + 2) ∧
    (64 ≤ (64 + 2 * 2 ^ 16) % 2 ^ 16 ∧ (64 + 2 * 2 ^ 16) / 2 ^ 24 % 2 ^ 8 = 0) ∧
    (∃ x, [0xFFFFFFFF, 0xC0000000][0]? = some x ∧ NoPlayWord x) ∧
    ((∀ (i x : Nat), [0, 0][i]? = some x → ¬NoPlayWord x) ∧ ¬∃ x, [0, 0].getLast? = some x ∧ x / 2 ^ 27 = 0x18) ∧
    ((∀ (i x : Nat), [0x08200001, 0xC0000000][i]? = some x → ¬NoPlayWord x) ∧ [0x08200001, 0xC0000000].getLast? = some 0xC0000000 ∧
      (∀ x ∈ [0x08200001, 0xC0000000].dropLast, x / 2 ^ 27 ≠ 0x18) ∧ ReadsUnwritten [0x08200001, 0xC0000000] 0) ∧
    ((∀ (i x : Nat), [0, 0xC0000000][i]? = some x → ¬NoPlayWord x) ∧ ∀ i : Nat, ¬ReadsUnwritten [0, 0xC0000000] i) := by
  refine ⟨by decide, by decide, by decide, ⟨_, rfl, .inl (by decide)⟩, ⟨fun i x h => ?_, by simp⟩,
    ⟨fun i x h => ?_, rfl, by decide, _, 1, rfl, .inl (by decide), fun j x h => absurd h (Nat.not_lt_zero j)⟩, fun i x h => ?_,
    fun i => ?_⟩
  · exact word_of_two (P := fun x => ¬NoPlayWord x) h (sound_words (.inl rfl)) (sound_words (.inl rfl))
  · exact word_of_two (P := fun x => ¬NoPlayWord x) h (sound_words (.inr (.inl rfl))) (sound_words (.inr (.inr rfl)))
  · exact word_of_two (P := fun x => ¬NoPlayWord x) h (sound_words (.inl rfl)) (sound_words (.inr (.inr rfl)))
  · rintro ⟨x, n, h, u, -⟩
    refine word_of_two (P := fun (x : Nat) => (playFieldsUsed x).1 = false ∧ (playFieldsUsed x).2.1 = false ∧
      (playFieldsUsed x).2.2.1 = false) h (by decide) (by decide) |> fun k => ?_
    simp [k] at u

theorem witness_Plays_words : (0 : Nat) < 2 ^ 32 ∧ 0x07FFFFFF / 2 ^ 27 = 0 ∧ 0x08200001 / 2 ^ 27 = 1 ∧ 0x10000000 / 2 ^ 27 = 2 ∧
    0xB0000000 / 2 ^ 27 = 0x16 ∧ 0xB8000000 / 2 ^ 27 = 0x17 ∧ 0xC0000000 / 2 ^ 27 = 0x18 ∧ 0x18000000 / 2 ^ 27 = 3 ∧
    0xAFFFFFFF / 2 ^ 27 = 0x15 ∧ (Engine.mk 0 [] 0 true).reg 7 < 2 ^ 256 := by decide

/-- A table of 4,096 entries of two bytes in the bank page of the eight, READY or DEFINED, and an operation. -/
def tabled (ready : Bool) (kind : OpKind) : State :=
  let s := withPages inAdr [0x47, 0x47, 0x7]
  withOp { s with tables := [⟨0, 0x30000, 2 ^ 36, 12, true, [0x50, 0x51], ready, 0⟩] } (sent kind)

theorem tabled_inFlight (ready : Bool) (kind : OpKind) : InFlight (tabled ready kind) 5 (sent kind) me := ⟨rfl, rfl, by decide⟩

/-- A query of some indices. -/
def asking (desc : Nat) (idx : List Nat) (n16 e16 : Bool) (rows : Option (List Nat)) : Query :=
  ⟨desc, idx, n16, e16, 7, rows, 0x50, 12, 2, idx.map fun _ => (0, none)⟩

set_option maxRecDepth 20000 in
theorem witness_Tables :
    InFlight (tabled true (.tbldefDrop 0x30000)) 5 (sent (.tbldefDrop 0x30000)) me ∧
    (tabled true (.tbldef 0x30020 (2 ^ 36) 12 1 true false)).lemant.power ≠ .trip ∧
    (
      ((tabled true (.tbldef 0x30020 (2 ^ 36) 12 1 true false)).tables.filter fun t => homeSlice (t.desc / 256) == homeSlice (0x30020 / 256)).length < 16) ∧
    (let frames := fun n => (List.range (n + 1)).map fun j => (tabled true (.tbldef 0x30020 (2 ^ 36) 12 n true false)).bankFrame 0 (2 ^ 36 + 65536 * j)
     (frames 1).all Option.isSome = true ∧ (frames 2).all Option.isSome = false) ∧
    ((tabled true (.trepl 0x30020)).tableAt 0 0x30020 = none ∧
      ∃ t, (tabled true (.trepl 0x30000)).tableAt 0 0x30000 = some t ∧ t.nrow = 8 ∧ t.frames ≠ [] ∧
        (tabled true (.trepl 0x30000)).upsets = []) ∧
    (InFlight (tabled true (.tq (asking 0x30020 [4095, 4096] true true none))) 5
        (sent (.tq (asking 0x30020 [4095, 4096] true true none))) me ∧
      Ordered (tabled true (.tq (asking 0x30020 [4095, 4096] true true none))).ctxs ∧
      (asking 0x30020 [4095, 4096] true true none).rows = none ∧
      (tabled true (.tq (asking 0x30020 [4095, 4096] true true none))).tableAt 0 0x30020 = none) ∧
    (∃ t, (tabled true (.tq (asking 0x30000 [255] false false none))).tableAt 0 0x30000 = some t ∧ false ≠ t.wide ∧ true = t.wide ∧
      t.ready = true ∧ t.frames.length = 2) ∧
    (∃ t, (tabled false (.tq (asking 0x30000 [255] true true none))).tableAt 0 0x30000 = some t ∧ t.ready = false ∧
      rowsOf 2 ([4095, 3584].map (· % 2 ^ t.logn)) = [7] ∧ rowsOf 2 ([4095, 3583].map (· % 2 ^ t.logn)) = 6 :: 7 :: []) ∧
    (asking 0x30000 [255] true true (some [7])).rows = some [7] ∧ (asking 0x30000 [255] true true (some [7])).width = 2 ∧
    (asking 0x30000 [255] true true (some [6, 7])).rows = some (6 :: 7 :: []) := by
  unfold Ordered
  exact ⟨tabled_inFlight _ _, by decide, by decide, by decide, by decide, ⟨tabled_inFlight _ _, by decide, rfl, by decide⟩,
    by decide, by decide, by decide, by decide, by decide⟩

/-- A row of an index and age. -/
def aRow (lidx age : Nat) (pin : Bool) : Row := ⟨0, lidx, 5, 0, age, pin, false, false, none⟩

/-- A set of eight rows on chip, and one spill page or none. -/
def aSet (rows : List Row) (spages pool : Nat) : RSet :=
  ⟨⟨0, 0, 7, 8, 0, 0, false, 0, 0, spages, 2 ^ 36 + 0x30000, pool⟩, rows, 2 ^ 32 - 1, 0, 0, 8⟩

/-- A device with that set and an operation on it. -/
def rostered (r : RSet) (kind : OpKind) : State := withOp { described with sets := [r] } (sent kind)

theorem rostered_turn (r : RSet) (kind : OpKind) : Turn (rostered r kind) 5 (sent kind) me :=
  ⟨⟨rfl, rfl, by decide⟩, rfl, (by show (List.any [sent kind] _) = false; simp [sent]), fun h => by cases h⟩

/-- The row of index 9 that the tests insert, of slot 5. -/
def newRow : Nat := 9 * 2 ^ 256 + 5 * 2 ^ 288

/-- Eight rows on chip, the third the oldest without PIN. -/
def eight : List Row := [aRow 0 200 true, aRow 1 3 false, aRow 2 9 false, aRow 3 9 false, aRow 4 0 false, aRow 5 0 false,
  aRow 6 0 false, aRow 7 0 false]

set_option maxRecDepth 20000 in
theorem witness_SetsChange_of_sets :
    (let d : SetDesc := { (aSet [] 1 0).desc with id := 8, spill := 2 ^ 36 + 0x30000 }
     let s := rostered (aSet [] 0 0) (.rset d false)
     (s.setAt 0 d.handle).isNone ∧ (s.sets.filter fun r => r.desc.home == d.home).length < 64 ∧
       ((s.sets.filter fun r => r.desc.home == d.home).map fun r => r.desc.cap).sum + d.cap ≤ 32768 ∧
       ∀ va ∈ d.pages, ∃ pa e level addr, s.page 0 0 va false false false = .ok pa e level addr ∧ pteBank e = true ∧
         pteEnc e = false ∧ pteKv e = false ∧ s.heldPage 0 va = false) ∧
    ¬((rostered (aSet [] 0 0) (.rset (aSet [] 0 0).desc false)).setAt 0 (aSet [] 0 0).desc.handle).isNone ∧
    (rostered (aSet [] 0 0) (.rsetDrop 8)).setAt 0 8 = none ∧
    (let r := aSet [] 1 0
     (rostered r (.rsetDrop 7)).setAt 0 7 = some r ∧ r.rows = [] ∧ r.desc.pages = [2 ^ 36 + 0x30000] ∧
       ∃ e level addr, (rostered r (.rsetDrop 7)).walk 0 (2 ^ 36 + 0x30000) = .leaf e level addr) := by
  refine ⟨⟨by decide, by decide, by decide, fun va h => ?_⟩, by decide, by decide, by decide, rfl, by decide, _, _, _, rfl⟩
  cases List.mem_singleton.mp h
  exact ⟨_, _, _, _, rfl, by decide, by decide, by decide, by decide⟩

/-- A set holds no row of index 9, or one that has spilled, and its rows on chip leave room for one, or do not. -/
def Elsewhere (r : RSet) : Prop := r.row 9 = none ∨ ∃ y, r.row 9 = some y ∧ y.spilled = true ∧ r.spilling = false
def onChip (r : RSet) : Nat := (r.rows.filter fun y => !y.spilled).length

/-- The set of handle 7 in the device with an operation on it. -/
def SevenIs (r : RSet) : Prop := (rostered r (.rins 7 newRow)).setAt 0 7 = some r

set_option maxRecDepth 20000 in
theorem witness_SetsChange_of_rows :
    ((rowOf newRow).lidx = 9 ∧ (rowOf newRow).handle = 5 ∧ (rostered (aSet [] 0 0) (.rins 8 newRow)).setAt 0 8 = none) ∧
    (let r := aSet [aRow 9 3 false] 0 0
     SevenIs r ∧ r.desc.pool = 0 ∧ ∃ y, r.row 9 = some y ∧ y.spilled = false) ∧
    (let r := aSet [aRow 9 3 false] 0 0x30080
     SevenIs r ∧ ∃ y, r.row 9 = some y ∧ y.handle = (rowOf newRow).handle) ∧
    (SevenIs (aSet (eight.take 7) 0 0) ∧ Elsewhere (aSet (eight.take 7) 0 0) ∧ onChip (aSet (eight.take 7) 0 0) < 8) ∧
    (let r := aSet ({ aRow 9 3 false with spilled := true } :: eight.take 7) 1 0
     SevenIs r ∧ Elsewhere r ∧ onChip r < r.desc.cap) ∧
    (let r := aSet eight 1 0
     (SevenIs r ∧ Elsewhere r ∧ r.desc.cap ≤ onChip r ∧ victimOf r.rows = some (aRow 2 9 false) ∧ r.desc.enc = false ∧
       ((r.rows.filter fun y => y.lidx != 9).filter (·.spilled)).length ≠ 1024 * r.desc.spages ∧
       (rostered r (.rins 7 newRow)).modesel.getLsbD 4 = true)) ∧
    (let r := aSet (List.replicate 8 (aRow 0 200 true)) 1 0
     SevenIs r ∧ Elsewhere r ∧ r.desc.cap ≤ onChip r ∧ victimOf r.rows = none) ∧
    (let r := aSet eight 0 0
     SevenIs r ∧ Elsewhere r ∧ r.desc.cap ≤ onChip r ∧
       ((r.rows.filter fun y => y.lidx != 9).filter (·.spilled)).length = 1024 * r.desc.spages) := by
  unfold SevenIs Elsewhere
  refine ⟨by decide, ⟨by decide, by decide, _, rfl, rfl⟩, ⟨by decide, _, rfl, rfl⟩, ⟨by decide, .inl (by decide), by decide⟩,
    ⟨by decide, .inr ⟨_, rfl, rfl, by decide⟩, by decide⟩, ?_, ⟨by decide, .inl (by decide), by decide, by decide⟩,
    ⟨by decide, .inl (by decide), by decide, by decide⟩⟩
  exact ⟨by decide, .inl (by decide), by decide, by decide, by decide, by decide, by decide⟩

/-- What the record of a page that a row names says of an increment. -/
def Refused (s : State) (record : Nat) : Prop :=
  let m := leNat (s.fetch me 0 record 64)
  m.testBit 288 = false ∨ s.isFreeing (s.homeKey me 0 record) = true ∨ m / 2 ^ 296 % 2 ^ 16 = 65535

/-- A row of index 9 whose page is another of the pool. -/
def otherPage : Row := { aRow 9 3 false with handle := 7 }

set_option maxRecDepth 20000 in
theorem witness_SetsChange_of_counts :
    (let r := aSet [aRow 1 0 false] 0 0x30080
     let s := rostered r (.rins 7 newRow)
     SevenIs r ∧ r.desc.pool ≠ 0 ∧ r.row 9 = none ∧ onChip r < r.desc.cap ∧
       s.metadata me 0 0x30080 5 = (.ok, some (pool1.record 5)) ∧ ¬Refused s (pool1.record 5)) ∧
    (let s := rostered (aSet [] 0 0x30080) (.rins 7 (newRow + 2 ^ 288))
     (rowOf (newRow + 2 ^ 288)).handle = 6 ∧ s.metadata me 0 0x30080 6 = (.ok, some (pool1.record 6)) ∧
       Refused s (pool1.record 6)) ∧
    (let r := aSet [otherPage] 0 0x30080
     let s := rostered r (.rins 7 newRow)
     SevenIs r ∧ r.row 9 = some otherPage ∧ otherPage.spilled = false ∧ otherPage.handle ≠ (rowOf newRow).handle ∧
       s.metadata me 0 0x30080 7 = (.ok, some (pool1.record 7)) ∧
       (s.putRref me (standing s (sent (.rins 7 newRow))) 0x30080 (pool1.record 5) 4).1.metadata me 0 0x30080 7 =
         (.ok, some (pool1.record 7))) ∧
    (let r := aSet [aRow 1 0 false] 0 0x30080
     let s := rostered r (.rdel 7 1)
     s.setAt 0 7 = some r ∧ r.spilling = false ∧ r.row 2 = none ∧ r.row 1 = some (aRow 1 0 false) ∧ r.desc.pool ≠ 0 ∧
       s.metadata me 0 0x30080 5 = (.ok, some (pool1.record 5))) ∧
    (rostered (aSet eight 1 0) (.rage 7 (-128))).setAt 0 7 = some (aSet eight 1 0) ∧
    ∀ v ∈ (rostered (aSet eight 1 0) (.rage 7 (-128))).services, v.func = 4 → v.asid = 0 → v.aux = 7 → v.op ≠ some 3 := by
  unfold SevenIs Refused
  refine ⟨by decide, by decide, by decide, by decide, by decide, nofun⟩

set_option maxRecDepth 20000 in
theorem witness_SelectsAnswer : Turn (rostered (aSet eight 1 0) (.rsel 7 8 5 none 3 1 7)) 5 (sent (.rsel 7 8 5 none 3 1 7)) me ∧
    Ordered (rostered (aSet eight 1 0) (.rsel 7 8 5 none 3 1 7)).ctxs ∧
    (rostered (aSet eight 1 0) (.rsel 8 8 5 none 3 1 7)).setAt 0 8 = none ∧
    (rostered (aSet eight 1 0) (.rsel 7 8 5 none 3 1 7)).setAt 0 7 = some (aSet eight 1 0) ∧ (aSet eight 1 0).spilling = false ∧
    (rostered (aSet eight 1 0) (.rselInfo 8 7)).setAt 0 8 = none ∧
    (rostered (aSet eight 1 0) (.rselInfo 7 7)).setAt 0 7 = some (aSet eight 1 0) := by
  unfold Ordered
  exact ⟨rostered_turn _ _, by decide, by decide, by decide, by decide, by decide, by decide⟩

/-- A bundle with a matrix word that waits for acceptance, on a core whose active plane holds signed bytes; tile 11 and a window
hold errors. -/
def multiplying (us : List Upset) (w : MtxWork) (bad : Option Nat := none) : State :=
  let b : Bundle := { oneWord 5 0 .started with words := [⟨5, 0, .started, none, bad, []⟩], mtx := some w }
  { (running (paged8 base) b).modCore 0 fun x => { x with active := { x.active with ty := 3 }, badMtx := [11, 35] } with
    mtxOrder := [0], upsets := us }

/-- The bundle. -/
def multiplyBundle (w : MtxWork) (bad : Option Nat := none) : Bundle :=
  { oneWord 5 0 .started with words := [⟨5, 0, .started, none, bad, []⟩], mtx := some w }

set_option maxRecDepth 20000 in
theorem witness_MatrixWork :
    (inMtx.focus = { ticket := 0, pos := (oneWord 5 0 .queued).pos, slot := 5 } ∧
      ((oneWord 5 0 .queued).effects.filter fun e => e.1 == 1) = []) ∧ SoundTiles (inMtx.core 0) ∧
    (∀ e, e = 1 ∨ e = 2 ∨ e = 4 → (List.replicate (256 / e) (0x30000, 256 * e)).length = 256 / e ∧
      ∀ g ∈ List.replicate (256 / e) (0x30000, 256 * e), (rowBytes inMtx 0 g).length = 256 * e) ∧
    (59 : Nat) < 60 ∧ (3 : Nat) < 4 ∧ mmaClass ((multiplying [] .mswap).core 0).active.ty = mmaClass 4 ∧
    (otBytes 2 ≤ otBytes 0 ∧ otBytes 0 / otBytes 2 - 1 < otBytes 0 / otBytes 2) := by
  refine ⟨by decide, ⟨fun j => rfl, by decide⟩, ?_, by decide, by decide, by decide, by decide⟩
  rintro e (rfl | rfl | rfl) <;>
    exact ⟨List.length_replicate .., fun g h => by rw [List.eq_of_mem_replicate h]; decide⟩

/-- A matrix word that may be accepted. -/
theorem mayAccept (w : MtxWork) (us : List Upset) (bad : Option Nat) (ready : (multiplying us w bad).unitReady 0 w = true)
    (chk : (multiplying us w bad).workChk w = .ok)
    (awaits : (multiplying us w bad).adrAwaits 0 (multiplyBundle w bad) w.sources = []) :
    MayAccept (multiplying us w bad) 0 (multiplyBundle w bad) w :=
  ⟨rfl, rfl, rfl, nofun, fun _ h => by cases List.mem_singleton.mp h; rfl, nofun, ready, chk, awaits, rfl,
    fun _ h => List.mem_singleton.mp (List.mem_of_find?_eq_some h)⟩

/-- An MMA of signed bytes from a tile into a tile. -/
def anMma (dst src ty window : Nat) (acc : Bool) : MtxWork := .mma dst src ty 0 window acc true none

set_option maxRecDepth 20000 in
theorem witness_MatrixWorkIsAccepted :
    (∀ w, w = anMma 2 3 4 0 true ∨ w = .sld 0 8 0x30000 ∨ w = .mswap →
      MayAccept (multiplying [] w) 0 (multiplyBundle w) w ∧ (multiplying [] w).classFault 0 w = false ∧
      (multiplying [] w).upsetOf me 0 0 w.sources = none ∧
      ∀ x ∈ w.consumes ((multiplying [] w).core 0), x ∉ ((multiplying [] w).core 0).badMtx) ∧
    (((multiplying [] .mswap).ctx 0).state.traps = true ∧ ((multiplying [] .mswap).ctx 0).pending = []) ∧
    (let w : MtxWork := .sld 0 8 0x30000
     MayAccept (multiplying [] w (some 8)) 0 (multiplyBundle w (some 8)) w ∧ (multiplying [] w (some 8)).classFault 0 w = false ∧
       w.sources ≠ [] ∧ ((multiplyBundle w (some 8)).words.find? fun x => x.slot == 5).bind (·.bad) = some 8) ∧
    ((multiplyBundle .mswap).words.find? fun x => x.slot == 5).bind (·.bad) = none ∧
    (MayAccept (multiplying [] (anMma 2 3 7 0 true)) 0 (multiplyBundle (anMma 2 3 7 0 true)) (anMma 2 3 7 0 true) ∧
      mmaClass 7 ≠ mmaClass ((multiplying [] (anMma 2 3 7 0 true)).core 0).active.ty) ∧
    (let w := anMma 2 11 3 0 true
     MayAccept (multiplying [] w) 0 (multiplyBundle w) w ∧ (multiplying [] w).classFault 0 w = false ∧
       (multiplying [] w).upsetOf me 0 0 w.sources = none ∧ 11 ∈ w.consumes ((multiplying [] w).core 0) ∧
       11 ∈ ((multiplying [] w).core 0).badMtx) ∧
    (let w : MtxWork := .sld 7 1 0x30000
     let s := multiplying [⟨.phys, 0x307FF, 1⟩] w
     MayAccept s 0 (multiplyBundle w) w ∧ s.classFault 0 w = false ∧ ∃ u, s.upsetOf me 0 0 w.sources = some u) ∧
    (let s := withOp (multiplying [] .mswap) (sent (.mtx 0 [2] [3] false false 0))
     (∀ o ∈ s.ops, ¬∃ reads writes mlds windows, o.kind = .mtx (coreOf 0) reads writes true mlds windows) ∧
     (∀ o ∈ s.ops, ¬∃ reads writes mma windows, o.kind = .mtx (coreOf 0) reads writes mma true windows) ∧
     (∀ o ∈ s.ops, ¬∃ reads writes mma mlds windows,
       o.kind = .mtx (coreOf 0) reads writes mma mlds windows ∧ (mma || mlds) = true) ∧
     ∃ o, s.opGet 5 = some o ∧ o.kind = .mtx 0 [2] [3] false false 0) ∧
    let s := withOp (multiplying [] .mswap) (sent (.mtx 0 [2] [3] true false 0x7F))
    ∀ o ∈ s.ops, ¬∃ reads writes mlds windows, o.kind = .mtx (coreOf 0) reads writes true mlds windows ∧
      ∃ j, 7 ≤ j ∧ j < 7 + 1 ∧ windows.testBit j = true := by
  refine ⟨?_, ⟨rfl, rfl⟩, ⟨mayAccept _ _ _ (by decide) (by decide) (by decide), by decide⟩, rfl, ⟨mayAccept _ _ _ (by decide) (by decide) (by decide), by decide⟩,
    ⟨mayAccept _ _ _ (by decide) (by decide) (by decide), by decide, by decide, by decide, by decide⟩,
    ⟨mayAccept _ _ _ (by decide) (by decide) (by decide), by decide, _, rfl⟩,
    ⟨?_, ?_, ?_, _, rfl, rfl⟩, ?_⟩
  · rintro w (rfl | rfl | rfl) <;> exact ⟨mayAccept _ _ _ (by decide) (by decide) (by decide), by decide, by decide, by decide⟩
  · intro o h
    cases List.mem_singleton.mp h
    rintro ⟨_, _, _, _, h⟩
    cases h
  · intro o h
    cases List.mem_singleton.mp h
    rintro ⟨_, _, _, _, h⟩
    cases h
  · intro o h
    cases List.mem_singleton.mp h
    rintro ⟨_, _, _, _, _, h, hm⟩
    cases h
    cases hm
  · intro s o h
    cases List.mem_singleton.mp h
    rintro ⟨_, _, _, _, h, j, h7, h8, ht⟩
    cases h
    cases Nat.le_antisymm (Nat.le_of_lt_succ h8) h7
    exact absurd ht (by decide)

/-- An arrival at, or a definition of, a barrier: 9 is the context's own with 3 of 4 arrivals, 8 its own without, 5 another's. -/
def meeting (kind : OpKind) : State :=
  { working kind with barriers := [(5, ⟨2, 3, 1, 0, true, 0, 0⟩), (8, ⟨2, 0, 65535, 0, true, 0, 6⟩), (9, ⟨1, 0, 4, 3, true, 8, 6⟩)] }

theorem meeting_inFlight (kind : OpKind) : InFlight (meeting kind) 5 (sent kind) me := ⟨rfl, rfl, by decide⟩

theorem witness_BarriersCount : InFlight (meeting (.binit 9 1)) 5 (sent (.binit 9 1)) me ∧
    ((meeting (.binit 255 1)).deviceBarrier 255).state = 0 ∧
    (let x := (meeting (.binit 8 65535)).deviceBarrier 8
     x.state ≠ 0 ∧ x.asid = 0 ∧ x.arrived = 0) ∧
    (let x := (meeting (.binit 9 65535)).deviceBarrier 9
     x.state ≠ 0 ∧ ¬(x.state ≠ 0 ∧ x.asid = 0 ∧ x.arrived = 0) ∧ x.asid = 0 ∧ x.arrived + 1 = x.count) ∧
    (∀ e ∈ (meeting (.binitFree 8)).ctxs, ∀ ph raw pos, e.2.block ≠ some (.barrier 8 ph raw pos)) ∧
    ((meeting (.barr 5 false 3 2)).deviceBarrier 5).asid ≠ 0 ∧
    (meeting (.barr 5 false 3 2)).lemant.power ≠ .trip ∧
    (∃ l, (meeting (.barr 0 true 3 2)).launchOf me = some l ∧
      (SMap.getD l.groups (l.gidxOf 0) Barrier.free).state ≠ 0) ∧
    ∃ l, { meeting (.barr 0 true 3 2) with launches := [(0, { loadLaunch with groups := [] })] }.launchOf me = some l ∧
      (SMap.getD l.groups (l.gidxOf 0) Barrier.free).state = 0 := by
  refine ⟨meeting_inFlight _, by decide, by decide, by decide, fun e he ph raw pos => ?_, by decide, by decide,
    ⟨_, rfl, by decide⟩, _, rfl, by decide⟩
  have h : ∀ e ∈ (meeting (.binitFree 8)).ctxs, e.2.block = none := by decide
  rw [h e he]
  nofun

/-- One element that the instance contributes to a collective of a scope, with what has been read and what is to be written. -/
def contribution (op ty scope addr : Nat) (got result : Option (List Nat)) : OpKind :=
  .coll ⟨op, ty, false, scope, addr, 1, 0⟩ got result
def contributing (op ty scope addr : Nat) (got result : Option (List Nat)) : State :=
  working (contribution op ty scope addr got result)

/-- A launch of two instances, whose second has contributed nothing. -/
def pair (ended : List Nat) (s : State) : State := { s with launches := [(0, { loadLaunch with c := 2, ended := ended })] }

/-- Two instances, contributing alike or not. -/
def both (ty : Nat) (got : Option (List Nat)) : State :=
  withOp (pair [] (contributing 0 0 1 0x30000 got none))
    { sent (contribution 0 ty 1 0x30100 none none) with id := 6, who := some { launch := 0, inst := 1 } }

/-- The verdict on the first collective of a scope, and its COLLs on this device. -/
def judged (scope : Nat) (s : State) : CollVerdict :=
  ((s.launchOf me).map fun l => s.collVerdict l 0 scope 0 0).getD .awaits
def colls (scope : Nat) (s : State) : List (Op × Who × CollArg) := ((s.launchOf me).map fun l => s.collOps l 0 scope 0 0).getD []

/-- A collective of which a COLL can be read. -/
def Reads (s : State) (scope addr n : Nat) : Prop :=
  judged scope s = .ready ∧ (∀ x ∈ colls scope s, x.1.denied = false) ∧ s.reach me 0 [(addr, n)] true true = .ok ∧
    s.upsetOf me 0 0 [(addr, n)] = none

set_option maxRecDepth 20000 in
theorem witness_CollectivesReduce_reads :
    (let s := contributing 0 0 0 ownBase none none
     InFlight s 5 (sent (contribution 0 0 0 ownBase none none)) me ∧ Ordered s.ctxs ∧
       (∃ l, s.launchOf me = some l ∧ 0 = l.gidxOf me.inst) ∧ (sent (contribution 0 0 0 ownBase none none)).wait = none ∧
       s.lemant.power ≠ .trip ∧ Reads s 0 ownBase 4) ∧
    Reads (contributing 7 1 1 0x30000 none none) 1 0x30000 8 ∧
    (let s := both 0 none
     Reads s 1 0x30000 4 ∧ ∃ x ∈ colls 1 s, x.1.id ≠ 5 ∧ gathered x.1 = none) ∧
    (let s := both 0 none
     let s := { s with ops := s.ops.map fun x => if x.id = 6 then collecting x 9 (some [3]) none else x }
     Reads s 1 0x30000 4 ∧ ∀ x ∈ colls 1 s, (if x.1.id = 5 then some [0] else gathered x.1) ≠ none) ∧
    judged 1 (contributing 0 0 1 0x30000 (some [7]) none) = .ready := by
  unfold Ordered Reads
  exact ⟨⟨working_inFlight _, by decide, ⟨_, rfl, rfl⟩, rfl, by decide, by decide⟩, by decide, by decide, by decide, by decide⟩

set_option maxRecDepth 20000 in
theorem witness_CollectivesReduce_writes :
    (let s := contributing 0 0 1 0x30000 (some [7]) (some [9])
     let m := s.mark me 0 0 [(0x30000, 4)] true
     s.reach me 0 [(0x30000, 4)] false true = .ok ∧ (leBytes 4 9).length = 1 * 4 ∧
       (∀ e, e < 1 → elem 32 (leNat (leBytes 4 9)) e = [9].getD e 0 % 2 ^ 32) ∧
       Local (m.partsOf me 0 0 0x30000 (leBytes 4 9))) ∧
    { sent (contribution 0 0 1 0x30000 (some [7]) (some [9])) with denied := true }.denied = true :=
  ⟨⟨by decide, rfl, by decide, phys_local (by decide)⟩, rfl⟩

set_option maxRecDepth 20000 in
theorem witness_CollectivesReduce_verdicts :
    (∀ ended, ended = [1] ∨ ended = [] →
      let s := pair ended (contributing 0 0 1 0x30000 none none)
      ∃ l, s.launchOf me = some l ∧ 1 ∈ (List.range l.instances).filter (fun i => (1 : Nat) != 0 || l.gidxOf i == 0) ∧
        (∀ x ∈ s.collOps l 0 1 0 0, x.2.1.inst ≠ 1) ∧ (1 ∈ l.ended ↔ ended = [1])) ∧
    (∀ ty, ty = 0 ∨ ty = 1 →
      ∃ l, (both ty none).launchOf me = some l ∧
        (∀ i ∈ (List.range l.instances).filter (fun i => (1 : Nat) != 0 || l.gidxOf i == 0),
          ∃ x ∈ (both ty none).collOps l 0 1 0 0, x.2.1.inst = i) ∧
        ((∀ x ∈ (both ty none).collOps l 0 1 0 0, x.2.2.ty = 0) ↔ ty = 0)) ∧
    (let s := contributing 0 0 2 0x30000 none none
     s.inSet s.fabid = false ∧ ∃ f ∈ { s with fabLost := [(0, 0, 1)] }.fabLost, f.1 = recTaskId loadTask.record ∧ f.2.1 ≤ 0 ∧ 0 < f.2.2) ∧
    judged 1 (both 1 none) = .fails ∧ judged 1 (pair [] (contributing 0 0 1 0x30000 none none)) = .awaits := by
  refine ⟨?_, ?_, by decide, by decide, by decide⟩
  · rintro ended (rfl | rfl) <;> exact ⟨_, rfl, by decide, by decide, by decide⟩
  · rintro ty (rfl | rfl) <;> exact ⟨_, rfl, by decide, by decide⟩

/-- A state in TRIP. -/
def tripped (s : State) : State := { s with lemant := { s.lemant with power := .trip } }

set_option maxRecDepth 20000 in
theorem witness_CollectivesReduce_trip_and_late :
    ((tripped (both 0 none)).lemant.power = .trip ∧ ∀ x ∈ colls 1 (tripped (both 0 none)), gathered x.1 = none) ∧
    ((tripped (both 0 (some [7]))).lemant.power = .trip ∧ ∃ x ∈ colls 1 (tripped (both 0 (some [7]))), gathered x.1 ≠ none) ∧
    (let s := both 0 none
     let s := { s with ops := s.ops.map fun x => { x with failed := true } }
     (∃ x ∈ colls 1 s, x.1.failed = true) ∧ judged 1 s = .fails) ∧
    ∀ x ∈ colls 1 (both 0 none), x.1.failed = false := by decide

/-- A queue with a record in its ring at 0x100000. -/
def queued (x : Queue) (record : Nat) (kind : OpKind) : State :=
  withBytes { working kind with queues := [(63, x)] } (0x100000 + 64 * 2) (leBytes 64 record)

/-- The queue: records 2 and 3 of 16. -/
def ring : Queue := { Queue.zero with state := .enabled, sizem1 := 15, base := 0x4000, head := 2, tail := 4 }

/-- A record of a task of kernel 7, which awaits three releases. -/
def aTask : Nat := 1 + 7 * 2 ^ 16 + 3 * 2 ^ 192

set_option maxRecDepth 20000 in
theorem witness_TasksEnter :
    (let kind := OpKind.tspawn 63 false (plainTask aTask (some 0) 0 3)
     InFlight (queued ring aTask kind) 5 (sent kind) me ∧
       (∀ x ∈ (queued ring aTask kind).ops, x.who = some me → x.id < 5 → ∀ h t, x.kind ≠ .tspawn 63 h t) ∧
       MayEnter (queued ring aTask kind) 63 aTask 0 false ∧
       ¬MayEnter (queued { ring with handler := true } aTask kind) 63 aTask 0 false) ∧
    (let x := (queued ring aTask (.binitFree 0)).queue 63
     x.state = .enabled ∧ x.drain = false ∧ x.head ≠ x.tail ∧ x.run.length + x.pool.length < 256 ∧
       (queued ring aTask (.binitFree 0)).upsetIn .phys (x.base * 64 + 64 * x.head) 64 = none ∧
       taskReason (Mem.le (queued ring aTask (.binitFree 0)).mem (x.base * 64 + 64 * x.head) 64) = none ∧
       recordReason (Mem.le (queued ring 9 (.binitFree 0)).mem (x.base * 64 + 64 * x.head) 64) = some 1) ∧
    (∃ o, (queued ring aTask (.act3 63 0x100080 4 11 false none)).opGet 5 = some o ∧ o.kind = .act3 63 0x100080 4 11 false none ∧ o.wait = none ∧
      o.denied = false ∧ (queued ring aTask (.act3 63 0x100080 4 11 false none)).spaceReach 0 [(0x100080, 64)] true false = .ok ∧
      (queued ring aTask (.act3 63 0x100080 4 11 false none)).upsetOf noWho 0 0 [(0x100080, 64)] = none ∧
      taskReason (leNat ((queued ring aTask (.act3 63 0x100080 4 11 false none)).readSeg noWho 0 0 (0x100080, 64))) = none ∧
      MayEnter (queued ring aTask (.act3 63 0x100080 4 11 false none)) 63 aTask 0 false ∧
      taskReason (leNat ((queued ring 9 (.act3 63 0x100080 4 11 false none)).readSeg noWho 0 0 (0x100080, 64))) ≠ none) ∧
    recType 6 = 6 ∧ (recType (1 + 2 ^ 9) = 1 ∧ taskMbz (1 + 2 ^ 9) = true) ∧
    (recType (1 + 6 * 2 ^ 32) = 1 ∧ taskMbz (1 + 6 * 2 ^ 32) = false ∧ taskShapeBad (1 + 6 * 2 ^ 32) = true) ∧
    (taskMbz (1 + 5 * 2 ^ 48) = false ∧ taskShapeBad (1 + 5 * 2 ^ 48) = false ∧ recC (1 + 5 * 2 ^ 48) = 5) ∧
    (taskMbz (1 + 4 * 2 ^ 64) = false ∧ recArgp (1 + 4 * 2 ^ 64) % 8 ≠ 0) := by
  unfold MayEnter
  refine ⟨⟨⟨rfl, rfl, by decide⟩, ?_, ?_, ?_⟩, by decide, ⟨_, rfl, rfl, rfl, rfl, by decide, by decide, by decide, ?_, by decide⟩,
    by decide, by decide, by decide, by decide, by decide⟩
  · intro x hx _ lt
    cases List.mem_singleton.mp hx
    exact absurd lt (by decide)
  · exact ⟨by decide, by decide, by decide, by decide, nofun⟩
  · exact fun h => absurd (h.2.2.1 (by decide)) (by decide)
  · exact ⟨by decide, by decide, by decide, by decide, nofun⟩

/-- A queue that is DISABLED, enabled with work, or draining. -/
def controlling (state : QState) (drain : Bool) : State := queued { ring with state := state, drain := drain } aTask (.binitFree 0)

theorem witness_QueuesAreControlled : (63 : Nat) < 64 ∧ (∀ e ∈ (controlling .disabled false).graphs, e.2.queue ≠ 63) ∧
    (((controlling .disabled false).queue 63).state = .disabled ∧ (1 : Word).toNat.testBit 0 = true) ∧
    (((controlling .enabled false).queue 63).state ≠ .disabled ∧ (2 : Word).toNat.testBit 0 = false) ∧
    (((controlling .enabled false).queue 63).drain = false ∧ (2 : Word).toNat.testBit 1 = true) ∧
    (((controlling .enabled true).queue 63).drain = true ∧ (1 : Word).toNat.testBit 1 = false) ∧
    ((controlling .enabled true).queue 63).prio ≠ (0x70000 : Word).toNat / 2 ^ 16 % 8 ∧
    (15 : Word).toNat % 2 ^ 20 = ((controlling .enabled false).queue 63).sizem1 ∧
    ((controlling .enabled false).queue 63).sizem1 < (16 : Word).toNat % 2 ^ 20 ∧
    ((controlling .enabled false).queue 63).head ≠ ((controlling .enabled false).queue 63).tail := by decide

/-- A task at the head of a run list. -/
def headTask (record : Nat) : Task := { plainTask record none 9 0 with id := 20 }

/-- Queue 63, with an effective priority, holds a task; host link 0 is up. -/
def pending63 (x : Queue) (record : Nat) : State :=
  { withLinkState (paged8 base) 0 .up with queues := [(63, { x with head := 4, run := [headTask record] })], nextId := 21 }

set_option maxRecDepth 20000 in
theorem witness_TasksAreDispatched :
    (let s := pending63 { ring with fix := 1 } 1
     s.chosen = some (63, .error 12)) ∧
    (let s := { pending63 { ring with fix := 2, fixb := 0x8000, fixcap := 4 } 1 with upsets := [⟨.phys, 0x100010, 8⟩] }
     s.chosen = some (63, .error 9) ∧ s.fixtureUpset (s.queue 63) = some ⟨.phys, 0x100010, 8⟩) ∧
    (let s := pending63 ring (1 + 9 * 2 ^ 16)
     ∃ status, s.chosen = some (63, .ends (headTask (1 + 9 * 2 ^ 16)) status) ∧ Plain s 63 (headTask (1 + 9 * 2 ^ 16)) ∧
       recAct (headTask (1 + 9 * 2 ^ 16)).record = 0) ∧
    (let s := pending63 { ring with eprio := 7 } (1 + 2 ^ 32 + 2 ^ 36)
     let t := headTask (1 + 2 ^ 32 + 2 ^ 36)
     ∃ kn c p, s.chosen = some (63, .place t c kn.hdr p) ∧ Plain s 63 t ∧ taskReason t.record = none ∧
       SMap.get? s.kernels (recKernel t.record) = some kn ∧ p.1 + 2 ^ recLw t.record ≤ 32) := by
  unfold Plain
  refine ⟨by decide, by decide, ⟨2, by decide⟩, ⟨_, 1, (2, 0), by decide, by decide, by decide, rfl, by decide⟩⟩

/-- A launch that has ended, of a task with a completion action. -/
def finished (record : Nat) : State :=
  { pending63 { ring with pool := [headTask (aTask + 5 * 2 ^ 384), { headTask (7 * 2 ^ 384) with deps := 2 }], credits := [(8, 1)] } 1
    with launches := [(0, { loadLaunch with task := { loadTask with record := record }, ended := [0] })] }

set_option maxRecDepth 20000 in
theorem witness_LaunchesComplete :
    (∀ r, r = 1 ∨ r = 1 + 2 ^ 208 ∨ r = 1 + 2 ^ 209 + 16 * 2 ^ 256 ∨ r = 1 + 2 ^ 210 →
      ∃ l kn, SMap.get? (finished r).launches 0 = some l ∧ l.ended.length = l.instances ∧ l.task.service = none ∧
        l.task.node = none ∧ recAct l.task.record ≠ 3 ∧ SMap.get? (finished r).kernels l.kernel = some kn ∧ kn.state ≠ .unloading ∧
        HostReach (finished r) (recActAddr l.task.record) 16) ∧
    ((∀ o ∈ (finished 1).ops, ∀ w, o.who = some w → w.launch ≠ 0) ∧ ∀ k ∈ (finished 1).cores, ∀ e ∈ k.2.log, e.who.launch ≠ 0) ∧
    ((finished 1).queue 62).state = .disabled ∧ ((finished 1).queue 63).state ≠ .disabled ∧
    ((finished 1).queue 63).pool = [headTask (aTask + 5 * 2 ^ 384)] ++ { headTask (7 * 2 ^ 384) with deps := 2 } :: [] ∧
    (∀ y ∈ [headTask (aTask + 5 * 2 ^ 384)], recTaskId y.record ≠ 7) ∧ recTaskId (7 * 2 ^ 384) = 7 ∧ 1 < 2 ∧
    (((finished 1).queue 63).pool = [] ++ headTask (aTask + 5 * 2 ^ 384) :: [{ headTask (7 * 2 ^ 384) with deps := 2 }] ∧
      recTaskId (aTask + 5 * 2 ^ 384) = 5 ∧ (headTask (aTask + 5 * 2 ^ 384)).deps ≤ 1) ∧
    (∀ y ∈ ((finished 1).queue 63).pool, recTaskId y.record ≠ 8) ∧ SMap.get? ((finished 1).queue 63).credits 8 ≠ none ∧
    (let x := { (finished 1).queue 63 with credits := (List.range 256).map fun i => (i + 10, 1) }
     SMap.get? x.credits 9 = none ∧ 256 ≤ x.credits.length ∧ x.state = .enabled ∧ ∀ y ∈ x.pool, recTaskId y.record ≠ 9) := by
  unfold HostReach
  refine ⟨?_, ⟨(fun o h => by cases h), by decide⟩, by decide⟩
  rintro r (rfl | rfl | rfl | rfl) <;> exact ⟨_, _, rfl, by decide, rfl, rfl, by decide, rfl, by decide, by decide⟩

theorem only_context (s : State) (h : ∀ e ∈ s.ctxs, e.2.state ≠ .empty → e.1 = 0) (k : Nat) (hk : (s.ctx k).state ≠ .empty) :
    k = 0 := by
  unfold State.ctx SMap.getD SMap.get? at hk
  cases hf : s.ctxs.find? fun e => e.1 == k with
  | none => rw [hf] at hk; exact absurd rfl hk
  | some e =>
    rw [hf] at hk
    have at_ : e.1 = k := by simpa using List.find?_some hf
    rw [← at_]
    exact h e (List.mem_of_find?_eq_some hf) hk

/-- The launch of the device, with a save region, in the way of a task of every core. -/
def inTheWay : State :=
  { pending63 { ring with eprio := 7, prio := 2, pre := true } (1 + 5 * 2 ^ 32 + 4 * 2 ^ 36) with
    saveb := 0x100_0000, savel := 0x1000 }

/-- The device once that launch has given way, and the task before is gone. -/
def givenWay : State :=
  { pending63 { ring with state := .disabled } 1 with
    ctxs := []
    launches := [(0, { loadLaunch with
      preempted := true, area := 0x100_0000, areaLen := 0x100_0000
      saved := [(0, { Context.loaded Context.empty with state := .saved, pos := 7 })] })]
    queues := [(0, { Queue.zero with state := .enabled, run := [{ loadTask with resume := some 0 }] })] }

set_option maxRecDepth 20000 in
theorem witness_LaunchesArePreEmpted :
    Ordered inTheWay.ctxs ∧ (∃ l kn area, SMap.get? inTheWay.launches 0 = some l ∧ SMap.get? inTheWay.kernels l.kernel = some kn ∧
      inTheWay.preempting 63 = some (headTask (1 + 5 * 2 ^ 32 + 4 * 2 ^ 36), (0, 0)) ∧ l.preempted = false ∧
      ((inTheWay.ctx 0).who.launch = 0 ∧ (inTheWay.ctx 0).state ≠ .empty ∧ coreOf 0 ∈ rectangle 5 4 (0, 0)) ∧
      ((∀ k, (inTheWay.ctx k).state ≠ .empty → k = 0) ∧ (inTheWay.ctx 0).who.inst < l.instances) ∧ (inTheWay.ctx 0).state ≠ .faulted ∧
      (inTheWay.queue l.queue).prio < (inTheWay.queue 63).prio ∧ inTheWay.saveRun (l.saveSize kn.hdr) = some area) ∧
    Ordered givenWay.ctxs ∧ ∃ l kn c hdr t p, SMap.get? givenWay.launches 0 = some l ∧
      SMap.get? givenWay.kernels l.kernel = some kn ∧ givenWay.chosen = some (0, .place t c hdr p) ∧ t.resume = some 0 ∧
      t.node = none ∧ l.lw ≤ 5 ∧ l.lh ≤ 4 ∧ p.1 + 2 ^ l.lw ≤ 32 ∧ (givenWay.emptyContexts 0)[0]? = some 0 ∧
      ∃ old, SMap.get? l.saved 0 = some old := by
  unfold Ordered
  refine ⟨by decide, ⟨_, _, 0x100_0000, rfl, rfl, by decide, rfl, by decide, ⟨only_context _ (by decide), by decide⟩,
    by decide, by decide, by decide⟩,
    by decide, ⟨_, _, 1, loadHeader, { loadTask with resume := some 0 }, (0, 0), rfl, rfl, by decide, rfl, rfl, by decide, by decide, by decide,
      by decide, _, rfl⟩⟩

/-- A command record at the head of queue 63, in an address space with eight plain pages from 2^36 on, with bytes in the first;
its completion record goes to byte 16 of the host window. -/
def commanding (type handle word1 : Nat) (bs : List Byte) : State :=
  let record := type + handle * 2 ^ 16 + word1 * 2 ^ 64 + 16 * 2 ^ 128 + 0x55 * 2 ^ 384
  let s := withBytes (withPages base (List.replicate 8 7)) 0x500000 bs
  { withLinkState s 0 .up with queues := [(63, { ring with head := 4, run := [headTask record] })], nextId := 21 }

/-- The task. -/
def commandTask (type handle word1 : Nat) : Task :=
  headTask (type + handle * 2 ^ 16 + word1 * 2 ^ 64 + 16 * 2 ^ 128 + 0x55 * 2 ^ 384)

/-- A kernel that is LOADING at an address. -/
def loadingAt (at_ header : Nat) (asid : Nat) : State :=
  let s := commanding 2 5 at_ (leBytes 128 header)
  { s with kernels := SMap.set s.kernels 5 { loadingKernel 63 (commandTask 2 5 at_) with asid := asid } }

/-- A header whose code ends 65,472 bytes beyond 2^32. -/
def farCode : Nat := loadHeader + 65536 * 2 ^ 192 + 65536 * 2 ^ 224 + (2 ^ 32 - 128) * 2 ^ 256

set_option maxRecDepth 20000 in
theorem witness_KernelsAreLoaded :
    (Chosen (commanding 2 5 (2 ^ 36) []) 63 2 (commandTask 2 5 (2 ^ 36)) ∧ recKernel (commandTask 2 5 (2 ^ 36)).record = 5 ∧
      SMap.get? (commanding 2 5 (2 ^ 36) []).kernels 5 = none) ∧
    (Chosen (commanding 2 0 (2 ^ 36) []) 63 2 (commandTask 2 0 (2 ^ 36)) ∧
      ∃ k, SMap.get? (commanding 2 0 (2 ^ 36) []).kernels 0 = some k) ∧
    (Chosen (commanding 3 4095 0 []) 63 3 (commandTask 3 4095 0) ∧ SMap.get? (commanding 3 4095 0 []).kernels 4095 = none) ∧
    (Chosen (commanding 3 0 0 []) 63 3 (commandTask 3 0 0) ∧
      ∃ k, SMap.get? (commanding 3 0 0 []).kernels 0 = some k ∧ k.state = .resident ∧ 0 < k.live) ∧
    (∃ k, SMap.get? (loadingAt (2 ^ 36) loadHeader 0).kernels 5 = some k ∧ k.state = .loading ∧ k.wait = none ∧
      k.captured = false ∧ HostReach (loadingAt (2 ^ 36) loadHeader 0) k.off 16 ∧
      spaceValid ((loadingAt (2 ^ 36) loadHeader 0).space k.asid) = true ∧ k.base % 65536 = 0 ∧
      ∃ x, (loadingAt (2 ^ 36) loadHeader 0).loadFetch k k.base 128 = .bytes x ∧
        ((loadingAt (2 ^ 36) loadHeader 0).mark noWho k.asid 0 [(k.base, 128)] false).imageChk { k with hdr := x, captured := true }
          = .ok) ∧
    (spaceValid ((loadingAt (2 ^ 36) loadHeader 9).space 9) = false ∧ (2 ^ 36 + 64) % 65536 ≠ 0) ∧
    (∃ k x r, SMap.get? (loadingAt (2 ^ 36) (loadHeader + 2 ^ 32) 0).kernels 5 = some k ∧
      (loadingAt (2 ^ 36) (loadHeader + 2 ^ 32) 0).loadFetch k k.base 128 = .bytes x ∧
      ((loadingAt (2 ^ 36) (loadHeader + 2 ^ 32) 0).mark noWho k.asid 0 [(k.base, 128)] false).imageChk
        { k with hdr := x, captured := true } = .fails r) ∧
    ((loadHeader + 1) % 2 ^ 32 ≠ 0x4B564B48 ∧ loadHeader % 2 ^ 32 = 0x4B564B48 ∧ (loadHeader + 2 ^ 32) / 2 ^ 32 % 2 ^ 16 ≠ 1 ∧
      hdrBad (loadHeader + 2 ^ 55) = true ∧ hdrBad loadHeader = false ∧
      hdrBad farCode = false ∧ farCode % 2 ^ 32 = 0x4B564B48 ∧ farCode / 2 ^ 32 % 2 ^ 16 = 1 ∧
      hdrCodeOff farCode + hdrCodeLen farCode = 2 ^ 32 + 65472) := by
  unfold Chosen HostReach
  refine ⟨by decide, ⟨by decide, _, rfl⟩, by decide, ⟨by decide, _, rfl, by decide, by decide⟩,
    ⟨_, rfl, by decide, by decide, by decide, by decide, by decide, by decide, _, rfl, by decide⟩, by decide,
    ⟨_, _, 2, rfl, rfl, by decide⟩, by decide⟩

/-- A sound header with a playbook in the page after it, and in the last byte of the image. -/
def booked (off : Nat) : Nat := loadHeader + off * 2 ^ 128

set_option maxRecDepth 20000 in
theorem witness_KernelsAreLoaded_playbooks :
    let k := { loadingKernel 63 (commandTask 2 5 (2 ^ 36)) with asid := 0 }
    let read := fun (us : List Upset) => ({ loadingAt (2 ^ 36) (booked 0x10000) 0 with upsets := us } : State).mark noWho 0 0
      [(2 ^ 36, 128)] false
    (headerReason (booked 0x10000) = none ∧ hdrPboff (booked 0x10000) ≠ 0 ∧ hdrPboff (booked 0x10000) + 256 ≤ 2 ^ 32) ∧
    (∃ y, (read []).loadFetch k (2 ^ 36 + 0x10000) 256 = .bytes y) ∧
    (read [⟨.phys, 0x5100FF, 8⟩]).loadFetch k (2 ^ 36 + 0x10000) 256 = .bad ⟨.phys, 0x5100FF, 8⟩ ∧
    hdrPboff loadHeader = 0 :=
  ⟨by decide, ⟨_, rfl⟩, by decide, by decide⟩

/-- A graph object of three nodes in a row, its queue 3. -/
def graphObject (edges : List (Nat × Nat)) : List Byte :=
  leBytes 64 (0x46524748 + 3 * 2 ^ 32 + 3 * 2 ^ 48 + edges.length * 2 ^ 64 + 16 * 2 ^ 128) ++ leBytes 64 0x14 ++ leBytes 64 1 ++
    leBytes 64 0x14 ++ edges.flatMap fun e => leBytes 4 (e.1 + 65536 * e.2)

/-- A graph at rest, or on its way, whose nodes stand at these. -/
def aGraph (state : GState) (preds status : List Nat) : Graph :=
  ⟨state, 0, 3, 16, 0x55, ((List.zip preds status).zipIdx.map fun x => (x.2, ⟨1, x.1.1, x.1.2, 0⟩)), [(0, 1), (1, 2)], none, false⟩

/-- That graph in the store under handle 7, with a patch table at 2^36. -/
def graphed (g : Graph) (bs : List Byte) : State := { commanding 5 7 0 bs with graphs := [(7, g)] }

/-- The upload of that object, its header and the whole of it. -/
def uploadOf (edges : List (Nat × Nat)) : State := commanding 4 7 (2 ^ 36) (graphObject edges)
def headerOf (edges : List (Nat × Nat)) : Nat := leNat ((graphObject edges).take 64)
def objectOf (edges : List (Nat × Nat)) : Nat := leNat (graphObject edges)

set_option maxRecDepth 20000 in
theorem witness_GraphsRun_uploads :
    (Chosen (uploadOf []) 63 4 (commandTask 4 7 (2 ^ 36)) ∧ recKernel (commandTask 4 7 (2 ^ 36)).record = 7 ∧
      (uploadOf []).uploading 63 = none ∧ SMap.get? (uploadOf []).graphs 7 = none ∧
      (∀ o ∈ (uploadOf []).ops, ∀ j y, o.kind = .upload j y → recKernel y.record ≠ 7) ∧
      (∀ o ∈ (uploadOf []).ops, o.id < (uploadOf []).nextId) ∧ spaceValid ((uploadOf []).space 0) = true) ∧
    ((uploadOf [(0, 1), (1, 2)]).spaceFetch 0 (2 ^ 36) 64 = .bytes (headerOf [(0, 1), (1, 2)]) ∧
      (uploadOf [(0, 1), (1, 2)]).graphHeader (headerOf [(0, 1), (1, 2)]) = none ∧
      (uploadOf [(0, 1), (1, 2)]).spaceFetch 0 (2 ^ 36) (64 + 64 * 3 + 4 * 2) = .bytes (objectOf [(0, 1), (1, 2)])) ∧
    (headerOf [(0, 1), (1, 2)] / 2 ^ 48 % 2 ^ 16 = 3 ∧ headerOf [(0, 1), (1, 2)] / 2 ^ 64 % 2 ^ 32 = 2) ∧
    graphReason (elems 512 3 (objectOf [(0, 1), (1, 2)] / 2 ^ 512)) (edgesOf 2 (objectOf [(0, 1), (1, 2)] / 2 ^ (512 + 512 * 3)))
      = none ∧
    graphReason (elems 512 3 (objectOf [(0, 1), (1, 0)] / 2 ^ 512)) (edgesOf 2 (objectOf [(0, 1), (1, 0)] / 2 ^ (512 + 512 * 3)))
      = some 7 ∧
    spaceValid ((uploadOf []).space 1) = false ∧ (uploadOf []).graphHeader (headerOf [] + 1) = some 1 := by
  unfold Chosen HostReach
  exact ⟨⟨by decide, by decide, by decide, by decide, of_empty (by decide), by decide, by decide⟩, by decide, by decide, by decide, by decide,
    by decide, by decide⟩

theorem witness_GraphsRun_busy : Chosen { uploadOf [] with graphs := [(7, aGraph .armed [] [])] } 63 4 (commandTask 4 7 (2 ^ 36)) ∧
    ∃ g, SMap.get? { uploadOf [] with graphs := [(7, aGraph .armed [] [])] }.graphs 7 = some g ∧ g.state = .armed := by
  unfold Chosen HostReach
  exact ⟨by decide, _, rfl, rfl⟩

set_option maxRecDepth 20000 in
theorem witness_GraphsRun_kicks :
    (Chosen (graphed (aGraph .complete [] []) []) 63 5 (commandTask 5 7 0) ∧ recKernel (commandTask 5 7 0).record = 7 ∧
      Chosen (commanding 5 7 0 []) 63 5 (commandTask 5 7 0) ∧ SMap.get? (commanding 5 7 0 []).graphs 7 = none) ∧
    ((aGraph .faulted [] []).state = .faulted ∧ (aGraph .faulted [] []).reported = false) ∧
    ((0x1000000007 : Word).toNat % 2 ^ 8 = 7 ∧
      (graphed (aGraph .complete [] []) (leBytes 16 1025)).spaceFetch 0 (2 ^ 36) 16 = .bytes 1025) ∧
    (let g := aGraph .uploaded [0, 1, 1] [0, 0, 0]
     (7 : Word).toNat % 2 ^ 56 / 2 ^ 8 = 0 ∧ ((graphed g []).queue g.queue).state = .disabled ∧
       ((armed g g.nodes).nodes.filter fun e => e.2.preds == 0).map (·.1) = [0]) ∧
    (let s := { graphed (aGraph .uploaded [0, 1, 1] [0, 0, 0]) [] with queues := [(3, { Queue.zero with state := .enabled })] }
     (s.queue 3).state ≠ .disabled ∧ [0].take (256 - ((s.queue 3).run.length + (s.queue 3).pool.length)) ≠ []) ∧
    (∀ patch, patch = leBytes 16 1 ++ leBytes 16 (2 + 8 * 2 ^ 16 + 80 * 2 ^ 64) ∨ patch = leBytes 16 1 ++ leBytes 16 3 ∨
        patch = leBytes 16 1 ++ leBytes 16 (1 + 24 * 2 ^ 16 + 2 ^ 84) →
      let g := aGraph .uploaded [0, 1, 1] [0, 0, 0]
      let s := graphed g patch
      ∃ head x, s.spaceFetch g.asid (2 ^ 36) 16 = .bytes head ∧ head % 2 ^ 64 ≤ 1024 ∧
        (s.mark noWho g.asid 0 [(2 ^ 36, 16)] false).spaceFetch g.asid (2 ^ 36) (16 + 16 * (head % 2 ^ 64)) = .bytes x ∧
        (patchBad (x % 2 ^ 64) g.nodes.length x = true ↔ patch = leBytes 16 1 ++ leBytes 16 3) ∧
        ((∃ e ∈ patched g.nodes (patchesOf (x % 2 ^ 64) x), nodeBad e.2.record = true) ↔
          patch = leBytes 16 1 ++ leBytes 16 (1 + 24 * 2 ^ 16 + 2 ^ 84)) ∧ (s.queue g.queue).state = .disabled) := by
  unfold Chosen HostReach
  refine ⟨by decide, by decide, by decide, by decide, by decide, ?_⟩
  rintro patch (rfl | rfl | rfl) <;>
    exact ⟨_, _, rfl, by decide, rfl, by decide, by decide, by decide⟩

set_option maxRecDepth 20000 in
theorem witness_GraphsRun_nodes :
    let busy := fun (d : Graph) => ∃ e ∈ d.nodes, e.2.status = 1 ∨ e.2.status = 2 ∨ 5 ≤ e.2.status
    let ready := fun (d : Graph) => ∃ e ∈ d.nodes, e.2.status = 0 ∧ e.2.preds = 0
    let failed := fun (g : Graph) (n : Nat) => { g with
      nodes := SMap.modify g.nodes n fun (x : Node) => { x with status := 4 }, state := GState.faulted, failed := some n }
    (let g := aGraph .running [0, 2, 1] [5, 0, 2]
     ∃ x, SMap.get? (graphed g []).graphs 7 = some g ∧ SMap.get? g.nodes 0 = some x ∧ x.status = 5 ∧ g.state = .running ∧
       g.failed = none ∧ g.reported = false ∧ ¬ready (nodeCompleted g 0) ∧
       busy (nodeCompleted g 0)) ∧
    (let g := aGraph .running [0, 0, 0] [3, 3, 5]
     ∃ x, SMap.get? g.nodes 2 = some x ∧ x.status = 5 ∧ (∀ e ∈ (nodeCompleted g 2).nodes, e.2.status = 3) ∧
       HostReach (graphed g []) g.off 16) ∧
    (let g := aGraph .running [0, 1, 0] [6, 0, 2]
     ∃ x, SMap.get? g.nodes 0 = some x ∧ x.status = 6 ∧ ¬ready (failed g 0) ∧ busy (failed g 0)) ∧
    (let g := aGraph .running [0, 1, 1] [6, 0, 0]
     ∃ x, SMap.get? g.nodes 0 = some x ∧ x.status = 6 ∧ ¬ready (failed g 0) ∧ ¬busy (failed g 0) ∧ HostReach (graphed g []) g.off 16) ∧
    (let g := aGraph .running [0, 0, 0] [6, 0, 3]
     let s := { graphed g [] with queues := [(3, { Queue.zero with run := List.replicate 256 (headTask 1) })] }
     ∃ x, SMap.get? g.nodes 0 = some x ∧ x.status = 6 ∧ ready (failed g 0) ∧ 256 ≤ (s.queue g.queue).waiting) := by
  unfold HostReach
  exact ⟨⟨_, rfl, rfl, rfl, rfl, rfl, rfl, by decide, by decide⟩, ⟨_, rfl, rfl, by decide, by decide⟩, ⟨_, rfl, rfl, by decide, by decide⟩,
    ⟨_, rfl, rfl, by decide, by decide, by decide⟩, _, rfl, rfl, by decide, by decide⟩

/-- A link in one of its states, with three retrains behind it or two, and seventeen failures or sixteen. -/
def linked (l : Nat) (st : LState) (allow : Bool) (retrains successive : Nat) : State :=
  { base with links := [(l, { Link.zero with
      state := st, allowdeg := allow, en := true, lanes := 4, retrains := retrains, successive := successive })] }

/-- A sound flit of a number, with a payload of 64 bytes. -/
def soundFlit (seq : Nat) (header payload : List Byte) : Flit := ⟨seq, header, payload, flitCrc header payload, 1⟩

theorem witness_LinksTrain_flits (seq : Nat) (header : List Byte) :
    let f := soundFlit seq header (List.replicate 64 7)
    f.payload.length = 64 ∧ f.crc = flitCrc f.header f.payload ∧ f.seq = seq :=
  ⟨List.length_replicate .., rfl, rfl⟩

/-- A link that keeps flit 4, whose replay its partner has asked for seventeen times. -/
def flitted : State :=
  { base with links := [(9, { Link.zero with
      state := .up, en := true, lanes := 8, sends := 5, retry := [soundFlit 4 [] (List.replicate 64 7)], asked := some (4, 17) })] }

theorem witness_LinksTrain : (∀ l, l = 0 ∨ l = 9 → l < 10 ∧ Quiet (linked l .up true 2 17) l) ∧
    (((linked 9 .down true 0 0).link 9).state = .down ∧ (1 : Word).toNat.testBit 0 = true) ∧
    (((linked 9 .fenced true 0 0).link 9).state ≠ .down ∧ (2 : Word).toNat.testBit 0 = false) ∧
    (((linked 9 .fenced true 2 0).link 9).state = .fenced ∧ (3 : Word).toNat.testBit 0 = true ∧ (3 : Word).toNat.testBit 1 = true ∧
      ((linked 9 .fenced true 2 0).link 9).en = true ∧ ((linked 9 .fenced true 2 0).link 9).retrains < 3) ∧
    (((linked 9 .training true 0 0).link 9).state = .training ∧ 7 < 8 ∧ 8 ≤ 2 * 4 ∧ ¬8 ≤ 2 * 3 ∧
      ((linked 9 .training true 0 0).link 9).allowdeg = true ∧ (linked 9 .training true 0 0).modesel.getLsbD 7 = true) ∧
    ((linked 9 .training false 0 0).link 9).allowdeg = false ∧ ((linked 0 .degraded true 0 0).link 0).state = .degraded ∧
    (((linked 0 .up true 0 17).link 0).state = .up ∧ 17 ≤ ((linked 0 .up true 0 17).link 0).successive ∧
      (linked 0 .up true 0 17).modesel.getLsbD 7 = true) ∧ ((linked 9 .fenced true 2 0).link 9).hw = true ∧
    (let x := flitted.link 9
     x.retry.length < 512 ∧ (List.replicate 64 (7 : Byte)).length = 64 ∧ (∃ g ∈ x.retry, g.seq = 4) ∧ x.asked = some (4, 17)) ∧
    0 = ((linked 9 .up true 0 0).link 9).expects ∧ 1 ≠ ((linked 9 .up true 0 0).link 9).expects := by
  refine ⟨?_, by decide, by decide, by decide, by decide, by decide, by decide, by decide, by decide,
    ⟨by decide, rfl, ⟨_, .head _, rfl⟩, rfl⟩,
    by decide⟩
  rintro l (rfl | rfl) <;> exact ⟨by decide, rfl, of_empty (by decide)⟩

/-- An access on link 0 in flight, of an instance or of the device, with an entry of an awaited result. -/
def ofLink (who : Option Who) (kind : OpKind) : Op := { sent kind with who := who, ports := [0] }

def onLink (who : Option Who) (kind : OpKind) : State :=
  { withOp (loading none) (ofLink who kind) with remote := Mem.write [] hostBase (leBytes 8 0xFFFFFFFF80000005) }

theorem onLink_alone (who : Option Who) (kind : OpKind) : (onLink who kind).opGet 5 = some (ofLink who kind) ∧
    NothingHeld (onLink who kind) 5 :=
  ⟨rfl, fun _ h ne => by cases List.mem_singleton.mp h; exact absurd rfl ne⟩

theorem onLink_sent (who : Option Who) (kind : OpKind) : (ofLink who kind).ports ≠ [] ∧ (ofLink who kind).wait = none ∧
    (onLink who kind).windowHeld (ofLink who kind) = false := by
  refine ⟨nofun, rfl, ?_⟩
  show List.any [ofLink who kind] _ = false
  simp [ofLink, sent]

/-- A write in flight to the device's own window, which reaches eight pages from 2^36 on. -/
def ownWriting : State :=
  { withOp (paged8 (loading none)) (ofLink (some me) (.sysWrite [(2 ^ 55 + 0x40000, [1, 2])])) with expb := 0x100000, expl := 8 }

set_option maxRecDepth 20000 in
theorem witness_LinkAccessesEnd :
    (∀ who kind, ((onLink who kind).opGet 5 = some (ofLink who kind) ∧ NothingHeld (onLink who kind) 5) ∧
      (ofLink who kind).ports ≠ [] ∧ (ofLink who kind).wait = none ∧ (onLink who kind).windowHeld (ofLink who kind) = false) ∧
    (onLink none (.hostWrite 0 [1] [])).hostHeld [] = false ∧
    ((ofLink (some { launch := 2 ^ 64 + 7, inst := 1 }) (.hostWrite 0 [1] [])).who = some { launch := 2 ^ 64 + 7, inst := 1 } ∧
      (onLink (some { launch := 2 ^ 64 + 7, inst := 1 }) (.hostWrite 0 [1] [])).hostHeld [] = false) ∧
    (me.launch < 2 ^ 64 ∧ inWindow (2 ^ 55 + 0x40000) = true) ∧
    ((∃ c, (onLink (some me) (.sysWrite [(hostBase, [1])])).whoCtx me = some c) ∧
      (onLink (some me) (.sysWrite [(hostBase, [1])])).ownWindow hostBase = none) ∧
    (2 ^ 32 - 1 < 2 ^ (8 * 4) ∧ ∀ f, (some 8 : Option Nat) = some f → f < 9) ∧
    (let s := onLink (some me) (.sysLoad [(hostBase, 8)] 1)
     s.ticketOf me = some 0 ∧ [(hostBase, 8)].head? = some (hostBase, 8) ∧ Untrapped { s.ctx 0 with
       inflight := (s.ctx 0).inflight.map (trapping 0 1 (Trap.mk 6 1 1 hostBase 0 0 0 false 0)) }) := by
  refine ⟨fun who kind => ⟨onLink_alone who kind, onLink_sent who kind⟩, by decide, ⟨rfl, by decide⟩, by decide,
    ⟨⟨_, rfl⟩, by decide⟩,
    ⟨by decide, ?_⟩, by decide, rfl, unsettled_untrapped rfl rfl⟩
  rintro f h
  cases h
  decide

set_option maxRecDepth 20000 in
theorem witness_LinkAccessesEnd_own :
    (ownWriting.opGet 5 = some (ofLink (some me) (.sysWrite [(2 ^ 55 + 0x40000, [1, 2])])) ∧ NothingHeld ownWriting 5) ∧
    ownWriting.ownWindow (2 ^ 55 + 0x40000) = some 0x40000 ∧ ownWriting.exportChk 0x40000 2 false true = .ok ∧
    Local ((ownWriting.mark noWho 0 0 [(2 ^ 36 + 0x40000, 2)] true).partsOf noWho 0 0 (2 ^ 36 + 0x40000) [1, 2]) ∧
    ownWriting.expb.toNat % 2 ^ 40 * 65536 + 0x40000 = 2 ^ 36 + 0x40000 ∧
    ownWriting.windowHeld (ofLink (some me) (.sysWrite [(2 ^ 55 + 0x40000, [1, 2])])) = false :=
  ⟨⟨rfl, fun _ h ne => by cases List.mem_singleton.mp h; exact absurd rfl ne⟩, by decide, by decide, phys_local (by decide),
    by decide, by decide⟩

/-- A device that exports eight pages of its address space 0 from 2^36 on, with a host link and a peer link in service. -/
def exporting : State :=
  withLinkState (withLinkState { withPages base [7, 7, 7, 7, 7, 0, 7, 7] with expb := BitVec.ofNat 64 (2 ^ 20), expl := 8 } 0 .up) 2
    .degraded

/-- The page of an access to the exported region is mapped. -/
def Mapped (off k : Nat) (r w : Bool) : Prop :=
  ∀ p ∈ pagesOf [(2 ^ 36 + off, k)], ∃ pa e level addr, exporting.page 0 0 p.2 r w false = .ok pa e level addr

theorem mapped_one {off k : Nat} {r w : Bool} {p : Nat × Nat} (one : pagesOf [(2 ^ 36 + off, k)] = [p])
    (h : ∃ pa e level addr, exporting.page 0 0 p.2 r w false = .ok pa e level addr) : Mapped off k r w :=
  fun q hq => by rw [one] at hq; cases List.mem_singleton.mp hq; exact h

/-- A request of device 3 by link 2. -/
def asking3 (off : Nat) (op : PeerOp) : PeerRequest := { link := 2, source := 3, off := off, op := op }

set_option maxRecDepth 20000 in
theorem witness_OthersReachMemory :
    let inside := fun (off k : Nat) => 0 < k ∧ off + k ≤ exporting.expl.toNat % 2 ^ 31 * 65536
    let m := fun (off k : Nat) (w : Bool) => exporting.mark noWho 0 0 [(2 ^ 36 + off, k)] w
    (exporting.expb.toNat / 2 ^ 48 = 0 ∧ exporting.expb.toNat % 2 ^ 40 * 65536 = 2 ^ 36) ∧
    ((exporting.link 2).state = .degraded ∧ (exporting.link 0).state = .up ∧ (exporting.link 9).state = .down ∧
      (2 ≤ 2 ∧ 2 < 10) ∧ exporting.ops = []) ∧
    (inside 0x7FFFE 2 ∧ Mapped 0x7FFFE 2 false true ∧ Local ((m 0x7FFFE 2 true).partsOf noWho 0 0 (2 ^ 36 + 0x7FFFE) [1, 2])) ∧
    (inside 0x7FFF8 8 ∧ Mapped 0x7FFF8 8 true false ∧ exporting.upsetOf noWho 0 0 [(2 ^ 36 + 0x7FFF8, 8)] = none) ∧
    (Mapped 0x7FFF8 8 true true ∧ (2 ^ 64 - 1 : Nat) < 2 ^ (8 * 8) ∧ (8 : Nat) < 9 ∧
      Local ((m 0x7FFF8 8 true).partsOf noWho 0 0 (2 ^ 36 + 0x7FFF8) (leBytes 8 5)) ∧ Local []) := by
  refine ⟨by decide, by decide, ⟨by decide, mapped_one (p := (2 ^ 20 + 7, 2 ^ 36 + 0x7FFFE)) rfl ⟨_, _, _, _, rfl⟩,
    phys_local (by decide)⟩, ⟨by decide, mapped_one (p := (2 ^ 20 + 7, 2 ^ 36 + 0x7FFF8)) rfl ⟨_, _, _, _, rfl⟩, by decide⟩,
    mapped_one (p := (2 ^ 20 + 7, 2 ^ 36 + 0x7FFF8)) rfl ⟨_, _, _, _, rfl⟩, by decide, by decide, phys_local (by decide), nofun⟩

set_option maxRecDepth 20000 in
theorem witness_OthersReachMemory_waits :
    exporting.pagesChk 0 0 6 false true [] (pagesOf [(2 ^ 36 + 0x50000, 1)]) = .wait [(2 ^ 20 + 5, 2 ^ 36 + 0x50000)] ∧
    { sent (.peer (asking3 0x50000 (.write [1]))) with denied := true, who := none }.denied = true ∧
    (2 ^ 52 - 1 + [(1 : Byte)].length ≤ 2 ^ 52 ∧ exporting.upsetIn .phys (2 ^ 52 - 1) 1 = none ∧
      2 ^ 52 < 2 ^ 52 + [(1 : Byte)].length) := by decide

/-- A sample of every sensor, of one die, the inlet, the input voltage and the average power. -/
def aSample (die inlet volts average : Nat) : Sample :=
  ⟨List.replicate 95 300 ++ [die], inlet, 0, volts, 0, List.replicate 14 0, average⟩

/-- The controller in a power state with its last sample. -/
def controlled1 (p : Power) (x : Option Sample) (restarting : Bool) : State :=
  managed base fun l => { l with power := p, sample := x, restarting := restarting }

set_option maxRecDepth 20000 in
theorem witness_PowerIsHeld_samples :
    ((aSample 0 0 0 0).dies.length = 96 ∧ (aSample 0 0 0 0).rails.length = 14) ∧
    (trips (aSample 460 0 5000 0) ∧ trips (aSample 0 0 4799 0) ∧ trips (aSample 0 0 5401 0)) ∧
    (¬trips (aSample 459 179 4800 0) ∧ ¬trips (aSample 380 160 5400 0)) ∧
    (heats (aSample 420 0 5000 0) ∧ heats (aSample 0 180 5000 0) ∧ ¬heats (aSample 419 179 5000 0)) ∧
    cools (aSample 380 160 5400 0) ∧ ¬cools (aSample 381 0 5000 0) := by
  unfold trips heats cools
  decide

set_option maxRecDepth 20000 in
theorem witness_PowerIsHeld :
    (∀ p restarting, (controlled1 p none restarting).lemant.power = p ∧
      (controlled1 p none restarting).lemant.restarting = restarting) ∧
    (let x := aSample 0 0 5000 6269
     (controlled1 .capped (some x) false).lemant.sample = some x ∧
       100 * x.average < 95 * (controlled1 .capped (some x) false).lemant.limit) ∧
    ∃ y, (controlled1 .trip (some (aSample 459 0 5000 0)) false).lemant.sample = some y ∧ ¬trips y := by
  unfold trips
  exact ⟨fun _ _ => ⟨rfl, rfl⟩, by decide, _, rfl, by decide⟩

theorem witness_TheControllerServes :
    (managed base fun l => { l with pending := true }).lemant.pending = true ∧
    ((managed base fun l => { l with pending := false, revert := true }).lemant.revert = true) ∧
    ((managed base fun l => { l with pending := false, revert := false }).lemant.revert = false) ∧
    ((managed base fun l => { l with confirmed := false, revert := false }).lemant.confirmed = false) ∧
    (255 < 256 ∧ 256 ≤ 256) := by decide

/-- Requests of the host's services that are sent, a queue with a fixture list, and an unmapping under way. -/
def managedBy (func : Nat) : State :=
  { paged8 base with
    services := [⟨8, func, false, 0, 2 ^ 36, 0, some 3, none, none⟩]
    unmap := BitVec.ofNat 64 (2 ^ 28 + 0x700 + 4) }

set_option maxRecDepth 20000 in
theorem witness_DeviceRegisters_host :
    (∃ r, (managedBy 5).asked ((3 * 2 ^ 32 : Word).toNat / 2 ^ 32) = some r ∧ r.func = 5) ∧
    (∃ r, (managedBy 3).asked ((3 * 2 ^ 32 : Word).toNat / 2 ^ 32) = some r ∧ r.func = 3 ∧ AllSent (managedBy 3)) ∧
    (managedBy 5).asked ((4 * 2 ^ 32 : Word).toNat / 2 ^ 32) = none ∧ base.unmap.getLsbD 2 = false ∧
    ((managedBy 5).unmap.getLsbD 2 = true ∧ ∃ e level addr, (managedBy 5).unmapLeaf (managedBy 5).unmap.toNat = some (e, level, addr) ∧
      e < 2 ^ 64 ∧ (managedBy 5).faulting = [] ∧ (managedBy 5).collapsing = []) := by
  unfold AllSent
  exact ⟨⟨_, rfl, rfl⟩, ⟨_, rfl, rfl, by decide⟩, by decide, by decide, by decide, 0x570007, 4, 0x240038, by decide⟩

theorem witness_DeviceRegisters_writes : (1 : Word).toNat % 8 = 1 ∧ (3 : Word).toNat % 8 = 3 ∧
    (∀ j, j < 8 → (base.link (j + 2)).state = .down) ∧ ¬(∀ j, j < 8 → ((linked 9 .up true 0 0).link (j + 2)).state = .down) ∧
    (3 : Nat) < 4 ∧ (63 : Nat) < 64 ∧ (∀ e ∈ base.graphs, e.2.queue ≠ 63) ∧
    ((9 : Nat) < 10 ∧ (1 : Word).toNat.testBit 0 = true ∧ (base.link 9).state = .down) ∧
    ((2 : Word).toNat.testBit 0 = false ∧ ((linked 9 .up true 0 0).link 9).state ≠ .down) ∧ (255 : Nat) < 256 := by decide

/-- A BLOCKED context and what it waits for. -/
def blocked (b : Block) : State :=
  { (popping.modCtx 0 fun c => { c with
      state := .blocked, block := some b
      queues := [(0, [{ Entry.reserved 0 1 0 with filled := true }, Entry.reserved 1 1 0]),
        (9, [{ Entry.reserved 0 1 0 with filled := true }])] }) with barriers := [(9, ⟨1, 0, 65535, 4, true, 8, 6⟩)] }.modCore 0
    fun x => { x with tokens := [⟨6, me, 1, false, 8, 12, none⟩] }

theorem witness_MetWaitsEnd : (∀ b, Ordered (blocked b).ctxs ∧ ((blocked b).ctx 0).state = .blocked ∧
      ((blocked b).ctx 0).block = some b) ∧
    Met (blocked (.loadq 0 1)) 0 (.loadq 0 1) ∧ ¬Met (blocked (.loadq 0 2)) 0 (.loadq 0 2) ∧
    Met (blocked (.result 9)) 0 (.result 9) ∧ Met (blocked (.tagAny 6)) 0 (.tagAny 6) ∧ ¬Met (blocked (.tagAll 6)) 0 (.tagAll 6) ∧
    Met (blocked (.barrier 9 false 0 4)) 0 (.barrier 9 false 0 4) ∧ Met (blocked (.group true 4)) 0 (.group true 4) ∧
    flipOf (blocked (.barrier 9 false 0 4)) ((blocked (.barrier 9 false 0 4)).ctx 0) (.barrier 9 false 0 4) = some (4, 6) ∧
    Met (blocked (.wake 64)) 0 (.wake 64) ∧ ¬Met (blocked .drain) 0 .drain ∧ (base.ctx 0).state ≠ .blocked ∧
    (Outstanding ((blocked (.tagAll 6)).ctx 0) 6 2 ∧ ∀ h, h < 2 → ¬Outstanding ((blocked (.tagAll 6)).ctx 0) 6 h) := by
  unfold Met Outstanding
  refine ⟨fun b => ⟨?_, rfl, rfl⟩, by decide, by decide, ⟨_, _, rfl, by decide⟩, ⟨1, by decide⟩, fun h => ?_, by decide, by decide, by decide,
    ⟨_, .head _, by decide⟩, nofun, by decide, by decide⟩
  · unfold Ordered
    exact List.pairwise_singleton ..
  · exact absurd (h 2 (by decide) (by decide)) (by decide)

/-- A context that is SAVED where it waits for a barrier that has flipped keeps the flip, and none that it has missed since. -/
theorem test_saved_context_keeps_flip :
    let s := blocked (.barrier 9 false 0 4)
    (keepsFlip s (s.ctx 0)).met = some (4, 6) ∧ (keepsFlip s { s.ctx 0 with met := some (4, 2) }).met = some (4, 2) ∧
      (keepsFlip s { s.ctx 0 with block := some (.barrier 9 true 0 4) }).met = (s.ctx 0).met := by decide

/-- A core whose one context is READY, as a step finds it and as it leaves it. -/
def readied : State := base.modCtx 0 fun c => { c with state := .ready }

theorem witness_StepsEnd : Ordered readied.ctxs ∧ (∀ e ∈ readied.launches, e.2.preempted = false) ∧
    SMap.get? (readied.afterStep readied).picks 0 = some 0 ∧ (∀ x, SMap.get? readied.picks 0 = some x → coreOf x = 0) ∧
    Ordered inTheWay.queues ∧ inTheWay.claims = [] ∧
      inTheWay.preempting 63 = some (headTask (1 + 5 * 2 ^ 32 + 4 * 2 ^ 36), (0, 0)) := by
  unfold Ordered
  exact ⟨by decide, by decide, by decide, nofun, by decide, by decide, by decide⟩

/-- The next state of an outcome. -/
def nextOf : Host.Outcome State Fault Refusal → State
  | .next t => t
  | _ => base

def isNext : Host.Outcome State Fault Refusal → Bool
  | .next _ => true
  | _ => false

theorem next_of {r : Host.Outcome State Fault Refusal} (h : isNext r = true) : r = .next (nextOf r) := by
  cases r with
  | next => rfl
  | fault => cases h
  | refused => cases h

/-- The device when ADD has dispatched, has executed, and has committed. -/
def added1 : State := nextOf (exec (.bundleDispatch 0) base)
def added2 : State := (nextOf (exec (.add 3 1 2) (focused added1 0 0 0))).takeTraps 0
def addBundle (p : Progress) : Bundle := { oneWord 0 0x00304200 p with hdr := 2 ^ 24 }

set_option maxRecDepth 20000 in
theorem witness_StepsRunTheirInstruction :
    (let s := { running base (addBundle .queued) with agenda := [.word 0 0] }
     Startable { s with agenda := [] } 0 0 (addBundle .queued) ⟨0, 0x00304200, .queued, none, none, []⟩ (.add 3 1 2) ∧
       ∃ t, exec (.add 3 1 2) (focused { s with agenda := [] } 0 0 0) = .next t) ∧
    (Instr.eventLogRead 4).space? = none ∧
    (base.agenda = [] ∧ coreOf 0 = coreOf base.focus.ticket ∧ (base.ctx 0).state = .running ∧
      (∀ j, j < 4 → 4 * coreOf 0 + j ≠ 0 → (base.ctx (4 * coreOf 0 + j)).state ≠ .running) ∧ (base.ctx 0).inflight = [] ∧
      firstDue (base.ctx 0).pos (base.ctx 0).pending = none ∧ exec (.bundleDispatch 0) base = .next added1 ∧
      (added1.ctx 0).inflight = [addBundle .queued] ∧ (added1.ctx 0).pos ≠ (base.ctx 0).pos ∧
      Startable added1 0 0 (addBundle .queued) ⟨0, 0x00304200, .queued, none, none, []⟩ (.add 3 1 2) ∧
      (∃ v, exec (.add 3 1 2) (focused added1 0 0 0) = .next v) ∧
      (added2.releaseBlocked.ctx 0).inflight = [addBundle .executed] ∧
      ∃ y, exec (.bundleCommit 0) added2.releaseBlocked = .next y ∧ (y.ctx 0).pos ≠ (base.ctx 0).pos) := by
  unfold Startable
  exact ⟨⟨by decide, _, next_of (by decide)⟩, by decide, by decide, by decide, by decide, by decide, by decide, by decide,
    next_of (by decide), by decide, by decide, by decide, ⟨_, next_of (by decide)⟩, by decide, _, next_of (by decide), by decide⟩

theorem witness_EncodingsDecode : (∃ (i : Instr) (sp : Space), i.space? = some sp ∧ i.wf = true) ∧
    ∃ (i : Instr) (sp : Space) (w : Nat), w < 2 ^ 32 ∧ decodeSpace sp w = .word i false :=
  ⟨⟨.add 3 1 2, .scl, by decide, by decide⟩, .add 3 1 2, .scl, 0x00304200, by decide, by decide⟩

set_option maxRecDepth 20000 in
theorem witness_MapsStayOrdered : OrderedDevice base ∧ ∃ t, Machine.step base = .next t := by
  unfold OrderedDevice Ordered
  exact ⟨by decide, _, next_of (by decide)⟩

set_option maxRecDepth 20000 in
theorem witness_MemoriesStayCanonical : SoundMemories base ∧ ∃ t, Machine.step base = .next t := by
  unfold SoundMemories SoundCore
  exact ⟨by decide, _, next_of (by decide)⟩

end Sys2Proof.Tests
end

section
/-!
PROOF. The words of the SCL and IDX slots: the values that their meanings compute are those that the statements name.
-/
namespace Sys2Proof.Machine

/-! ### How a word with a computed value completes -/

/-- A word that lands a scalar completes with any expression of its value. -/
theorem scalarResult_of_value {i : Instr} {s : State} {lat : Nat} {d : BitVec 6} {y x : Word}
    (h : exec i s = (s.setS lat d y).ok) (hy : y = x) : ScalarResult i s lat d x :=
  hy ▸ scalarResult_setS i s lat d y h

/-- A word that lands an index completes with any expression of its value. -/
theorem indexResult_of_value {i : Instr} {s : State} {lat : Nat} {d : BitVec 6} {y x : Index}
    (h : exec i s = (s.setI lat d y).ok) (hy : y = x) : IndexResult i s lat d x :=
  hy ▸ indexResult_setI i s lat d y h

/-- A word that lands a predicate completes with it. -/
theorem results_setP {i : Instr} {s : State} {lat d : Nat} {x : Pred} (h : exec i s = (s.setP lat d x).ok) :
    Results i s lat [(.p d, x.toNat)] := results_land i s lat (.p d x) h

/-! ### The signed and the unsigned reading -/

theorem reading_unsigned {n : Nat} (x : BitVec n) : reading 1 x = x.toNat := rfl

/-- A word read either way and taken back is itself. -/
theorem ofInt_reading (u : BitVec 1) {n : Nat} (x : BitVec n) : BitVec.ofInt n (reading u x) = x := by
  unfold reading
  split <;> simp

/-- Either reading tells words apart. -/
theorem reading_inj (u : BitVec 1) {n : Nat} {x y : BitVec n} : reading u x = reading u y ↔ x = y :=
  ⟨fun h => by rw [← ofInt_reading u x, h, ofInt_reading], fun h => h ▸ rfl⟩

/-- Zero reads as zero either way, and nothing else does. -/
theorem reading_eq_zero (u : BitVec 1) {n : Nat} {x : BitVec n} : reading u x = 0 ↔ x = 0 := by
  have h0 : reading u (0 : BitVec n) = 0 := by unfold reading; split <;> simp
  rw [← reading_inj u, h0]

/-! ### Shifts, products and quotients (R102 to R104) -/

theorem shiftKind_eq_shifted {n : Nat} (kind : Nat) (x : BitVec n) (k : Nat) : shiftKind kind x k = shifted kind x k := by
  have left : x <<< k = BitVec.ofNat n (x.toNat * 2 ^ k) :=
    BitVec.eq_of_toNat_eq (by simp [Nat.shiftLeft_eq])
  have right : ∀ j, x >>> j = BitVec.ofNat n (x.toNat / 2 ^ j) := fun j =>
    BitVec.eq_of_toNat_eq (by
      rw [BitVec.toNat_ushiftRight, Nat.shiftRight_eq_div_pow, BitVec.toNat_ofNat,
        Nat.mod_eq_of_lt (Nat.lt_of_le_of_lt (Nat.div_le_self _ _) x.isLt)])
  have floored : x.sshiftRight k = BitVec.ofInt n (x.toInt / 2 ^ k) := by
    rw [BitVec.sshiftRight, Int.shiftRight_eq_div_pow, Int.natCast_pow]
    rfl
  match kind with
  | 0 => exact left
  | 1 => exact right k
  | 2 => exact floored
  | m + 3 => simp [shiftKind, shifted, left, right]

/-- The low half of the product does not depend on the reading (R103). -/
theorem ofI_product (u : BitVec 1) (x y : Word) : ofI 64 (product u x y) = x * y := by
  rw [ofI, product, BitVec.ofInt_mul, ofInt_reading, ofInt_reading]

/-- The high half of a product of unsigned readings. -/
theorem ofI_product_high_unsigned (x y : Word) :
    ofI 64 (product 1 x y / 2 ^ 64) = BitVec.ofNat 64 (x.toNat * y.toNat / 2 ^ 64) := by
  rw [ofI, product, reading_unsigned, reading_unsigned, ← BitVec.ofInt_natCast, Int.natCast_ediv, Int.natCast_mul]
  rfl

/-- A quotient of readings is all ones for a zero divisor and rounded toward zero for any other. -/
theorem ofI_quotient (u : BitVec 1) (x y : Word) :
    ofI 64 (quotient (reading u x) (reading u y)) =
      if y = 0 then BitVec.allOnes 64 else BitVec.ofInt 64 ((reading u x).tdiv (reading u y)) := by
  by_cases hy : y = 0
  · rw [if_pos hy, quotient, (reading_eq_zero u).2 hy]
    rfl
  · rw [if_neg hy, quotient, if_neg (by simpa using mt (reading_eq_zero u).1 hy), ofI]

/-- A remainder of readings is the dividend for a zero divisor and that of the quotient toward zero for any other. -/
theorem ofI_remainder (u : BitVec 1) (x y : Word) :
    ofI 64 (remainder (reading u x) (reading u y)) =
      if y = 0 then x else BitVec.ofInt 64 ((reading u x).tmod (reading u y)) := by
  by_cases hy : y = 0
  · rw [if_pos hy, remainder, if_pos (by simpa using (reading_eq_zero u).2 hy), ofI, ofInt_reading]
  · have hz : ¬ (reading u y == 0) = true := by simpa using mt (reading_eq_zero u).1 hy
    rw [if_neg hy, remainder, if_neg hz, quotient, if_neg hz, ofI, Int.tmod_def, Int.mul_comm]

/-! ### Counts (R107) -/

theorem isClz_leadingZeros {n x : Nat} (h : x < 2 ^ n) : IsClz n x (leadingZeros n x) := by
  induction n with
  | zero => simp_all [IsClz, leadingZeros]
  | succ n ih =>
    have hp := Nat.two_pow_pos n
    rw [Nat.pow_succ] at h
    by_cases hx : 2 ^ n ≤ x
    · have hd : x / 2 ^ n = 1 := Nat.div_eq_of_lt_le (by omega) (by omega)
      have hz : x ≠ 0 := by omega
      simp [IsClz, leadingZeros, hd, hz, hx, Nat.pow_succ, h]
    · have hlt : x < 2 ^ n := by omega
      have hk : leadingZeros (n + 1) x = 1 + leadingZeros n x := by simp [leadingZeros, Nat.div_eq_of_lt hlt]
      have := ih hlt
      unfold IsClz at this ⊢
      rw [hk]
      split at this
      · rw [if_pos ‹_›]; omega
      · rw [if_neg ‹_›]
        rw [show n + 1 - 1 - (1 + leadingZeros n x) = n - 1 - leadingZeros n x by omega,
          show n + 1 - (1 + leadingZeros n x) = n - leadingZeros n x by omega]
        omega

theorem isCtz_trailingZeros {n x : Nat} (h : x < 2 ^ n) : IsCtz n x (trailingZeros n x) := by
  induction n generalizing x with
  | zero => simp_all [IsCtz, trailingZeros]
  | succ n ih =>
    by_cases hx : x % 2 = 1
    · have hz : x ≠ 0 := by omega
      simp [IsCtz, trailingZeros, hx, hz, Nat.mod_one]
    · have hk : trailingZeros (n + 1) x = 1 + trailingZeros n (x / 2) := by simp [trailingZeros, hx]
      have := ih (x := x / 2) (by rw [Nat.pow_succ] at h; omega)
      unfold IsCtz at this ⊢
      rw [hk]
      split at this
      · rw [if_pos (by omega)]; omega
      · obtain ⟨hlt, hmod, hbit⟩ := this
        rw [if_neg (by omega), Nat.pow_add, Nat.pow_one, Nat.mod_mul, ← Nat.div_div_eq_div_mul, hmod]
        exact ⟨by omega, by omega, hbit⟩

/-- A count of bits is the number of indices at which they are set. -/
theorem popcount_eq_length (n x : Nat) : popcount n x = ((List.range n).filter fun j => x.testBit j).length := by
  induction n generalizing x with
  | zero => rfl
  | succ n ih =>
    have hrest : (fun j => x.testBit j) ∘ Nat.succ = fun j => (x / 2).testBit j := by
      funext j
      simp [Nat.testBit_succ]
    rw [popcount, ih, List.range_succ_eq_map, List.filter_cons, List.filter_map, hrest]
    by_cases h0 : x % 2 = 1
    · simp [Nat.testBit_zero, h0, Nat.add_comm]
    · simp [Nat.testBit_zero, h0]
      omega

theorem popcount_toNat {n : Nat} (x : BitVec n) : popcount n x.toNat = ones x := popcount_eq_length n x.toNat

/-! ### Selection and immediates (R106, R110) -/

/-- Bit 0 of a predicate, as the statements read it. -/
theorem rp_getLsbD_zero (s : State) (p : Nat) :
    (s.rp p).getLsbD 0 = true ↔ regRead s.cur s.focus.pos (.p p) % 2 = 1 := by
  show (s.rp p).toNat.testBit 0 = true ↔ (s.rp p).toNat % 2 = 1
  simp [Nat.testBit_zero]

/-- A word with a quarter replaced holds the new bits there and its own elsewhere. -/
theorem getLsbD_setQuarter (x : Word) (q : BitVec 2) (v : BitVec 16) {k : Nat} (hk : k < 64) :
    (setQuarter x q.toNat v).getLsbD k = if k / 16 = q.toNat then v.getLsbD (k % 16) else x.getLsbD k := by
  have hmask : (0xFFFF : Word) = BitVec.setWidth 64 (BitVec.allOnes 16) := by decide
  simp only [setQuarter, hmask, BitVec.getLsbD_or, BitVec.getLsbD_and, BitVec.getLsbD_not, BitVec.getLsbD_shiftLeft,
    BitVec.getLsbD_setWidth, BitVec.getLsbD_allOnes, hk]
  rcases Nat.lt_trichotomy (k / 16) q.toNat with h | h | h
  · have hb : k < 16 * q.toNat := by omega
    simp [hb, Nat.ne_of_lt h]
  · have hb : ¬ k < 16 * q.toNat := by omega
    have hin : k - 16 * q.toNat < 16 := by omega
    have hmod : k % 16 = k - 16 * q.toNat := by omega
    have h64 : k - 16 * q.toNat < 64 := by omega
    simp [hb, h, hin, hmod, h64]
  · have hb : ¬ k < 16 * q.toNat := by omega
    have hout : ¬ k - 16 * q.toNat < 16 := by omega
    have hv : v.getLsbD (k - 16 * q.toNat) = false := BitVec.getLsbD_of_ge _ _ (by omega)
    simp [hb, Nat.ne_of_gt h, hout, hv]

/-! ### The SCL slot -/

theorem scalarSumsAndLogic : ScalarSumsAndLogic := by
  intro s d a b
  refine ⟨?_, ?_, ?_, ?_, ?_, ?_⟩ <;> exact scalarResult_setS _ _ _ _ _ rfl

theorem scalarShifts : ScalarShifts := by
  intro s d a b kind n
  refine ⟨?_, ?_, ?_, ?_, ?_⟩ <;> exact scalarResult_of_value rfl (shiftKind_eq_shifted _ _ _)

theorem scalarProductsAndQuotients : ScalarProductsAndQuotients := by
  intro s d a b
  exact ⟨fun u => scalarResult_of_value rfl (ofI_product u _ _),
    scalarResult_setS _ _ _ _ _ rfl,
    scalarResult_of_value rfl (ofI_product_high_unsigned _ _),
    scalarResult_of_value rfl (ofI_quotient 0 _ _),
    scalarResult_of_value rfl (ofI_quotient 1 _ _),
    scalarResult_of_value rfl (ofI_remainder 0 _ _),
    scalarResult_of_value rfl (ofI_remainder 1 _ _)⟩

theorem scalarComparesAndCounts : ScalarComparesAndCounts := by
  intro s d a b p
  refine ⟨?min, ?minu, ?max, ?maxu, ?slt, ?sltu, ?seq, ?sel,
    ⟨_, isClz_leadingZeros (s.rs a).isLt, scalarResult_setS _ _ _ _ _ rfl⟩,
    ⟨_, isCtz_trailingZeros (s.rs a).isLt, scalarResult_setS _ _ _ _ _ rfl⟩,
    scalarResult_of_value rfl (congrArg _ (popcount_toNat _))⟩
  case min => exact scalarResult_setS _ _ _ _ _ rfl
  case max => exact scalarResult_setS _ _ _ _ _ rfl
  case slt => exact scalarResult_setS _ _ _ _ _ rfl
  case minu => exact scalarResult_of_value rfl (by simp only [reading_unsigned, Int.ofNat_le])
  case maxu => exact scalarResult_of_value rfl (by simp only [reading_unsigned, Int.ofNat_le, ge_iff_le])
  case sltu => exact scalarResult_of_value rfl (by simp only [reading_unsigned, Int.ofNat_lt])
  case seq => exact scalarResult_of_value rfl (by simp)
  case sel => exact scalarResult_of_value rfl (by simp only [rp_getLsbD_zero])

theorem scalarImmediates : ScalarImmediates := by
  intro s d a i j q v
  exact ⟨scalarResult_setS _ _ _ _ _ rfl, scalarResult_setS _ _ _ _ _ rfl,
    scalarResult_of_value rfl (by simp), scalarResult_of_value rfl (by simp),
    scalarResult_setS _ _ _ _ _ rfl, scalarResult_setS _ _ _ _ _ rfl,
    _, scalarResult_setS _ _ _ _ _ rfl, fun k hk => getLsbD_setQuarter _ _ _ hk⟩

/-- Settles O1: each word lands the value of its meaning, which the lemmas above bring into the form of its rule. -/
theorem scalarArithmetic : Obligations.ScalarArithmetic :=
  ⟨scalarSumsAndLogic, scalarShifts, scalarProductsAndQuotients, scalarComparesAndCounts, scalarImmediates⟩

end Sys2Proof.Machine
end

section
/-!
PROOF. The words of the IDX slot: indices, the survivors, the hash, cursors and predicates.
-/
namespace Sys2Proof.Machine

/-! ### Indices (R129 to R135) -/

/-- One round of the hash: a number and its upper part, exclusive or. -/
theorem xor_div_toNat (h : Index) (k : Nat) : Nat.xor h.toNat (h.toNat / 2 ^ k) = (h ^^^ h >>> k).toNat := by
  rw [BitVec.toNat_xor, BitVec.toNat_ushiftRight, Nat.shiftRight_eq_div_pow]
  rfl

theorem mul_mod_toNat (h : Index) (c : Nat) : h.toNat * c % 2 ^ 32 = (h * BitVec.ofNat 32 c).toNat := by
  rw [BitVec.toNat_mul, BitVec.toNat_ofNat, Nat.mul_mod_mod]

/-- The hash of R46, computed on numbers, is that computed on words. -/
theorem hash32_toNat (x seed : Index) : hash32 x.toNat seed.toNat = (mixed x seed).toNat := by
  have start : Nat.xor (x.toNat % 2 ^ 32) (seed.toNat % 2 ^ 32) = (x ^^^ seed).toNat := by
    rw [Nat.mod_eq_of_lt x.isLt, Nat.mod_eq_of_lt seed.isLt, BitVec.toNat_xor]
    rfl
  simp only [hash32, mixed, start, xor_div_toNat, mul_mod_toNat, BitVec.ofNat_eq_ofNat]

/-- The packed slot of a token: the survivors below it, where it is one itself (R134). -/
theorem survivor_toNat (bitmap : Vec) (position : Nat) :
    BitVec.ofNat 32 (survivor bitmap.toNat position) =
      if bitmap.getLsbD (position % 256) then
        BitVec.ofNat 32 ((List.range (position % 256)).filter fun j => bitmap.getLsbD j).length
      else 0xFFFFFFFF := by
  have hbit : (bitmap.toNat / 2 ^ (position % 256) % 2 == 1) = bitmap.getLsbD (position % 256) := by
    rw [BitVec.getLsbD, Nat.testBit_eq_decide_div_mod_eq]
    rfl
  rw [survivor, hbit, popcount_eq_length]
  split <;> rfl

/-- A pair of cursors after one step: neither half carries into the other (R132). -/
theorem cursors_toNat (pair x y : Index) :
    (cursors pair x y).toNat =
      (if y.toNat ≤ x.toNat then (pair.toNat / 2 ^ 16 + 1) % 2 ^ 16 else pair.toNat / 2 ^ 16) * 2 ^ 16 +
        (if x.toNat ≤ y.toNat then (pair.toNat % 2 ^ 16 + 1) % 2 ^ 16 else pair.toNat % 2 ^ 16) := by
  have hp := pair.isLt
  rw [cursors, BitVec.toNat_ofNat, Nat.mod_eq_of_lt]
  split <;> split <;> omega

/-! ### Predicates (R132, R136, R137) -/

theorem predOf_toNat {b : Bool} {c : Prop} [Decidable c] (h : b = true ↔ c) : (predOf b).toNat = allOrNone c := by
  by_cases hc : c
  · rw [h.2 hc, allOrNone, if_pos hc]
    rfl
  · rw [Bool.eq_false_iff.2 (mt h.1 hc), allOrNone, if_neg hc]
    rfl

/-- ICMP completes with all ones or all zeros by its condition on the readings of its sources. -/
theorem results_icmp {s : State} {d a b : BitVec 6} {u : BitVec 1} {k : BitVec 2} {c : Prop} [Decidable c]
    (h : indexCond k.toNat (reading u (s.ri a.toNat)) (reading u (s.ri b.toNat)) = true ↔ c) :
    Results (.icmp d a b u k) s 1 [(.p d.toNat, allOrNone c)] :=
  predOf_toNat h ▸ results_setP rfl

/-- The conditions of R136 on signed and unsigned readings of one width. -/
theorem indexCond_eq (u : BitVec 1) {n : Nat} (x y : BitVec n) : indexCond 0 (reading u x) (reading u y) = true ↔ x = y := by
  simp only [indexCond, decide_eq_true_eq, reading_inj]

theorem indexCond_ne (u : BitVec 1) {n : Nat} (x y : BitVec n) : indexCond 1 (reading u x) (reading u y) = true ↔ x ≠ y := by
  simp only [indexCond, decide_eq_true_eq, ne_eq, reading_inj]

/-- The predicate of the first bytes that a number counts (R137). -/
theorem getLsbD_firstBytes (n : Nat) {j : Nat} (hj : j < 128) :
    (BitVec.ofNat 128 (2 ^ min n 128 - 1)).getLsbD j = decide (j < n) := by
  rw [BitVec.getLsbD_ofNat, Nat.testBit_two_pow_sub_one, decide_eq_true hj, Bool.true_and]
  simp only [Nat.lt_min, hj, and_true]

/-! ### The IDX slot -/

theorem indexArithmetic : IndexArithmetic := by
  intro s d a b i k n
  refine ⟨?iadd, ?isub, ?iaddi, ?ishi, ?iand, ?ior, ?imin, ?iminu, ?imax, ?imaxu⟩
  case ishi => exact indexResult_of_value rfl (shiftKind_eq_shifted _ _ _)
  case iminu => exact indexResult_of_value rfl (by simp only [reading_unsigned, Int.ofNat_le])
  case imaxu => exact indexResult_of_value rfl (by simp only [reading_unsigned, Int.ofNat_le, ge_iff_le])
  all_goals exact indexResult_setI _ _ _ _ _ rfl

theorem movesCountsAndHash : MovesCountsAndHash := by
  intro s d a b
  exact ⟨indexResult_of_value rfl (BitVec.ofNat_toNat _ _).symm,
    scalarResult_setS _ _ _ _ _ rfl,
    scalarResult_of_value rfl (BitVec.ofNat_toNat _ _).symm,
    indexResult_of_value rfl (congrArg _ (popcount_toNat _)),
    indexResult_of_value rfl (congrArg _ (popcount_toNat _)),
    indexResult_of_value rfl (survivor_toNat _ _),
    indexResult_of_value rfl (by rw [hash32_toNat, BitVec.ofNat_toNat, BitVec.setWidth_eq])⟩

theorem compareAndAdvance : CompareAndAdvance := by
  intro s d a b p x y ca cb
  refine ⟨?icad, results_icmp (indexCond_eq 0 _ _), results_icmp (indexCond_ne 0 _ _),
    results_icmp decide_eq_true_iff, results_icmp decide_eq_true_iff,
    results_icmp (indexCond_eq 1 _ _), results_icmp (indexCond_ne 1 _ _),
    results_icmp ?ltu, results_icmp ?geu⟩
  case icad =>
    have hpred : (predOf (x == y)).toNat = allOrNone (x = y) := predOf_toNat beq_iff_eq
    rw [← cursors_toNat, ← hpred]
    exact results_land2 _ s 1 (.i d.toNat _) (.p p.toNat _) Reg.noConfusion rfl
  case ltu => exact decide_eq_true_iff.trans Int.ofNat_lt
  case geu => exact decide_eq_true_iff.trans Int.ofNat_le

theorem predicateLogic : PredicateLogic := by
  intro s d a b
  exact ⟨results_setP rfl, results_setP rfl, results_setP rfl, results_setP rfl, results_setP rfl,
    _, results_setP rfl, fun j hj => getLsbD_firstBytes _ hj⟩

/-- Settles O6: each word lands the value of its meaning, which the lemmas above bring into the form of its rule. -/
theorem indexAndPredicateWords : Obligations.IndexAndPredicateWords :=
  ⟨indexArithmetic, movesCountsAndHash, compareAndAdvance, predicateLogic⟩

end Sys2Proof.Machine
end

section
/-!
PROOF. The integer element words of the VEC slots, its compares and its selection.
-/
namespace Sys2Proof.Machine

/-! ### Numbers taken into an element -/

theorem wrap_natCast (e x : Nat) : wrap e (x : Int) = x % 2 ^ e := by
  rw [wrap, ← Int.natCast_emod, Int.toNat_natCast]

theorem wrap_lt (e : Nat) (z : Int) : wrap e z < 2 ^ e := by
  have hp : (0 : Int) < (2 ^ e : Nat) := Int.ofNat_lt.2 (Nat.two_pow_pos e)
  exact (Int.toNat_lt' (Nat.two_pow_pos e)).2 (Int.emod_lt_of_pos z hp)

theorem natCast_ite (c : Prop) [Decidable c] (x y : Nat) :
    ((if c then x else y : Nat) : Int) = if c then (x : Int) else y := apply_ite _ _ _ _

/-- A number already taken into an element is itself there. -/
theorem wrap_mod (e : Nat) (z : Int) : wrap e z % 2 ^ e = wrap e z := Nat.mod_eq_of_lt (wrap_lt e z)

/-- Numbers computed by a natural operation whose result is cut to the element (R25). -/
theorem mod_mod_eq_wrap {e n : Nat} {z : Int} (h : (n : Int) = z) : n % 2 ^ e % 2 ^ e = wrap e z := by
  rw [← h, wrap_natCast, Nat.mod_mod]

/-- Numbers computed by a natural operation that leaves the cut to the element to its landing. -/
theorem mod_eq_wrap {e n : Nat} {z : Int} (h : (n : Int) = z) : n % 2 ^ e = wrap e z := by
  rw [← h, wrap_natCast]

theorem two_mul_half {e : Nat} (he : 0 < e) : 2 * (2 : Int) ^ (e - 1) = 2 ^ e := by
  rw [← Int.pow_succ', Nat.sub_add_cancel he]

/-- The widths of Table 3-5 divide the widest of them, and so every window. -/
theorem elemBits_dvd (t : Nat) : elemBits t ∣ 64 := by
  unfold elemBits
  split <;> decide

theorem elemBits_dvd_window (t w : Nat) : elemBits t ∣ 256 * 2 ^ w :=
  Nat.dvd_trans (elemBits_dvd t) (Nat.dvd_trans (by decide : 64 ∣ 256) (Nat.dvd_mul_right _ _))

theorem eight_dvd_elemBits (t : Nat) : 8 ∣ elemBits t := by
  unfold elemBits
  split <;> decide

theorem elemBits_pos (t : Nat) : 0 < elemBits t := by
  unfold elemBits
  split <;> decide

/-- Saturation to a signed element, as the statements bound it. -/
theorem satInt_signed (e : Nat) (z : Int) : satInt e false z = clamp (-2 ^ (e - 1)) (2 ^ (e - 1) - 1) z := by
  simp [satInt, clamp]

/-- Saturation to an unsigned element. -/
theorem satInt_unsigned {e : Nat} (he : 0 < e) (z : Int) : satInt e true z = clamp 0 (2 * 2 ^ (e - 1) - 1) z := by
  simp [satInt, clamp, two_mul_half he]

theorem satBits_signed (e : Nat) (z : Int) :
    satBits e false z % 2 ^ e = wrap e (clamp (-2 ^ (e - 1)) (2 ^ (e - 1) - 1) z) := by
  rw [satBits, wrap_mod, satInt_signed]

theorem satBits_unsigned {e : Nat} (he : 0 < e) (z : Int) :
    satBits e true z % 2 ^ e = wrap e (clamp 0 (2 * 2 ^ (e - 1) - 1) z) := by
  rw [satBits, wrap_mod, satInt_unsigned he]

/-- The shifts and rotations of the model are those of R145 and R146. -/
theorem shiftElem_eq_wrap {kind e x k : Nat} (hk : kind ≤ 3) :
    shiftElem kind e x k % 2 ^ e = wrap e (shiftedElem kind e x k) := by
  match kind, hk with
  | 0, _ => exact mod_mod_eq_wrap (by simp [shiftedElem])
  | 1, _ => exact mod_eq_wrap (by simp [shiftElem, shiftedElem])
  | 2, _ => simp [shiftElem, shiftedElem, wrap_mod]
  | 3, _ =>
    have h : shiftedElem 3 e x k = ((x * 2 ^ k % 2 ^ e + x / 2 ^ (e - k) : Nat) : Int) := by simp [shiftedElem]
    rw [h, wrap_natCast]
    simp [shiftElem]

/-! ### Sources, windows and predicates -/

theorem window_le_vector {w : BitVec 2} (hw : w.toNat ≤ 2) : 256 * 2 ^ w.toNat ≤ 1024 :=
  Nat.mul_le_mul_left 256 (Nat.pow_le_pow_right (by decide) hw)

@[simp] theorem velems_length (s : State) (k : Nat) (r : BitVec 6) (e W : Nat) : (s.velems k r e W).length = W / e :=
  elems_length _ _ _

theorem velems_getD (s : State) (k : Nat) (r : BitVec 6) {e W j : Nat} (hj : j < W / e) :
    (s.velems k r e W).getD j 0 = elem e (source s k r) j := elems_getD _ _ _ _ hj

/-- A predicated word of two sources completes with the elements that its operation gives (R138 to R142). -/
theorem elementwise_of_vmap2 {i : Instr} {s : State} {lat : Nat} {d a b : BitVec 6} {p : BitVec 3} {w e : Nat}
    {g : Nat → Nat → Nat} {f : Nat → Int} (hw : w ≤ 2) (h : exec i s = s.vmap2 lat d a b p w e g)
    (hf : ∀ j, g (elem e (source s 0 a) j) (elem e (source s 1 b) j) % 2 ^ e = wrap e (f j)) :
    Elementwise i s lat d false (s.rp p.toNat) e (256 * 2 ^ w) f :=
  elementwise_vmap2 i s lat d a b p w e g f hw hf h

/-- A predicated word of one source completes with the elements that its operation gives. -/
theorem elementwise_of_vmap1 {i : Instr} {s : State} {lat : Nat} {d a : BitVec 6} {z : Bool} {p : BitVec 3} {w e : Nat}
    {g : Nat → Nat} {f : Nat → Int} (hw : w ≤ 2) (h : exec i s = s.vmap1 lat d a z p w e g)
    (hf : ∀ j, g (elem e (source s 0 a) j) % 2 ^ e = wrap e (f j)) :
    Elementwise i s lat d z (s.rp p.toNat) e (256 * 2 ^ w) f :=
  elementwise_vmap1 i s lat d a z p w e g f hw hf h

/-- A word that ends with joined elements completes with them (R139). -/
theorem windowed_of_vwindow {i : Instr} {s : State} {lat : Nat} {d : BitVec 6} {e : Nat} {w : BitVec 2} {xs : List Nat}
    {f : Nat → Int} (hw : w.toNat ≤ 2) (h : exec i s = (s.vwindow lat d (windowBits w.toNat) (joined e xs)).ok)
    (hx : ∀ j, j < windowBits w.toNat / e → xs.getD j 0 % 2 ^ e = wrap e (f j)) :
    Windowed i s lat d e (256 * 2 ^ w.toNat) f :=
  windowed_vwindow i s lat d e _ xs f (window_le_vector hw) hx h

/-- A word of elements whose predicate is set throughout its window completes with every element. -/
theorem windowed_of_elementwise {i : Instr} {s : State} {lat : Nat} {d : BitVec 6} {z : Bool} {p : Pred} {e W : Nat}
    {f : Nat → Int} (hp : ∀ j, j < W / e → p.getLsbD (j * e / 8) = true) (h : Elementwise i s lat d z p e W f) :
    Windowed i s lat d e W f := by
  obtain ⟨x, hres, helem⟩ := h
  exact ⟨x, hres, fun j hj => by rw [helem j hj, if_pos (hp j hj)]⟩

/-- An element below the upper end of a vector has its first byte among those of a predicate. -/
theorem firstByte_lt {e W j : Nat} (hW : W ≤ 1024) (hj : j < W / e) (he : 0 < e) : j * e / 8 < 128 := by
  have h : (j + 1) * e ≤ W := (Nat.le_div_iff_mul_le he).1 hj
  rw [Nat.succ_mul] at h
  omega

/-- p0 is set throughout (R21). -/
theorem rp_zero_getLsbD (s : State) {k : Nat} (hk : k < 128) : (s.rp (0 : BitVec 3).toNat).getLsbD k = true := by
  show (BitVec.allOnes 128).getLsbD k = true
  rw [BitVec.getLsbD_allOnes, decide_eq_true hk]

/-! ### Table 6-2 -/

theorem vectorIntegerElements : VectorIntegerElements := by
  intro s d a b p w t hw _ e W half x y sx sy Put
  have he : 0 < e := elemBits_pos _
  refine ⟨?vadd, ?vsub, ?vadds, ?vaddsn, ?vsubs, ?vsubsn, ?vmul, ?vmulh, ?vmin, ?vmax, ?vminn, ?vmaxn⟩
  case vadd => exact elementwise_of_vmap2 hw rfl fun j => mod_mod_eq_wrap (Int.natCast_add _ _)
  case vsub => exact elementwise_of_vmap2 hw rfl fun j => wrap_mod _ _
  case vadds => exact elementwise_of_vmap2 hw rfl fun j => satBits_signed _ _
  case vaddsn => exact elementwise_of_vmap2 hw rfl fun j => satBits_unsigned he _
  case vsubs => exact elementwise_of_vmap2 hw rfl fun j => satBits_signed _ _
  case vsubsn => exact elementwise_of_vmap2 hw rfl fun j => satBits_unsigned he _
  case vmul => exact elementwise_of_vmap2 hw rfl fun j => mod_mod_eq_wrap (Int.natCast_mul _ _)
  case vmulh =>
    have hdiv : 2 * half = ((2 ^ e : Nat) : Int) := (two_mul_half he).trans (by simp)
    exact elementwise_of_vmap2 hw rfl fun j => by rw [wrap_mod, hdiv]
  case vmin => exact elementwise_of_vmap2 hw rfl fun j => mod_eq_wrap (natCast_ite _ _ _)
  case vmax => exact elementwise_of_vmap2 hw rfl fun j => mod_eq_wrap (natCast_ite _ _ _)
  case vminn => exact elementwise_of_vmap2 hw rfl fun j => mod_eq_wrap (natCast_ite _ _ _)
  case vmaxn =>
    exact elementwise_of_vmap2 hw rfl fun j => mod_eq_wrap (by rw [Nat.max_comm, Nat.max_def]; exact natCast_ite _ _ _)

theorem vectorBitwiseElements : VectorBitwiseElements := by
  intro s d a b p w t hw e W x y
  refine ⟨?_, ?_, ?_⟩ <;> exact elementwise_of_vmap2 hw rfl fun j => mod_eq_wrap rfl

/-! ### Shifts (R145, R146) -/

theorem vectorShifts : VectorShifts := by
  intro s d a b n p k w t hw _ e W x y Put
  refine ⟨?vshl, ?vshr, ?vsra, fun _ hk => ?vshi⟩
  case vshl => exact elementwise_of_vmap2 hw rfl fun j => shiftElem_eq_wrap (by decide)
  case vshr => exact elementwise_of_vmap2 hw rfl fun j => shiftElem_eq_wrap (by decide)
  case vsra => exact elementwise_of_vmap2 hw rfl fun j => shiftElem_eq_wrap (by decide)
  case vshi =>
    refine windowed_of_elementwise (z := false) (p := s.rp (0 : BitVec 3).toNat) (fun j hj => ?_) ?_
    · exact rp_zero_getLsbD s (firstByte_lt (window_le_vector hw) hj (elemBits_pos _))
    · exact elementwise_of_vmap1 hw rfl fun j => shiftElem_eq_wrap hk

/-! ### Compares (R147, R150) -/

/-- A number built from the powers of two that a condition selects has just those bits. -/
theorem testBit_foldl_add_two_pow (f : Nat → Bool) (n k : Nat) :
    ((List.range n).foldl (fun x k => if f k then x + 2 ^ k else x) 0).testBit k = (decide (k < n) && f k) := by
  suffices h : ((List.range n).foldl (fun x k => if f k then x + 2 ^ k else x) 0) < 2 ^ n ∧ ∀ k,
      ((List.range n).foldl (fun x k => if f k then x + 2 ^ k else x) 0).testBit k = (decide (k < n) && f k) from h.2 k
  induction n with
  | zero => simp
  | succ n ih =>
    obtain ⟨hlt, hbits⟩ := ih
    rw [List.range_succ, List.foldl_append, List.foldl_cons, List.foldl_nil]
    generalize (List.range n).foldl (fun x k => if f k then x + 2 ^ k else x) 0 = x at hlt hbits ⊢
    cases hf : f n with
    | false =>
      refine ⟨by simpa using Nat.lt_trans hlt (Nat.pow_lt_pow_right (by decide) (Nat.lt_succ_self n)), fun k => ?_⟩
      rcases Nat.lt_trichotomy k n with h | rfl | h
      · simp [hbits, h, Nat.lt_succ_of_lt h]
      · simp [hbits, hf]
      · simp [hbits, show ¬ k < n by omega, show ¬ k < n + 1 by omega]
    | true =>
      refine ⟨by rw [if_pos rfl, Nat.pow_succ]; omega, fun k => ?_⟩
      rw [if_pos rfl, Nat.add_comm, ← Nat.mul_one (2 ^ n), Nat.testBit_two_pow_mul_add _ hlt]
      rcases Nat.lt_trichotomy k n with h | rfl | h
      · simp [hbits, h, Nat.lt_succ_of_lt h]
      · simp [hf]
      · have h1 : Nat.testBit 1 (k - n) = false := Nat.testBit_lt_two_pow (Nat.one_lt_two_pow (by omega))
        simp [show ¬ k < n by omega, show ¬ k < n + 1 by omega, h1]

/-- A compare's predicate holds the condition of each active element in all its bytes and the old bits elsewhere. -/
theorem getLsbD_setPred (p old : Pred) (e : Nat) (cs : List Bool) {k : Nat} (hk : k < 128) :
    (setPred p old e cs).getLsbD k =
      if k / (e / 8) < cs.length ∧ active p e (k / (e / 8)) = true then cs.getD (k / (e / 8)) false else old.getLsbD k := by
  simp only [setPred, BitVec.getLsbD_ofNat, testBit_foldl_add_two_pow, hk, decide_true, Bool.true_and]
  by_cases hj : k / (e / 8) < cs.length
  · simp [hj]
  · simp [hj]

/-- The byte k of a window belongs to one of its elements exactly when it is one of its bytes. -/
theorem byte_in_window_iff {e W k : Nat} (he : 0 < e) (h8 : 8 ∣ e) (hW : e ∣ W) : k / (e / 8) < W / e ↔ k < W / 8 := by
  obtain ⟨m, rfl⟩ := h8
  obtain ⟨n, rfl⟩ := hW
  rw [Nat.mul_div_cancel_left _ he, Nat.mul_div_cancel_left _ (by decide), Nat.mul_assoc,
    Nat.mul_div_cancel_left _ (by decide), Nat.div_lt_iff_lt_mul (by omega), Nat.mul_comm]

/-- A word that compares elements completes with the predicate of their conditions. -/
theorem compares_of_vcompare {i : Instr} {s : State} {lat : Nat} {d p : BitVec 3} {a b : BitVec 6} {w t : Nat}
    {f : Nat → Nat → Bool} {cond : Nat → Prop} (h : exec i s = s.vcompare lat d a b p w (elemBits t) f)
    (hf : ∀ j, f (elem (elemBits t) (source s 0 a) j) (elem (elemBits t) (source s 1 b) j) = true ↔ cond j) :
    Compares i s lat d p (elemBits t) (256 * 2 ^ w) cond := by
  refine ⟨_, results_setP h, fun k hk => ?_⟩
  have hin := byte_in_window_iff (k := k) (elemBits_pos t) (eight_dvd_elemBits t) (elemBits_dvd_window t w)
  rw [getLsbD_setPred _ _ _ _ hk]
  simp only [List.length_zipWith, velems_length, Nat.min_self, windowBits, hin, active]
  by_cases ha : k < 256 * 2 ^ w / 8 ∧ (s.rp p.toNat).getLsbD (k / (elemBits t / 8) * elemBits t / 8) = true
  · have hj := hin.2 ha.1
    rw [if_pos ha, if_pos ha, ← hf, ← velems_getD s 0 a hj, ← velems_getD s 1 b hj]
    simp [List.getD_eq_getElem?_getD, hj]
  · rw [if_neg ha, if_neg ha]

theorem elemCond_iff {c e x y : Nat} (hc : c ≤ 5) : elemCond c e x y = true ↔ elementsMeet c e x y := by
  match c, hc with
  | 0, _ | 1, _ | 2, _ | 3, _ | 4, _ | 5, _ => simp [elemCond, elementsMeet]

/-! ### Selection (R148) -/

theorem choose_getD (bs : List Bool) (xs ys : List Nat) (j : Nat) (hb : j < bs.length) (hx : j < xs.length)
    (hy : j < ys.length) : (choose bs xs ys).getD j 0 = if bs.getD j false then xs.getD j 0 else ys.getD j 0 := by
  induction bs generalizing xs ys j with
  | nil => simp at hb
  | cons b bs ih =>
    match xs, ys, j with
    | x :: xs, y :: ys, 0 => simp [choose]
    | x :: xs, y :: ys, j + 1 =>
      simpa [choose] using ih xs ys j (by simpa using hb) (by simpa using hx) (by simpa using hy)

theorem vectorComparesAndSelection : VectorComparesAndSelection := by
  intro s c dp d a b p w t hw e W x y
  refine ⟨fun _ hc => ?vcmp, fun _ _ _ => ?vfcmp, ?vsel⟩
  case vcmp => exact compares_of_vcompare rfl fun j => elemCond_iff hc
  case vfcmp => exact compares_of_vcompare rfl fun j => Iff.rfl
  case vsel =>
    refine windowed_of_vwindow hw rfl fun j hj => ?_
    rw [choose_getD _ _ _ _ (by simpa using hj) (by simpa using hj) (by simpa using hj), actives_getD _ _ _ _ hj,
      velems_getD _ _ _ hj, velems_getD _ _ _ hj]
    exact mod_eq_wrap (natCast_ite _ _ _)

/-- Settles O7: the function of each word on numbers, cut to the element, is the function of Table 6-2. -/
theorem vectorIntegers : Obligations.VectorIntegers :=
  ⟨vectorIntegerElements, vectorBitwiseElements, vectorShifts, vectorComparesAndSelection⟩

end Sys2Proof.Machine
end

section
/-!
PROOF. The words that move elements: permutations, arrangements, slides and single elements.
-/
namespace Sys2Proof.Machine

/-! ### Lists that enumerate numbers -/

/-- A list is the numbers x 0, …, x (n − 1). -/
def Enumerates (xs : List Nat) (n : Nat) (x : Nat → Nat) : Prop := xs.length = n ∧ ∀ j, j < n → xs.getD j 0 = x j

theorem enumerates_elems (e n x : Nat) : Enumerates (elems e n x) n (elem e x) :=
  ⟨elems_length e n x, fun _ => elems_getD e n x _⟩

theorem enumerates_velems (s : State) (k : Nat) (r : BitVec 6) (e W : Nat) :
    Enumerates (s.velems k r e W) (W / e) (elem e (source s k r)) := enumerates_elems _ _ _

section
variable {xs ys : List Nat} {n m : Nat} {x y : Nat → Nat}

theorem Enumerates.congr (h : Enumerates xs n x) (hxy : ∀ j, j < n → x j = y j) : Enumerates xs n y :=
  ⟨h.1, fun j hj => (h.2 j hj).trans (hxy j hj)⟩

theorem Enumerates.take (h : Enumerates xs n x) (hm : m ≤ n) : Enumerates (xs.take m) m x := by
  refine ⟨by simp [h.1, hm], fun j hj => ?_⟩
  rw [← h.2 j (Nat.lt_of_lt_of_le hj hm)]
  simp [List.getD_eq_getElem?_getD, hj]

theorem Enumerates.drop (h : Enumerates xs n x) (m : Nat) : Enumerates (xs.drop m) (n - m) fun j => x (m + j) := by
  refine ⟨by simp [h.1], fun j hj => ?_⟩
  show _ = x (m + j)
  rw [← h.2 (m + j) (by omega)]
  simp [List.getD_eq_getElem?_getD]

theorem Enumerates.map (h : Enumerates xs n x) (f : Nat → Nat) : Enumerates (xs.map f) n fun j => f (x j) := by
  refine ⟨by simp [h.1], fun j hj => ?_⟩
  rw [map_getD f xs j (h.1.symm ▸ hj), h.2 j hj]

theorem Enumerates.zipWith (hx : Enumerates xs n x) (hy : Enumerates ys n y) (f : Nat → Nat → Nat) :
    Enumerates (xs.zipWith f ys) n fun j => f (x j) (y j) := by
  refine ⟨by simp [hx.1, hy.1], fun j hj => ?_⟩
  rw [zipWith_getD f xs ys j (hx.1.symm ▸ hj) (hy.1.symm ▸ hj), hx.2 j hj, hy.2 j hj]

theorem Enumerates.append (hx : Enumerates xs n x) (hy : Enumerates ys m y) :
    Enumerates (xs ++ ys) (n + m) fun j => if j < n then x j else y (j - n) := by
  obtain ⟨hn, hx⟩ := hx
  obtain ⟨hm, hy⟩ := hy
  refine ⟨by simp [hn, hm], fun j hj => ?_⟩
  show _ = if j < n then x j else y (j - n)
  split
  · rw [← hx j ‹_›, List.getD_eq_getElem?_getD, List.getElem?_append_left (by omega), ← List.getD_eq_getElem?_getD]
  · rw [← hy (j - n) (by omega), List.getD_eq_getElem?_getD, List.getElem?_append_right (by omega), hn,
      ← List.getD_eq_getElem?_getD]

theorem Enumerates.reverse (h : Enumerates xs n x) : Enumerates xs.reverse n fun j => x (n - 1 - j) := by
  refine ⟨by simp [h.1], fun j hj => ?_⟩
  show _ = x (n - 1 - j)
  rw [← h.2 (n - 1 - j) (by omega), List.getD_eq_getElem?_getD, List.getElem?_reverse (h.1.symm ▸ hj), h.1,
    List.getD_eq_getElem?_getD]

/-- A list with one of its numbers replaced, where a condition holds. -/
theorem Enumerates.set_ite (h : Enumerates xs n x) (c : Bool) (k v : Nat) :
    Enumerates (if c then xs.set k v else xs) n fun j => if j = k ∧ c = true then v else x j := by
  cases c with
  | false => exact h.congr fun j _ => (if_neg (by simp)).symm
  | true =>
    refine ⟨by simp [h.1], fun j hj => ?_⟩
    by_cases hk : j = k
    · subst hk
      simp [List.getD_eq_getElem?_getD, h.1, hj]
    · simp [List.getD_eq_getElem?_getD, List.getElem?_set_ne (Ne.symm hk), hk, ← h.2 j hj]

/-- A list read at any place: outside it stand zeros. -/
theorem Enumerates.getD_eq_ite (h : Enumerates xs n x) (j : Nat) : xs.getD j 0 = if j < n then x j else 0 := by
  split
  · exact h.2 j ‹_›
  · rw [List.getD_eq_getElem?_getD, List.getElem?_eq_none (by rw [h.1]; omega), Option.getD_none]

end

/-- A word that ends with the elements of a list completes with them (R139). -/
theorem windowed_of_enumerates {i : Instr} {s : State} {lat : Nat} {d : BitVec 6} {e : Nat} {w : BitVec 2} {xs : List Nat}
    {x : Nat → Nat} {f : Nat → Int} (hw : w.toNat ≤ 2)
    (h : exec i s = (s.vwindow lat d (windowBits w.toNat) (joined e xs)).ok)
    (hx : Enumerates xs (windowBits w.toNat / e) x) (hf : ∀ j, j < windowBits w.toNat / e → x j % 2 ^ e = wrap e (f j)) :
    Windowed i s lat d e (256 * 2 ^ w.toNat) f :=
  windowed_of_vwindow hw h fun j hj => (hx.2 j hj).symm ▸ hf j hj

/-- A word that lands the elements of a list under a predicate completes with them (R139, R141). -/
theorem elementwise_of_enumerates {i : Instr} {s : State} {lat : Nat} {d : BitVec 6} {z : Bool} {p : Pred} {e : Nat}
    {w : BitVec 2} {xs : List Nat} {x : Nat → Nat} {f : Nat → Int} (hw : w.toNat ≤ 2)
    (h : exec i s = (s.vput lat d z p e (windowBits w.toNat) xs).ok)
    (hx : Enumerates xs (windowBits w.toNat / e) x) (hf : ∀ j, j < windowBits w.toNat / e → x j % 2 ^ e = wrap e (f j)) :
    Elementwise i s lat d z p e (256 * 2 ^ w.toNat) f :=
  elementwise_vput i s lat d z p e _ xs f (window_le_vector hw) hx.1 (fun j hj => (hx.2 j hj).symm ▸ hf j hj) h

/-! ### The arrangements of Table 6-5 -/

theorem interleave_length {xs ys : List Nat} (h : xs.length = ys.length) : (interleave xs ys).length = 2 * xs.length := by
  induction xs generalizing ys with
  | nil => rfl
  | cons x xs ih =>
    match ys with
    | y :: ys =>
      simp only [interleave, List.length_cons, ih (ys := ys) (by simpa using h)]
      omega

theorem interleave_getD {xs ys : List Nat} (h : xs.length = ys.length) (j : Nat) :
    (interleave xs ys).getD j 0 = if j % 2 = 0 then xs.getD (j / 2) 0 else ys.getD (j / 2) 0 := by
  induction xs generalizing ys j with
  | nil => simp [interleave, List.eq_nil_of_length_eq_zero h.symm]
  | cons x xs ih =>
    match ys, j with
    | y :: ys, 0 => simp [interleave]
    | y :: ys, 1 => simp [interleave]
    | y :: ys, j + 2 => simpa [interleave] using ih (by simpa using h) j

theorem evens_length (xs : List Nat) : (evens xs).length = (xs.length + 1) / 2 := by
  induction xs using evens.induct with
  | case1 x y rest ih => simp only [evens, List.length_cons, ih]; omega
  | case2 x => simp [evens]
  | case3 => simp [evens]

theorem evens_getD (xs : List Nat) (j : Nat) : (evens xs).getD j 0 = xs.getD (2 * j) 0 := by
  induction xs using evens.induct generalizing j with
  | case1 x y rest ih =>
    cases j with
    | zero => simp [evens]
    | succ j => simpa [evens, Nat.mul_succ] using ih j
  | case2 x => cases j <;> simp [evens]
  | case3 => simp [evens]

section
variable {xs ys : List Nat} {n h : Nat} {x y : Nat → Nat}

theorem Enumerates.interleave (hx : Enumerates xs h x) (hy : Enumerates ys h y) :
    Enumerates (interleave xs ys) (2 * h) fun j => if j % 2 = 0 then x (j / 2) else y (j / 2) := by
  have hl : xs.length = ys.length := hx.1.trans hy.1.symm
  refine ⟨by rw [interleave_length hl, hx.1], fun j hj => ?_⟩
  rw [interleave_getD hl, hx.2 (j / 2) (by omega), hy.2 (j / 2) (by omega)]

theorem Enumerates.evens (hx : Enumerates xs n x) : Enumerates (evens xs) ((n + 1) / 2) fun j => x (2 * j) :=
  ⟨by rw [evens_length, hx.1], fun j hj => by rw [evens_getD, hx.2 (2 * j) (by omega)]⟩

theorem enumerates_shuffle_low (hx : Enumerates xs (2 * h) x) (hy : Enumerates ys (2 * h) y) :
    Enumerates (shuffle 0 xs ys) (2 * h) fun j => if j % 2 = 0 then x (j / 2) else y (j / 2) := by
  have hh : xs.length / 2 = h := by rw [hx.1]; omega
  simp only [shuffle, hh]
  exact (hx.take (by omega)).interleave (hy.take (by omega))

theorem enumerates_shuffle_high (hx : Enumerates xs (2 * h) x) (hy : Enumerates ys (2 * h) y) :
    Enumerates (shuffle 1 xs ys) (2 * h) fun j => if j % 2 = 0 then x (h + j / 2) else y (h + j / 2) := by
  have hh : xs.length / 2 = h := by rw [hx.1]; omega
  have hr : 2 * h - h = h := by omega
  simp only [shuffle, hh]
  exact Enumerates.interleave (hr ▸ hx.drop h) (hr ▸ hy.drop h)

theorem enumerates_shuffle_even (hx : Enumerates xs (2 * h) x) (hy : Enumerates ys (2 * h) y) :
    Enumerates (shuffle 2 xs ys) (2 * h) fun j => if j < h then x (2 * j) else y (2 * (j - h)) := by
  have hh : (2 * h + 1) / 2 = h := by omega
  have h2 := hx.evens.append hy.evens
  rwa [hh, ← Nat.two_mul] at h2

theorem enumerates_shuffle_odd (hx : Enumerates xs (2 * h) x) (hy : Enumerates ys (2 * h) y) (hpos : 0 < h) :
    Enumerates (shuffle 3 xs ys) (2 * h) fun j => if j < h then x (2 * j + 1) else y (2 * (j - h) + 1) := by
  have hh : (2 * h - 1 + 1) / 2 = h := by omega
  have h2 := (hx.drop 1).evens.append (hy.drop 1).evens
  simp only [hh, ← Nat.two_mul, Nat.add_comm 1] at h2
  exact h2

end

/-- VSHUF completes with the elements of its arrangement. -/
theorem windowed_vshuf {s : State} {d a b : BitVec 6} {k : BitVec 3} {w : BitVec 2} {t : BitVec 3} {n : Nat} {x : Nat → Nat}
    {f : Nat → Int} (hw : w.toNat ≤ 2) (hn : windowBits w.toNat / elemBits t.toNat = n)
    (hx : Enumerates (shuffle k.toNat (s.velems 0 a (elemBits t.toNat) (windowBits w.toNat))
      (s.velems 1 b (elemBits t.toNat) (windowBits w.toNat))) n x) (hf : ∀ j, (x j : Int) = f j) :
    Windowed (.vshuf d a b k w t) s 3 d (elemBits t.toNat) (256 * 2 ^ w.toNat) f :=
  windowed_of_enumerates hw rfl (hn ▸ hx) fun j _ => mod_eq_wrap (hf j)

/-! ### Slides (R158) -/

/-- The element that a slide by an offset finds: the source's, or zero outside its window. -/
theorem slide_getD {xs : List Nat} {n : Nat} {x : Nat → Nat} (h : Enumerates xs n x) (z : Int) :
    ((if z < 0 then 0 else xs.getD z.toNat 0 : Nat) : Int) = if 0 ≤ z ∧ z < n then (x z.toNat : Int) else 0 := by
  rw [h.getD_eq_ite]
  by_cases h0 : z < 0
  · rw [if_pos h0, if_neg (by omega)]
    rfl
  · rw [if_neg h0]
    by_cases h1 : z.toNat < n
    · rw [if_pos h1, if_pos (by omega)]
    · rw [if_neg h1, if_neg (by omega)]
      rfl

theorem enumerates_range_map (f : Nat → Nat) (n : Nat) : Enumerates ((List.range n).map f) n f :=
  ⟨by simp, fun j hj => by simp [List.getD_eq_getElem?_getD, hj]⟩

theorem enumerates_replicate (n v : Nat) : Enumerates (List.replicate n v) n fun _ => v :=
  ⟨by simp, fun j hj => by simp [List.getD_eq_getElem?_getD, hj]⟩

/-! ### Counts of elements -/

/-- A window holds an even number of elements, of whatever type. -/
theorem two_dvd_count (t w : Nat) : 2 ∣ 256 * 2 ^ w / elemBits t := by
  have h : elemBits t * 2 ∣ 256 * 2 ^ w :=
    Nat.dvd_trans (Nat.mul_dvd_mul_right (elemBits_dvd t) 2)
      (Nat.dvd_trans (by decide : 64 * 2 ∣ 256) (Nat.dvd_mul_right _ _))
  exact Nat.dvd_div_of_mul_dvd h

theorem count_pos (t w : Nat) : 0 < 256 * 2 ^ w / elemBits t :=
  Nat.div_pos (Nat.le_of_dvd (Nat.mul_pos (by decide) (Nat.two_pow_pos w)) (elemBits_dvd_window t w)) (elemBits_pos t)

/-- Settles O10: each word's list of elements enumerates the elements that its rule names. -/
theorem vectorMovement : Obligations.VectorMovement := by
  intro s d a b p w t hw e W n h x y k
  have hn : W / e = 2 * h := (Nat.mul_div_cancel' (two_dvd_count t.toNat w.toNat)).symm
  have hpos : 0 < n := count_pos t.toNat w.toNat
  have xs : Enumerates (s.velems 0 a e W) n x := enumerates_velems s 0 a e W
  have ys : Enumerates (s.velems 1 b e W) n y := enumerates_velems s 1 b e W
  have xs2 : Enumerates (s.velems 0 a e W) (2 * h) x := hn ▸ xs
  have ys2 : Enumerates (s.velems 1 b e W) (2 * h) y := hn ▸ ys
  have old : Enumerates (elems e n (s.vold d)) n (elem e (s.vold d)) := enumerates_elems _ _ _
  refine ⟨?vperm, ?low, ?high, ?even, ?odd, ?reverse, fun z => ?vbcast, ?vslide, fun _ => ?vins, ?vext⟩
  case vperm =>
    exact elementwise_of_enumerates hw rfl (ys.map _) fun j _ =>
      mod_eq_wrap ((congrArg _ (xs.getD_eq_ite _)).trans (natCast_ite _ _ _))
  case low => exact windowed_vshuf hw hn (enumerates_shuffle_low xs2 ys2) fun j => natCast_ite _ _ _
  case high => exact windowed_vshuf hw hn (enumerates_shuffle_high xs2 ys2) fun j => natCast_ite _ _ _
  case even => exact windowed_vshuf hw hn (enumerates_shuffle_even xs2 ys2) fun j => natCast_ite _ _ _
  case odd => exact windowed_vshuf hw hn (enumerates_shuffle_odd xs2 ys2 (by omega)) fun j => natCast_ite _ _ _
  case reverse => exact windowed_vshuf hw rfl xs.reverse fun j => rfl
  case vbcast =>
    exact elementwise_of_enumerates hw rfl (enumerates_replicate _ _) fun j _ => mod_mod_eq_wrap rfl
  case vslide =>
    exact elementwise_of_enumerates hw rfl (enumerates_range_map _ _) fun j _ => mod_eq_wrap (slide_getD xs _)
  case vins =>
    refine windowed_of_enumerates hw rfl (old.set_ite _ _ _) fun j _ => ?_
    split
    · exact (mod_mod_eq_wrap rfl).trans (congrArg _ (if_pos ‹_›).symm)
    · exact (mod_eq_wrap rfl).trans (congrArg _ (if_neg ‹_›).symm)
  case vext =>
    exact scalarResult_of_value rfl (congrArg
      (fun v => if t.toNat ≤ 3 then BitVec.ofInt 64 (sext v e) else BitVec.ofNat 64 v) (xs.2 k (Nat.mod_lt _ hpos)))

end Sys2Proof.Machine
end

section
/-!
PROOF. The words of four-bit codes, signatures, bytes, hashes and counts.
-/
namespace Sys2Proof.Machine

/-! ### Four-bit codes (R162 to R164) -/

/-- Two windows of bytes, or the codes of one window by halves, are as many elements as a window has codes. -/
theorem codes_count (w : Nat) : windowBits w / 8 + windowBits w / 8 = windowBits w / 4 := by
  rw [windowBits]
  omega

theorem packCode_int (x : Nat) : packCode 0 x % 2 ^ 4 = wrap 4 (clamp (-8) 7 (sext x 8)) := by
  show wrap 4 (satInt 4 false (sext x 8)) % 2 ^ 4 = _
  rw [wrap_mod, satInt_signed]
  rfl

/-- VPACK4 completes with the codes of the bytes of its sources, those of A first. -/
theorem windowed_vpack4 {s : State} {d a b : BitVec 6} {w : BitVec 2} {t : BitVec 3} {f : Nat → Int} (hw : w.toNat ≤ 2)
    (hf : ∀ j, packCode t.toNat (if j < windowBits w.toNat / 8 then elem 8 (source s 0 a) j
      else elem 8 (source s 1 b) (j - windowBits w.toNat / 8)) % 2 ^ 4 = wrap 4 (f j)) :
    Windowed (.vpack4 d a b w t) s 3 d 4 (256 * 2 ^ w.toNat) f :=
  windowed_of_enumerates hw rfl
    (codes_count w.toNat ▸ ((enumerates_velems s 0 a 8 _).append (enumerates_velems s 1 b 8 _)).map _) fun j _ => hf j

/-- The codes in one half of a window of a source. -/
theorem enumerates_half (s : State) (k : Nat) (r : BitVec 6) (h : BitVec 1) (w : Nat) :
    Enumerates (((s.velems k r 4 (windowBits w)).drop (h.toNat * (windowBits w / 8))).take (windowBits w / 8))
      (windowBits w / 8) fun j => elem 4 (source s k r) (h.toNat * (windowBits w / 8) + j) := by
  refine ((enumerates_velems s k r 4 _).drop _).take ?_
  have hc := codes_count w
  rcases Nat.le_one_iff_eq_zero_or_eq_one.1 (Nat.lt_succ_iff.1 h.isLt) with h0 | h1
  · rw [h0]; omega
  · rw [h1]; omega

/-- VUNPK4 completes with the bytes of the codes of a half of its source. -/
theorem windowed_vunpk4 {s : State} {d a : BitVec 6} {h : BitVec 1} {w : BitVec 2} {t : BitVec 3} {f : Nat → Int}
    (hw : w.toNat ≤ 2)
    (hf : ∀ j, unpackCode t.toNat (elem 4 (source s 0 a) (h.toNat * (windowBits w.toNat / 8) + j)) % 2 ^ 8 = wrap 8 (f j)) :
    Windowed (.vunpk4 d a h w t) s 3 d 8 (256 * 2 ^ w.toNat) f :=
  windowed_of_enumerates hw rfl ((enumerates_half s 0 a h w.toNat).map _) fun j _ => hf j

/-! ### Signatures (R165) -/

theorem testBit_joined_one (xs : List Nat) (i : Nat) : (joined 1 xs).testBit i = (xs.getD i 0).testBit 0 := by
  have h : elem 1 (joined 1 xs) i = xs.getD i 0 % 2 ^ 1 := elem_joined 1 xs i
  rw [elem, Nat.one_mul, Nat.pow_one] at h
  rw [Nat.testBit_eq_decide_div_mod_eq, Nat.testBit_zero, h]

/-- A number with n of its bits replaced, from bit `lo` on. -/
theorem testBit_replaced {old new lo n : Nat} (h : new < 2 ^ n) (m : Nat) :
    (old / 2 ^ (lo + n) * 2 ^ (lo + n) + new * 2 ^ lo + old % 2 ^ lo).testBit m =
      if lo ≤ m ∧ m < lo + n then new.testBit (m - lo) else old.testBit m := by
  have hlow := Nat.mod_lt old (Nat.two_pow_pos lo)
  have hmid : 2 ^ lo * new + old % 2 ^ lo < 2 ^ (lo + n) := by
    calc 2 ^ lo * new + old % 2 ^ lo < 2 ^ lo * (new + 1) := by rw [Nat.mul_succ]; omega
      _ ≤ 2 ^ lo * 2 ^ n := Nat.mul_le_mul_left _ h
      _ = 2 ^ (lo + n) := (Nat.pow_add ..).symm
  rw [Nat.add_assoc, Nat.mul_comm, Nat.mul_comm new, Nat.testBit_two_pow_mul_add _ hmid, Nat.testBit_two_pow_mul_add _ hlow]
  by_cases h1 : m < lo + n
  · by_cases h2 : m < lo
    · rw [if_pos h1, if_pos h2, if_neg (by omega), Nat.testBit_mod_two_pow, decide_eq_true h2, Bool.true_and]
    · rw [if_pos h1, if_neg h2, if_pos (by omega)]
  · rw [if_neg h1, if_neg (by omega), Nat.testBit_div_two_pow, Nat.sub_add_cancel (by omega)]

/-- The sign bits of a window's elements in the place of the old bits there. -/
theorem testBit_signs (s : State) (a : BitVec 6) (e W old lo m : Nat) :
    (old / 2 ^ (lo + W / e) * 2 ^ (lo + W / e) + joined 1 ((s.velems 0 a e W).map fun x => x / 2 ^ (e - 1)) * 2 ^ lo +
      old % 2 ^ lo).testBit m =
      if lo ≤ m ∧ m < lo + W / e then (elem e (source s 0 a) (m - lo)).testBit (e - 1) else old.testBit m := by
  have hlt := joined_lt 1 ((s.velems 0 a e W).map fun x => x / 2 ^ (e - 1))
  rw [List.length_map, velems_length, Nat.one_mul] at hlt
  rw [testBit_replaced hlt]
  split
  · rw [testBit_joined_one, ((enumerates_velems s 0 a e W).map _).2 (m - lo) (by omega), Nat.testBit_div_two_pow,
      Nat.zero_add]
  · rfl

theorem fourBitCodesAndSignatures : FourBitCodesAndSignatures := by
  intro s d a b h k w t hw W n e code byte
  refine ⟨?packInt, ?packFloat, ?unpackInt, ?unpackFloat, ?pair, fun _ _ => ?signs⟩
  case packInt => exact windowed_vpack4 hw fun j => packCode_int _
  case packFloat => exact windowed_vpack4 hw fun j => mod_eq_wrap rfl
  case unpackInt => exact windowed_vunpk4 hw fun j => wrap_mod _ _
  case unpackFloat => exact windowed_vunpk4 hw fun j => mod_eq_wrap rfl
  case pair =>
    exact windowed_of_enumerates hw rfl ((enumerates_half s 0 a h w.toNat).zipWith (enumerates_half s 1 b h w.toNat) _)
      fun j _ => mod_eq_wrap (by push_cast; rfl)
  case signs =>
    refine ⟨_, results_land _ s 3 (.v d.toNat _) rfl, fun m hm => ?_⟩
    rw [BitVec.getLsbD_ofNat, decide_eq_true hm, Bool.true_and, Nat.succ_mul]
    exact testBit_signs s a e W _ _ m

/-! ### Bytes, hashes and counts (R166 to R168) -/

theorem hash32_eq_mixed {x seed : Nat} (hx : x < 2 ^ 32) (hs : seed < 2 ^ 32) :
    hash32 x seed = (mixed (BitVec.ofNat 32 x) (BitVec.ofNat 32 seed)).toNat := by
  rw [← hash32_toNat, BitVec.toNat_ofNat, BitVec.toNat_ofNat, Nat.mod_eq_of_lt hx, Nat.mod_eq_of_lt hs]

theorem popcount_eq_ones {e x : Nat} (hx : x < 2 ^ e) : popcount e x = ones (BitVec.ofNat e x) := by
  rw [← popcount_toNat, BitVec.toNat_ofNat, Nat.mod_eq_of_lt hx]

/-- The order of strings whose first bytes agree is that of the rest. -/
theorem isByteOrder_succ {n x y : Nat} {r : Int} (h0 : elem 8 x 0 = elem 8 y 0)
    (h : IsByteOrder n (x / 2 ^ 8) (y / 2 ^ 8) r) : IsByteOrder (n + 1) x y r := by
  simp only [IsByteOrder, ← elem_succ] at h
  rcases h with ⟨hr, heq⟩ | ⟨k, hk, heq, hr⟩
  · refine Or.inl ⟨hr, fun j hj => ?_⟩
    cases j with
    | zero => exact h0
    | succ j => exact heq j (by omega)
  · refine Or.inr ⟨k + 1, by omega, fun j hj => ?_, hr⟩
    cases j with
    | zero => exact h0
    | succ j => exact heq j (by omega)

theorem isByteOrder_byteCompare (n x y : Nat) : IsByteOrder n x y (byteCompare (elems 8 n x) (elems 8 n y)) := by
  induction n generalizing x y with
  | zero => exact Or.inl ⟨rfl, fun k hk => absurd hk (Nat.not_lt_zero k)⟩
  | succ n ih =>
    have h0 : ∀ z, elem 8 z 0 = z % 2 ^ 8 := fun z => by simp [elem]
    simp only [elems, byteCompare, ← h0]
    rcases Nat.lt_trichotomy (elem 8 x 0) (elem 8 y 0) with h | h | h
    · rw [if_pos h]
      exact Or.inr ⟨0, by omega, fun m hm => absurd hm (Nat.not_lt_zero m), Or.inl ⟨h, rfl⟩⟩
    · rw [if_neg (Nat.not_lt_of_le (Nat.le_of_eq h.symm)), if_neg (Nat.not_lt_of_le (Nat.le_of_eq h))]
      exact isByteOrder_succ h (ih _ _)
    · rw [if_neg (Nat.not_lt_of_gt h), if_pos h]
      exact Or.inr ⟨0, by omega, fun m hm => absurd hm (Nat.not_lt_zero m), Or.inr ⟨h, rfl⟩⟩

/-- The place of a byte that is not the first one is one above its place in the rest. -/
theorem isBytePlace_succ {n x byte : Nat} {r : Int} (h0 : elem 8 x 0 ≠ byte) (h : IsBytePlace n (x / 2 ^ 8) byte r) :
    IsBytePlace (n + 1) x byte (1 + r) := by
  simp only [IsBytePlace, ← elem_succ] at h
  rcases h with ⟨hr, hne⟩ | ⟨k, hk, hr, heq, hne⟩
  · refine Or.inl ⟨by omega, fun j hj => ?_⟩
    cases j with
    | zero => exact h0
    | succ j => exact hne j (by omega)
  · refine Or.inr ⟨k + 1, by omega, by omega, heq, fun j hj => ?_⟩
    cases j with
    | zero => exact h0
    | succ j => exact hne j (by omega)

theorem isBytePlace_byteFind (n x byte : Nat) : IsBytePlace n x byte (byteFind byte (elems 8 n x) : Nat) := by
  induction n generalizing x with
  | zero => exact Or.inl ⟨rfl, fun k hk => absurd hk (Nat.not_lt_zero k)⟩
  | succ n ih =>
    have h0 : elem 8 x 0 = x % 2 ^ 8 := by simp [elem]
    simp only [elems, byteFind, ← h0, beq_iff_eq]
    by_cases h : elem 8 x 0 = byte
    · rw [if_pos h]
      exact Or.inr ⟨0, by omega, rfl, h, fun m hm => absurd hm (Nat.not_lt_zero m)⟩
    · rw [if_neg h, Int.natCast_add, Int.natCast_one]
      exact isBytePlace_succ h (ih _)

theorem vectorBytesHashesAndCounts : VectorBytesHashesAndCounts := by
  intro s d a b z p w t hw _ e W x y
  refine ⟨?vhash, ⟨_, fun j _ => isByteOrder_byteCompare (e / 8) (x e j) (y e j), ?vbcmp⟩,
    ⟨_, fun j _ => isBytePlace_byteFind (e / 8) (x e j) (y e j % 256), ?vbfind⟩, ?vpopc,
    _, fun j _ => isClz_leadingZeros (elem_lt e (source s 0 a) j), ?vclz⟩
  case vhash =>
    exact elementwise_of_vmap2 hw rfl fun j => mod_eq_wrap (congrArg _ (hash32_eq_mixed (elem_lt ..) (elem_lt ..)))
  case vbcmp => exact elementwise_of_vmap2 hw rfl fun j => wrap_mod _ _
  case vbfind => exact elementwise_of_vmap2 hw rfl fun j => mod_eq_wrap rfl
  case vpopc => exact elementwise_of_vmap1 hw rfl fun j => mod_eq_wrap (congrArg _ (popcount_eq_ones (elem_lt ..)))
  case vclz => exact elementwise_of_vmap1 hw rfl fun j => mod_eq_wrap rfl

/-- Settles O12: each word's list of elements enumerates those of its rule, by induction on the bytes of an element where
its rule speaks of them. -/
theorem vectorCodes : Obligations.VectorCodes := ⟨fourBitCodesAndSignatures, vectorBytesHashesAndCounts⟩

end Sys2Proof.Machine
end

section
/-!
PROOF. The accumulators: the lanes that a multiply-accumulate adds to, and their narrowing.
-/
namespace Sys2Proof.Machine

/-! ### Codes fit their formats -/

theorem signed_lt {f : Fmt} {neg : Bool} {code : Nat} (h : code < 2 ^ (f.ebits + f.fbits)) :
    signed f neg code < 2 ^ f.width := by
  have hnan : f.nanCode < 2 ^ (f.ebits + f.fbits) := by cases f <;> decide
  have hw : 2 ^ f.width = 2 * 2 ^ (f.ebits + f.fbits) := by rw [Fmt.width, Nat.add_assoc, Nat.pow_add, Nat.pow_one]
  unfold signed
  split
  · omega
  · split <;> omega

theorem overflowCode_lt (f : Fmt) (mode : Rounding) (neg sat : Bool) :
    overflowCode f mode neg sat < 2 ^ (f.ebits + f.fbits) := by
  cases f <;> cases mode <;> cases neg <;> cases sat <;> decide

/-- A rounded value is a code of its format (R30). -/
theorem roundF_lt (f : Fmt) (mode : Rounding) (v : FVal) (sat : Bool) : roundF f mode v sat < 2 ^ f.width := by
  have hmax : f.maxCode < 2 ^ (f.ebits + f.fbits) := by cases f <;> decide
  have hinf : f.infCode < 2 ^ (f.ebits + f.fbits) := by cases f <;> decide
  match v with
  | .nan =>
    show f.nanCode < 2 ^ f.width
    cases f <;> decide
  | .inf neg => exact signed_lt (by split <;> assumption)
  | .fin neg 0 e => exact signed_lt (Nat.two_pow_pos _)
  | .fin neg (m + 1) e =>
    refine signed_lt ?_
    split
    · exact overflowCode_lt f mode neg sat
    · omega

/-! ### The elements of a lane (R152, R153) -/

theorem elems_eq_map (e n x : Nat) : elems e n x = (List.range n).map (elem e x) :=
  List.ext_getElem (by simp) fun j h _ => by simp [elems_getElem e n x j h]

/-- The k-th group of g places is the places whose quotient by g is k. -/
theorem take_drop_range {n g k : Nat} (hg : 0 < g) :
    ((List.range n).drop (g * k)).take g = (List.range n).filter fun j => j / g == k := by
  induction n with
  | zero => simp
  | succ n ih =>
    have hlast : ([n].drop (g * k - n)).take (g - (n - g * k)) = [n].filter fun j => j / g == k := by
      have hquot : n / g = k ↔ g * k ≤ n ∧ n ≤ g * k + g - 1 := by rw [Nat.div_eq_iff hg, Nat.mul_comm k g]
      by_cases hn : n / g = k
      · obtain ⟨hlo, hhi⟩ := hquot.1 hn
        rw [List.filter_cons_of_pos (by simpa using hn), Nat.sub_eq_zero_of_le hlo, List.drop_zero,
          List.take_of_length_le (by simp only [List.length_singleton]; omega), List.filter_nil]
      · have hout := mt hquot.2 hn
        rw [List.filter_cons_of_neg (by simpa using hn), List.filter_nil]
        by_cases hlo : g * k ≤ n
        · rw [show g - (n - g * k) = 0 by omega, List.take_zero]
        · rw [List.drop_eq_nil_of_le (by simp only [List.length_singleton]; omega), List.take_nil]
    rw [List.range_succ, List.filter_append, ← ih, ← hlast, List.drop_append, List.take_append, List.length_range,
      List.length_drop, List.length_range]

/-- The active products among the k-th g of a list. -/
def activeGroup (g k : Nat) (xs : List (Bool × Nat × Nat)) : List (Bool × Nat × Nat) :=
  ((xs.drop (g * k)).take g).filter (·.1)

theorem activeGroup_drop (g k : Nat) (xs : List (Bool × Nat × Nat)) :
    activeGroup g k (xs.drop g) = activeGroup g (k + 1) xs := by
  rw [activeGroup, activeGroup, List.drop_drop, Nat.mul_succ, Nat.add_comm]

/-- The lanes after a multiply-accumulate: each takes the active ones of its own group of products. -/
theorem macLanes_getD (g : Nat) (f : Nat → List (Nat × Nat) → Nat) (ls : List Nat) (xs : List (Bool × Nat × Nat))
    {k : Nat} (hk : k < ls.length) :
    (macLanes g f ls xs).getD k 0 =
      if activeGroup g k xs = [] then ls.getD k 0 else f (ls.getD k 0) ((activeGroup g k xs).map (·.2)) := by
  induction ls generalizing xs k with
  | nil => exact absurd hk (Nat.not_lt_zero k)
  | cons l ls ih =>
    cases k with
    | zero =>
      have hz : (xs.take g).filter (·.1) = activeGroup g 0 xs := by simp [activeGroup]
      simp only [macLanes, hz, beq_iff_eq, List.getD_cons_zero]
    | succ k =>
      rw [macLanes, List.getD_cons_succ, List.getD_cons_succ, ih (xs.drop g) (Nat.lt_of_succ_lt_succ hk), activeGroup_drop]

/-- The active elements of a lane's group are the contributors of R153, in order. -/
theorem activeGroup_elems (p : Pred) (e W : Nat) {g : Nat} (hg : 0 < g) (k sa sb : Nat) :
    activeGroup g k ((actives p e (W / e)).zip ((elems e (W / e) sa).zip (elems e (W / e) sb))) =
      (contributors p e W g k).map fun j => (active p e j, elem e sa j, elem e sb j) := by
  rw [activeGroup, elems_eq_map, elems_eq_map, actives, List.zip_map', List.zip_map', ← List.map_drop, ← List.map_take,
    List.filter_map, take_drop_range hg, List.filter_filter]
  exact congrArg _ (List.filter_congr fun j _ => Bool.and_comm _ _)

/-- A multiply-accumulate completes with the accumulator whose lanes have taken their contributors. -/
theorem results_macWindow {i : Instr} {s : State} {d a b : BitVec 6} {p : Pred} {e W g L : Nat}
    {f : Nat → List (Nat × Nat) → Nat} (hg : 0 < g) (h : exec i s = (s.macWindow d a b p e W g L f).ok) :
    ∃ z : Acc, Results i s 4 [(.a d.toNat, z.toNat)] ∧ ∀ k, k < 2048 / L →
      elem L z.toNat k =
        (if contributors p e W g k = [] then elem L (s.cur.chainA s.focus.pos d.toNat).toNat k
        else f (elem L (s.cur.chainA s.focus.pos d.toNat).toNat k)
          ((contributors p e W g k).map fun j => (elem e (source s 0 a) j, elem e (source s 1 b) j))) % 2 ^ L := by
  refine ⟨_, results_land i s 4 (.a d.toNat _) h, fun k hk => ?_⟩
  have hin : L * (k + 1) ≤ 2048 := Nat.le_trans (Nat.mul_le_mul_left L hk) (Nat.mul_div_le 2048 L)
  rw [BitVec.toNat_ofNat, elem_mod _ hin, elem_joined, macLanes_getD _ _ _ _ (by simpa using hk), elems_getD _ _ _ _ hk]
  simp only [State.velems, activeGroup_elems p e W hg, List.map_eq_nil_iff, List.map_map]
  rfl

/-! ### Sums of products (Table 6-4, R153) -/

theorem wrap_add_wrap (L : Nat) (x y : Int) : wrap L ((wrap L x : Int) + y) = wrap L (x + y) := by
  have hp : ((2 ^ L : Nat) : Int) ≠ 0 := Int.natCast_ne_zero.2 (Nat.ne_of_gt (Nat.two_pow_pos L))
  rw [wrap, wrap, wrap, Int.toNat_of_nonneg (Int.emod_nonneg x hp), Int.emod_add_emod]

/-- Products added one by one, each sum cut to the lane, are their sum cut once. -/
theorem macInt_eq_wrap (e L lane : Nat) (xs : List (Nat × Nat)) :
    macInt e L lane xs % 2 ^ L = wrap L ((lane : Int) + (xs.map fun x => sext x.1 e * sext x.2 e).sum) := by
  induction xs generalizing lane with
  | nil => simp [macInt, wrap_natCast]
  | cons x xs ih =>
    refine (ih (wrap L ((lane : Int) + sext x.1 e * sext x.2 e))).trans ?_
    rw [wrap_add_wrap, List.map_cons, List.sum_cons, Int.add_assoc]

/-- A lane of products of integers: one that nothing contributes to is a sum of none. -/
theorem macInt_contributors {e L lane : Nat} (js : List Nat) (x y : Nat → Nat) :
    (if js = [] then lane else macInt e L lane (js.map fun j => (x j, y j))) % 2 ^ L =
      wrap L ((lane : Int) + (js.map fun j => sext (x j) e * sext (y j) e).sum) := by
  split
  · rename_i hjs
    simp [hjs, wrap_natCast]
  · rw [macInt_eq_wrap, List.map_map]
    rfl

/-- A lane of products of floating elements keeps its code where nothing contributes to it. -/
theorem macFloat_contributors {f : Fmt} {lane : Nat} (hlane : lane < 2 ^ 32) (js : List Nat) (x y : Nat → Nat) :
    (if js = [] then lane else macFloat f lane (js.map fun j => (x j, y j))) % 2 ^ 32 =
      if js = [] then lane
      else roundF .fp32 .rne (js.foldl (fun acc j => acc.add .rne ((decodeF f (x j)).mul (decodeF f (y j))))
        (decodeF .fp32 lane)) := by
  split
  · exact Nat.mod_eq_of_lt hlane
  · rw [macFloat, List.map_map, List.foldl_map]
    exact Nat.mod_eq_of_lt (roundF_lt .fp32 _ _ _)

theorem exec_vmac (s : State) (d a b : BitVec 6) (p : BitVec 3) (w : BitVec 2) (t : BitVec 3) :
    exec (.vmac d a b p w t) s =
      (s.macWindow d a b (s.rp p.toNat) (elemBits t.toNat) (windowBits w.toNat) (if t.toNat = 0 then 2 else 1)
        (if t.toNat = 2 then 64 else 32) (macInt (elemBits t.toNat) (if t.toNat = 2 then 64 else 32))).ok := by
  show execVmac d a b p w t s = _
  simp only [execVmac, beq_iff_eq]

theorem exec_vfmac (s : State) (d a b : BitVec 6) (p : BitVec 3) (w : BitVec 2) (t : BitVec 3) :
    exec (.vfmac d a b p w t) s =
      (s.macWindow d a b (s.rp p.toNat) (elemBits t.toNat) (windowBits w.toNat) (if t.toNat = 7 then 2 else 1) 32
        (macFloat (fmtOf t.toNat false))).ok := by
  show execVfmac d a b p w t s = _
  simp only [execVfmac, beq_iff_eq]

/-! ### Narrowing (R154) -/

/-- Half an ulp decides the rounding to nearest, and the tie goes to the even one. -/
theorem isNearestEven_roundShift (neg : Bool) (m k : Nat) : IsNearestEven m k (roundShift .rne neg m k) := by
  have hm : (m : Int) = (m / 2 ^ k : Nat) * (2 ^ k : Nat) + (m % 2 ^ k : Nat) := by
    exact_mod_cast (Nat.div_add_mod' m (2 ^ k)).symm
  have hlt := Nat.mod_lt m (Nat.two_pow_pos k)
  have hk : k = 0 → 2 ^ k = 1 := by rintro rfl; rfl
  have hp : (2 : Int) ^ k = (2 ^ k : Nat) := by simp
  have hsucc : ((m / 2 ^ k + 1 : Nat) : Int) * (2 ^ k : Nat) = (m / 2 ^ k : Nat) * (2 ^ k : Nat) + (2 ^ k : Nat) := by
    rw [Int.natCast_add, Int.natCast_one, Int.add_mul, Int.one_mul]
  simp only [IsNearestEven, roundShift, hp, Bool.and_eq_true, beq_iff_eq, bne_iff_ne]
  generalize m / 2 ^ k = q at *
  generalize m % 2 ^ k = r at *
  generalize 2 ^ k = P at *
  split
  · rw [hsucc]
    omega
  · split
    · rw [hsucc]
      omega
    · omega

theorem isNearestEven_neg {q r : Int} {k : Nat} (h : IsNearestEven q k r) : IsNearestEven (-q) k (-r) := by
  have hd : (-q - -r * 2 ^ k).natAbs = (q - r * 2 ^ k).natAbs := by
    rw [← Int.natAbs_neg]
    rw [Int.neg_mul]
    congr 1
    omega
  obtain ⟨hle, htie⟩ := h
  exact ⟨hd ▸ hle, fun h2 => by have := htie (hd ▸ h2); omega⟩

/-- A lane scaled down by a power of two is rounded to nearest, whatever its sign. -/
theorem isNearestEven_roundInt (q : Int) (k : Nat) :
    IsNearestEven q k (roundInt .rne (decide (q < 0)) q.natAbs (-(k : Int))) := by
  have hshift : roundInt .rne (decide (q < 0)) q.natAbs (-(k : Int)) =
      if q < 0 then -(roundShift .rne (decide (q < 0)) q.natAbs k : Int)
      else roundShift .rne (decide (q < 0)) q.natAbs k := by
    by_cases hk : k = 0
    · subst hk
      simp [roundInt, roundShift, Nat.mod_one]
    · simp [roundInt, hk]
  have hround := isNearestEven_roundShift (decide (q < 0)) q.natAbs k
  rw [hshift]
  by_cases hq : q < 0
  · rw [if_pos hq]
    have habs : -(q.natAbs : Int) = q := by omega
    have hneg := isNearestEven_neg hround
    rwa [habs] at hneg
  · rw [if_neg hq]
    rwa [Int.natAbs_of_nonneg (Int.not_lt.1 hq)] at hround

theorem narrowLane_int {t : Nat} (ht : t ≤ 3) (sh lane : Nat) :
    ∃ r, IsNearestEven (sext lane (if t = 3 then 64 else 32)) sh r ∧
      narrowLane t sh lane % 2 ^ elemBits t =
        wrap (elemBits t) (clamp (-2 ^ (elemBits t - 1)) (2 ^ (elemBits t - 1) - 1) r) := by
  refine ⟨_, isNearestEven_roundInt _ _, ?_⟩
  simp only [narrowLane, if_pos ht, beq_iff_eq]
  exact satBits_signed _ _

theorem fmtOf_eq_fp32_iff (t : Nat) : fmtOf t false = .fp32 ↔ t = 6 := by
  unfold fmtOf
  split <;> simp_all

/-- In a floating form bit 4 of B is the mark of saturation (R154). -/
theorem narrowLane_float {t : Nat} (ht : 4 ≤ t) (sh : BitVec 5) (lane : Nat) :
    narrowLane t sh.toNat lane =
      if t = 6 then lane else roundF (fmtOf t false) .rne (decodeF .fp32 lane) (sh.getLsbD 4) := by
  have hsat : (sh.toNat / 16 == 1) = sh.getLsbD 4 := by
    have := sh.isLt
    rw [BitVec.getLsbD, Nat.testBit_eq_decide_div_mod_eq, Nat.mod_eq_of_lt (by omega)]
    rfl
  have hsame : (Fmt.fp32 == fmtOf t false) = decide (t = 6) := by
    rw [Bool.beq_eq_decide_eq, decide_eq_decide, eq_comm, fmtOf_eq_fp32_iff]
  rw [narrowLane, if_neg (by omega), fpConvert, hsat, hsame]
  simp only [decide_eq_true_eq]

theorem elem_div_two_pow (e i x j : Nat) : elem e (x / 2 ^ (e * i)) j = elem e x (i + j) := by
  rw [elem, elem, Nat.div_div_eq_div_mul, ← Nat.pow_add, Nat.mul_add]

/-- A word that ends with fewer elements than its window holds completes with them and zeros above. -/
theorem vectorResult_of_enumerates {i : Instr} {s : State} {lat : Nat} {d : BitVec 6} {e n : Nat} {w : BitVec 2} {xs : List Nat}
    {x : Nat → Nat} (hw : w.toNat ≤ 2) (h : exec i s = (s.vwindow lat d (windowBits w.toNat) (joined e xs)).ok)
    (hx : Enumerates xs n x) (hn : n ≤ windowBits w.toNat / e) :
    ∃ z, VectorResult i s lat d (windowBits w.toNat) z ∧ z.toNat % 2 ^ windowBits w.toNat / 2 ^ (e * n) = 0 ∧
      ∀ j, j < n → elem e z.toNat j = x j % 2 ^ e := by
  have hW : windowBits w.toNat ≤ 1024 := window_le_vector hw
  refine ⟨_, vectorResult_vwindow i s lat d _ _ h, ?_, fun j hj => ?_⟩
  · have hlt := joined_lt e xs
    rw [hx.1] at hlt
    rw [windowVec_low _ _ _ _ hW, Nat.div_eq_of_lt (Nat.lt_of_le_of_lt (Nat.mod_le _ _) hlt)]
  · have hin : e * (j + 1) ≤ windowBits w.toNat :=
      Nat.le_trans (Nat.mul_le_mul_left e (Nat.lt_of_lt_of_le hj hn)) (Nat.mul_div_le _ e)
    rw [windowVec_elem hW hin, elem_joined, hx.2 j hj]

/-- The bits of an accumulator lane that VNARROW to type t reads (Table 6-4). -/
def narrowedBits (t : Nat) : Nat := if t = 3 then 64 else 32

/-- The elements that VNARROW makes of the lanes of one half of an accumulator. -/
def narrowedElems (s : State) (d a : BitVec 6) (h : BitVec 1) (sh : BitVec 5) (p : BitVec 3) (W t : Nat) : List Nat :=
  let L := narrowedBits t
  let e := elemBits t
  let n := min (1024 / L) (W / e)
  mergeElems (decide (60 ≤ d.toNat)) (actives (s.rp p.toNat) e n)
    ((elems L n ((s.cur.readA s.focus.pos a.toNat).toNat / 2 ^ (1024 * h.toNat))).map (narrowLane t sh.toNat))
    (elems e n (s.vold d))

theorem exec_vnarrow (s : State) (d a : BitVec 6) (h : BitVec 1) (sh : BitVec 5) (p : BitVec 3) (w : BitVec 2) (t : BitVec 3) :
    exec (.vnarrow d a h sh p w t) s = (s.vwindow 3 d (windowBits w.toNat)
      (joined (elemBits t.toNat) (narrowedElems s d a h sh p (windowBits w.toNat) t.toNat))).ok := by
  show execVnarrow d a h sh p w t s = _
  simp only [execVnarrow, narrowedElems, narrowedBits, beq_iff_eq]

theorem enumerates_narrowedElems (s : State) (d a : BitVec 6) (h : BitVec 1) (sh : BitVec 5) (p : BitVec 3) (W t : Nat) :
    Enumerates (narrowedElems s d a h sh p W t) (min (1024 / narrowedBits t) (W / elemBits t)) fun j =>
      if (s.rp p.toNat).getLsbD (j * elemBits t / 8) = true then
        narrowLane t sh.toNat (elem (narrowedBits t) (regRead s.cur s.focus.pos (.a a.toNat))
          (1024 / narrowedBits t * h.toNat + j))
      else if 60 ≤ d.toNat then 0 else elem (elemBits t) (s.vold d) j := by
  have hhalf : 1024 = narrowedBits t * (1024 / narrowedBits t) := by
    unfold narrowedBits
    split <;> rfl
  have hpow : 2 ^ (1024 * h.toNat) = 2 ^ (narrowedBits t * (1024 / narrowedBits t * h.toNat)) := by
    rw [← Nat.mul_assoc, ← hhalf]
  refine ⟨by simp [narrowedElems], fun j hj => ?_⟩
  rw [narrowedElems, mergeElems_getD _ _ _ _ _ (by simpa using hj) (by simpa using hj) (by simpa using hj),
    actives_getD _ _ _ _ hj, elems_getD _ _ _ _ hj, ((enumerates_elems _ _ _).map _).2 j hj, hpow]
  simp only [decide_eq_true_eq, elem_div_two_pow]
  rfl

/-- VNARROW completes with the narrowed lanes where its predicate is set, and zeros above them (R154). -/
theorem vnarrow_completes (s : State) (d a : BitVec 6) (p : BitVec 3) {w : BitVec 2} (t : BitVec 3) (hw : w.toNat ≤ 2)
    (h : BitVec 1) (sh : BitVec 5) :
    let e := elemBits t.toNat
    let L := narrowedBits t.toNat
    let W := windowBits w.toNat
    let n := min (1024 / L) (W / e)
    let lane := fun j => elem L (regRead s.cur s.focus.pos (.a a.toNat)) (1024 / L * h.toNat + j)
    ∃ z, VectorResult (.vnarrow d a h sh p w t) s 3 d W z ∧ z.toNat % 2 ^ W / 2 ^ (e * n) = 0 ∧
      ∀ j, j < n →
        ((s.rp p.toNat).getLsbD (j * e / 8) = false →
          elem e z.toNat j = if 60 ≤ d.toNat then 0 else elem e (s.vold d) j) ∧
        ((s.rp p.toNat).getLsbD (j * e / 8) = true → t.toNat ≤ 3 → ∃ r, IsNearestEven (sext (lane j) L) sh.toNat r ∧
          elem e z.toNat j = wrap e (clamp (-2 ^ (e - 1)) (2 ^ (e - 1) - 1) r)) ∧
        ((s.rp p.toNat).getLsbD (j * e / 8) = true → 4 ≤ t.toNat → elem e z.toNat j =
          if t.toNat = 6 then lane j
          else roundF (fmtOf t.toNat false) .rne (decodeF .fp32 (lane j)) (sh.getLsbD 4) % 2 ^ e) := by
  intro e L W n lane
  obtain ⟨z, hz, hzero, helem⟩ := vectorResult_of_enumerates hw (exec_vnarrow s d a h sh p w t)
    (enumerates_narrowedElems s d a h sh p (windowBits w.toNat) t.toNat) (Nat.min_le_right _ _)
  refine ⟨z, hz, hzero, fun j hj => ⟨fun hp => ?old, fun hp ht => ?int, fun hp ht => ?float⟩⟩
  case old =>
    rw [helem j hj, if_neg (Bool.eq_false_iff.1 hp)]
    split
    · exact Nat.zero_mod _
    · exact Nat.mod_eq_of_lt (elem_lt _ _ _)
  case int =>
    obtain ⟨r, hr, hnarrow⟩ := narrowLane_int ht sh.toNat (lane j)
    exact ⟨r, hr, by rw [helem j hj, if_pos hp]; exact hnarrow⟩
  case float =>
    rw [helem j hj, if_pos hp, narrowLane_float ht]
    split
    · rename_i h6
      have he : e = L := by simp only [e, L, h6, elemBits, narrowedBits]; rfl
      exact Nat.mod_eq_of_lt (Nat.lt_of_lt_of_eq (elem_lt L _ _) (congrArg (2 ^ ·) he.symm))
    · rfl

/-- VACLR completes with an accumulator of zeros (R155). -/
theorem results_vaclr (s : State) (d : BitVec 6) : Results (.vaclr d) s 4 [(.a d.toNat, 0)] := by
  have hzero : writeVal (.a d.toNat 0) = 0 := by simp only [writeVal, BitVec.ofNat_eq_ofNat, BitVec.toNat_zero]
  exact hzero ▸ results_land _ s 4 (.a d.toNat 0) rfl

/-- Settles O9: a lane's group of products is its contributors, summed as its kind sums them, and rounding of a shifted lane
is rounding to nearest. -/
theorem accumulation : Obligations.Accumulation := by
  intro s d a b p w t hw e W x y old
  refine ⟨fun _ => ?vmac, fun _ => ?vfmac, results_vaclr s d, vnarrow_completes s d a p t hw⟩
  case vmac =>
    obtain ⟨z, hz, hlane⟩ := results_macWindow (by split <;> decide) (exec_vmac s d a b p w t)
    exact ⟨z, hz, fun k hk => (hlane k hk).trans (macInt_contributors _ _ _)⟩
  case vfmac =>
    obtain ⟨z, hz, hlane⟩ := results_macWindow (by split <;> decide) (exec_vfmac s d a b p w t)
    exact ⟨z, hz, fun k hk => (hlane k hk).trans (macFloat_contributors (elem_lt ..) _ _ _)⟩

end Sys2Proof.Machine
end
